-- ==== Sys2Proof/Word.lean ====
section
/-! DEFINITION. The word types of the model and their plainest arithmetic. Registers and instruction words are bit
vectors where the spec treats them as bits; every number the spec computes on is an unbounded integer (R16). -/
namespace Sys2Proof

/-- One byte of memory, of a buffer or of a BLOB entry. -/
abbrev Byte := BitVec 8

/-- A 64-bit word: an instruction word (R203), the keel hash (R81). -/
abbrev Word64 := BitVec 64

/-- An element of a scaled-block format (R43): `none` is the mark code, which has no numeric value (R45). -/
abbrev Elem := Option Int

/-- The two's-complement value of the low `w` bits of `n` (R15). -/
def toSigned (w n : Nat) : Int :=
  let m := n % 2 ^ w
  if m < 2 ^ (w - 1) then (m : Int) else (m : Int) - (2 ^ w : Nat)

/-- The `w`-bit two's-complement code of `x`, as a natural number (R15). -/
def ofSigned (w : Nat) (x : Int) : Nat := (x % (2 ^ w : Nat)).toNat

/-- Bits `[lo + w - 1 : lo]` of `n` (R10). -/
def bitsOf (n lo w : Nat) : Nat := n / 2 ^ lo % 2 ^ w

/-- Bit `i` of `n` (R10). -/
def bitOf (n i : Nat) : Bool := n / 2 ^ i % 2 == 1

/-- The bytes of a number, least significant first (R8). -/
def leBytes : Nat → Nat → List Byte
  | 0, _ => []
  | k + 1, n => BitVec.ofNat 8 n :: leBytes k (n / 256)

/-- The number whose little-endian bytes are given (R8). -/
def ofLeBytes : List Byte → Nat
  | [] => 0
  | b :: bs => b.toNat + 256 * ofLeBytes bs

/-- The bytes of a number, most significant first, as fields stand on the wire (R9). -/
def beBytes (k n : Nat) : List Byte := (leBytes k n).reverse

/-- The number whose bytes are given most significant first (R9). -/
def ofBeBytes (bs : List Byte) : Nat := ofLeBytes bs.reverse

/-- `⌈a / b⌉`. -/
def ceilDiv (a b : Nat) : Nat := (a + b - 1) / b

/-- Counters are U64 and wrap at 2⁶⁴ (Table 14-1). -/
def wrap64 (n : Nat) : Nat := n % 2 ^ 64

end Sys2Proof
end

