-- ==== Sys2Proof/Syntax.lean ====
section
/-! DEFINITION. The commands of the block: one constructor per row of spec/opcode_table.json. An instruction row carries
the Heat context `h`, the `lane` whose sequencer reads the instruction at its program counter, and the fields of its
word; `rsv` is the value of the reserved bits of the word, low bits first (R13). An event row carries the unit that it
happens in and what the outside supplies: bytes that arrive, host memory that is read, the verdict of a check that an
external standard defines. -/
namespace Sys2Proof

/-- A frame that arrives on an Oarlock (R394 to R396): the FRAME_START word, the extension header, the payload as decrypted,
whether every codeword that it touches was corrected, whether its tag verifies under the receiver's key, and the FEC
symbols corrected in it. -/
structure RxFrame where
  hdr : BitVec 256
  ext : BitVec 128
  payload : List (BitVec 8)
  whole : Bool
  tagOk : Bool
  corrected : Nat
deriving DecidableEq, Repr

/-- A control word that arrives on an Oarlock (R399): its 256 bits, whether its codeword was corrected. -/
structure RxWord where
  bits : BitVec 256
  whole : Bool
deriving DecidableEq, Repr

/-- Where a request came from, and where its answers go (R586, R589). -/
inductive Port where
  | mgmt (address : BitVec 32) (udp : BitVec 16)
  | mailbox
deriving DecidableEq, Repr

/-- A Xefin frame that arrives (R587): where from, its header as a 256-bit number, the payload bytes that follow it and, where
auth is set, whether the tag verifies under the key of the session that it names. -/
structure XefinFrame where
  port : Port
  hdr : BitVec 256
  payload : List (BitVec 8)
  tagOk : Bool
deriving DecidableEq, Repr

/-- How an SPDM request arrives (R523): through DOE on the CXL port, or inside a Xefin frame. -/
inductive SpdmVia where
  | doe (message : List (BitVec 8))
  | xefin (q : XefinFrame)
deriving DecidableEq, Repr

/-- The instructions of the test access port (R661); every other code selects BYPASS. -/
inductive JtagInstr where
  | bypass | samplePreload | extest | extestPulse | extestTrain | clamp | highz | other
deriving DecidableEq, Repr

/-- What reaches the DHCPv4 client (R586, RFC 2131). -/
inductive DhcpEvent where
  | start
  | offer (address server : BitVec 32)
  | ack (address : BitVec 32)
  | nak
deriving DecidableEq, Repr

/-- What the memory path reports of the requests of an instruction when it completes, or of the part of it that has landed: the
sets of causes that hold in their waiting cycles (R323), by stack the symbols that the on-die ECC corrected (R287) and the reads
repeated after a mismatch (R330), and an address in the unit whose three reads mismatched, if any. -/
structure MemReport where
  waits : List (BitVec 12) := []
  ecc : List (Fin 12 × Nat) := []
  retries : List (Fin 12 × Nat) := []
  failed : Option (BitVec 40) := none
deriving DecidableEq, Repr

/-- What a BLADE_COMPLETE reports: the entry cycles in which no row entered, by cause (R124, R168), and its requests. -/
structure BladeReport where
  waits : List (BitVec 32)
  mem : MemReport := {}
deriving DecidableEq, Repr

/-- What a SCULL_COMPLETE reports: the cycles that the Scull waited for memory (R228), and its requests. -/
structure ScullReport where
  waits : Nat
  mem : MemReport := {}
deriving DecidableEq, Repr

/-- What has landed of the `move`-th move in flight of an engine: `part` are the rows that have landed whole and the bytes of the row
after them, or `none` where all has (R317); its requests. -/
structure MovePart where
  move : Nat
  part : Option (Nat × Nat) := none
  mem : MemReport := {}
deriving DecidableEq, Repr

/-- The layer that an engine has fetched: the engine, the requests (R321). -/
structure LayerReport where
  engine : Fin 16
  mem : MemReport := {}
deriving DecidableEq, Repr

/-- A device read of a unit: how often its MAC mismatched (R330), the symbols that the on-die ECC corrected (R287). -/
structure UnitRead where
  mism : Fin 4
  ecc : Nat := 0
deriving DecidableEq, Repr

/-- A command of the block. -/
inductive Instr where
  /-- BL_RUN (R213). -/
  | blRun (h : Fin 64) (lane : Fin 4) (blade : Fin 4) (pd : BitVec 16) (xi : BitVec 4) (chx chn : Bool) (ch : BitVec 16)
      (ramp : Bool) (acc : BitVec 2) (csem : BitVec 9)
  /-- BLADE_CHECK (R138). -/
  | bladeCheck (n : Fin 4)
  /-- RAMP_GATE_OPEN (R571). -/
  | rampGateOpen (n : Fin 4)
  /-- GRANULE_WATCHDOG (R125): granule (g, q) of Blade n has been paused for `cycles`; the cause is 0 FEED, 1 DRAIN. -/
  | granuleWatchdog (n : Fin 4) (g q : Fin 8) (drain : Bool) (cycles : Nat)
  /-- TILE_DECISION (R127): band and column group of the oldest BLADE in flight on Blade n. -/
  | tileDecision (n : Fin 4) (band : Nat) (group : Fin 8)
  /-- TILE_REDO (R128). -/
  | tileRedo (n : Fin 4) (band : Nat)
  /-- BLADE_COMPLETE (R219): the cycles since the last such row in which no row entered, by the six causes of R124 in their order, and
  those of the Finish ordering wait (R168); what the memory path reports. -/
  | bladeComplete (n : Fin 4) (x : BladeReport)
  /-- RECEIVE_SLOT_ARRIVAL (R185). -/
  | receiveSlotArrival (n : Fin 4)
  /-- RECEIVE_SLOT_CREDIT_RETURN (R187). -/
  | receiveSlotCreditReturn (n : Fin 4) (rslot : Fin 64)
  /-- CH_OPEN (R222). -/
  | chOpen (h : Fin 64) (lane : Fin 4) (blade : Fin 4) (ledger : BitVec 16) (xi : BitVec 4) (csem : BitVec 9) (rsv : BitVec
      21)
  /-- CH_DROP (R223). -/
  | chDrop (h : Fin 64) (lane : Fin 4) (blade slot : Fin 4) (rsv : BitVec 48)
  /-- CH_BIND (R223). -/
  | chBind (h : Fin 64) (lane : Fin 4) (blade : Fin 4) (rslot : Fin 64) (tag : BitVec 16) (rsv : BitVec 28)
  /-- CH_UNBIND (R223). -/
  | chUnbind (h : Fin 64) (lane : Fin 4) (blade : Fin 4) (rslot : Fin 64) (rsv : BitVec 44)
  /-- CH_TOPEN (R224). -/
  | chTopen (h : Fin 64) (lane : Fin 4) (handle : BitVec 16) (xi : BitVec 4) (rsvHi : BitVec 2) (rsvLo : BitVec 30)
  /-- CH_TCLOSE (R224). -/
  | chTclose (h : Fin 64) (lane : Fin 4) (handle : BitVec 16) (xi : BitVec 4) (rsvHi : BitVec 2) (rsvLo : BitVec 30)
  /-- SC_EXPAND (R227). -/
  | scExpand (h : Fin 64) (lane : Fin 4) (scull : Fin 16) (handle : BitVec 16) (xi : BitVec 4) (csem : BitVec 9) (rsv :
      BitVec 19)
  /-- SC_QUANT (R230). -/
  | scQuant (h : Fin 64) (lane : Fin 4) (scull : Fin 16) (handle : BitVec 16) (xi : BitVec 4) (csem : BitVec 9) (rsv :
      BitVec 19)
  /-- SC_BIAS (R227). -/
  | scBias (h : Fin 64) (lane : Fin 4) (scull : Fin 16) (handle : BitVec 16) (xi : BitVec 4) (csem : BitVec 9) (rsv : BitVec
      19)
  /-- SC_ACT (R227). -/
  | scAct (h : Fin 64) (lane : Fin 4) (scull : Fin 16) (handle : BitVec 16) (xi : BitVec 4) (csem : BitVec 9) (rsv : BitVec
      19)
  /-- SC_GATE (R227). -/
  | scGate (h : Fin 64) (lane : Fin 4) (scull : Fin 16) (handle : BitVec 16) (xi : BitVec 4) (csem : BitVec 9) (rsv : BitVec
      19)
  /-- SC_RESID (R227). -/
  | scResid (h : Fin 64) (lane : Fin 4) (scull : Fin 16) (handle : BitVec 16) (xi : BitVec 4) (csem : BitVec 9) (rsv :
      BitVec 19)
  /-- SC_SMAX (R231). -/
  | scSmax (h : Fin 64) (lane : Fin 4) (scull : Fin 16) (handle : BitVec 16) (xi : BitVec 4) (csem : BitVec 9) (rsv : BitVec
      19)
  /-- SC_STATS (R231). -/
  | scStats (h : Fin 64) (lane : Fin 4) (scull : Fin 16) (handle : BitVec 16) (xi : BitVec 4) (csem : BitVec 9) (rsv :
      BitVec 19)
  /-- SC_MARK (R227). -/
  | scMark (h : Fin 64) (lane : Fin 4) (scull : Fin 16) (handle : BitVec 16) (xi : BitVec 4) (csem : BitVec 9) (rsv : BitVec
      19)
  /-- SC_LEDGER (R227). -/
  | scLedger (h : Fin 64) (lane : Fin 4) (scull : Fin 16) (handle : BitVec 16) (xi : BitVec 4) (csem : BitVec 9) (rsv :
      BitVec 19)
  /-- SC_ADD (R227). -/
  | scAdd (h : Fin 64) (lane : Fin 4) (scull : Fin 16) (handle : BitVec 16) (xi : BitVec 4) (csem : BitVec 9) (rsv : BitVec
      19)
  /-- SC_RSUM (R229). -/
  | scRsum (h : Fin 64) (lane : Fin 4) (scull : Fin 16) (handle : BitVec 16) (xi : BitVec 4) (csem : BitVec 9) (rsv : BitVec
      19)
  /-- SC_CARRY (R355). -/
  | scCarry (h : Fin 64) (lane : Fin 4) (scull : Fin 16) (handle : BitVec 16) (xi : BitVec 4) (csem : BitVec 9) (rsv :
      BitVec 19)
  /-- SC_CADD (R227). -/
  | scCadd (h : Fin 64) (lane : Fin 4) (scull : Fin 16) (handle : BitVec 16) (xi : BitVec 4) (csem : BitVec 9) (rsv : BitVec
      19)
  /-- SC_UNCARRY (R227). -/
  | scUncarry (h : Fin 64) (lane : Fin 4) (scull : Fin 16) (handle : BitVec 16) (xi : BitVec 4) (csem : BitVec 9) (rsv :
      BitVec 19)
  /-- SC_OPT (R273). -/
  | scOpt (h : Fin 64) (lane : Fin 4) (scull : Fin 16) (handle : BitVec 16) (xi : BitVec 4) (csem : BitVec 9) (rsv : BitVec
      19)
  /-- SC_LOSS (R283). -/
  | scLoss (h : Fin 64) (lane : Fin 4) (scull : Fin 16) (handle : BitVec 16) (xi : BitVec 4) (csem : BitVec 9) (rsv : BitVec
      19)
  /-- SCULL_COMPLETE (R228): the cycles that the Scull waited for memory; what the memory path reports. -/
  | scullComplete (k : Fin 16) (x : ScullReport)
  /-- LA_MOVE (R316). -/
  | laMove (h : Fin 64) (lane : Fin 4) (e : Fin 16) (handle : BitVec 16) (xi : BitVec 4) (csem : BitVec 9) (rsv : BitVec 19)
  /-- MOVE_COMPLETE (R317): the `k`-th of the moves that the engine has in flight, oldest first, has landed `part`: rows whole, then
  bytes of the next row; or all of it, which completes it. What the memory path reports of that part. -/
  | moveComplete (e : Fin 16) (x : MovePart)
  /-- LA_WINDOW (R321). -/
  | laWindow (h : Fin 64) (lane : Fin 4) (e : Fin 16) (handle : BitVec 16) (xi : BitVec 4) (csem : BitVec 9) (rsv : BitVec
      19)
  /-- WINDOW_LAYER_LANDED (R321): what the memory path reports of the layer. -/
  | windowLayerLanded (x : LayerReport)
  /-- WINDOW_RELEASE (R321). -/
  | windowRelease (e : Fin 16)
  /-- LA_HINT_PREFETCH (R306): an LA_HINT whose descriptor asks for it. -/
  | laHintPrefetch (h : Fin 64) (lane : Fin 4) (e : Fin 16) (handle : BitVec 16) (xi : BitVec 4) (csem : BitVec 9) (rsv :
      BitVec 19)
  /-- LA_HINT_PIN (R310): an LA_HINT whose descriptor asks for it. -/
  | laHintPin (h : Fin 64) (lane : Fin 4) (e : Fin 16) (handle : BitVec 16) (xi : BitVec 4) (csem : BitVec 9) (rsv : BitVec
      19)
  /-- LA_HINT_UNPIN (R311): an LA_HINT whose descriptor asks for it. -/
  | laHintUnpin (h : Fin 64) (lane : Fin 4) (e : Fin 16) (handle : BitVec 16) (xi : BitVec 4) (csem : BitVec 9) (rsv :
      BitVec 19)
  /-- PIN_RESIDENT (R310): the last line of a pin entry, named by its first line, has landed. -/
  | pinResident (d : Fin 2) (line : Nat)
  /-- LA_RELAY (R234). -/
  | laRelay (h : Fin 64) (lane : Fin 4) (engine : Fin 16) (handle : BitVec 16) (xi : BitVec 4) (csem : BitVec 9) (rsv :
      BitVec 19)
  /-- REDUCE_SCATTER (R357): the collective at the head of the Relay queue of the Heat, as for the next three. -/
  | reduceScatter (h : Fin 64)
  /-- ALL_GATHER (R350). -/
  | allGather (h : Fin 64)
  /-- ALL_REDUCE (R371). -/
  | allReduce (h : Fin 64)
  /-- PERMUTE (R372). -/
  | permute (h : Fin 64)
  /-- REDUCE_SEGMENT (R357): a frame `f` that arrives on Oarlock `o`, as for every frame row. -/
  | reduceSegment (o : Fin 24) (f : RxFrame)
  /-- GATHER_SEGMENT (R350). -/
  | gatherSegment (o : Fin 24) (f : RxFrame)
  /-- PERMUTE_SEGMENT (R374). -/
  | permuteSegment (o : Fin 24) (f : RxFrame)
  /-- CONSENSUS_WORD (R361). -/
  | consensusWord (o : Fin 24) (f : RxFrame)
  /-- CONSENSUS_LAP_END (R364): the Crew and the tag of the collective. -/
  | consensusLapEnd (c : Fin 4) (tag : BitVec 12)
  /-- COLLECTIVE_COMPLETE (R344): the Crew and the tag of the collective. -/
  | collectiveComplete (c : Fin 4) (tag : BitVec 12)
  /-- SY_POST (R235). -/
  | syPost (h : Fin 64) (lane : Fin 4) (sem : BitVec 9) (n : BitVec 16) (rsv : BitVec 27)
  /-- SY_WAIT (R236). -/
  | syWait (h : Fin 64) (lane : Fin 4) (sem : BitVec 9) (n : BitVec 16) (consume xwin : Bool) (rsv : BitVec 25)
  /-- WAIT_SATISFIED (R237). -/
  | waitSatisfied (h : Fin 64) (lane : Fin 4)
  /-- SY_SET (R236). -/
  | sySet (h : Fin 64) (lane : Fin 4) (sem : BitVec 9) (value : BitVec 32) (rsv : BitVec 11)
  /-- SY_ACQ (R236). -/
  | syAcq (h : Fin 64) (lane : Fin 4) (sem : BitVec 9) (rsv : BitVec 43)
  /-- SY_REL (R236). -/
  | syRel (h : Fin 64) (lane : Fin 4) (sem : BitVec 9) (rsv : BitVec 43)
  /-- SY_FENCE (R236). -/
  | syFence (h : Fin 64) (lane : Fin 4) (mask : BitVec 4) (rsv : BitVec 48)
  /-- SY_FRAME (R240). -/
  | syFrame (h : Fin 64) (lane : Fin 4) (join : Bool) (rsv : BitVec 51)
  /-- FRAME_WORK_END (R455): the work of the closing frame of a lane is done. -/
  | frameWorkEnd (h : Fin 64) (lane : Fin 4)
  /-- WAIT_WATCHDOG (R239). -/
  | waitWatchdog (h : Fin 64) (lane : Fin 4)
  /-- QUEUE_SPACE (R202). -/
  | queueSpace (h : Fin 64) (lane : Fin 4)
  /-- CT_NOP (R243). -/
  | ctNop (h : Fin 64) (lane : Fin 4) (rsv : BitVec 52)
  /-- CT_SETC (R243). -/
  | ctSetc (h : Fin 64) (lane : Fin 4) (reg : Fin 16) (imm : BitVec 32) (rsv : BitVec 16)
  /-- CT_ADDC (R243). -/
  | ctAddc (h : Fin 64) (lane : Fin 4) (reg : Fin 16) (simm : BitVec 32) (rsv : BitVec 16)
  /-- CT_BR (R244). -/
  | ctBr (h : Fin 64) (lane : Fin 4) (cond : BitVec 3) (reg : Fin 16) (imm : BitVec 16) (off : BitVec 20) (sem : BitVec 9)
  /-- CT_LOOP (R243). -/
  | ctLoop (h : Fin 64) (lane : Fin 4) (reg : Fin 16) (off : BitVec 20) (rsv : BitVec 28)
  /-- CT_PHASE (R245). -/
  | ctPhase (h : Fin 64) (lane : Fin 4) (phase : BitVec 3) (rsv : BitVec 49)
  /-- CT_PMARK (R246). -/
  | ctPmark (h : Fin 64) (lane : Fin 4) (handle : BitVec 16) (xi : BitVec 4) (rsv : BitVec 32)
  /-- CT_STEP (R247). -/
  | ctStep (h : Fin 64) (lane : Fin 4) (rsv : BitVec 52)
  /-- STEP_LOOP (R247). -/
  | stepLoop (h : Fin 64)
  /-- CT_HALT (R248). -/
  | ctHalt (h : Fin 64) (lane : Fin 4) (rsv : BitVec 52)
  /-- HEAT_DONE (R248). -/
  | heatDone (h : Fin 64)
  /-- INGEST (R462). -/
  | ingest (h : Fin 64) (lane : Fin 4) (handle : BitVec 16) (csem : BitVec 9) (rsv : BitVec 15)
  /-- INGEST_COPY (R462): the ring word and the producer index that the host memory gives, whether the reads succeed, the
  entries. -/
  | ingestCopy (h : Fin 64) (ring producer : BitVec 64) (ok : Bool) (bytes : List (BitVec 8))
  /-- ADMIT (R500). -/
  | admitService (h : Fin 64) (lane : Fin 4) (handle : BitVec 16) (csem : BitVec 9) (rsv : BitVec 15)
  /-- ADMIT_REQUEST_READ (R499): the indices that the host memory gives, and the request entry. -/
  | admitRequestRead (h : Fin 64) (producer consumer : BitVec 64) (entry : BitVec 512)
  /-- CHECKPOINT (R632). -/
  | checkpoint (h : Fin 64) (lane : Fin 4) (handle : BitVec 16) (csem : BitVec 9) (rsv : BitVec 15)
  /-- CHECKPOINT_SNAPSHOT (R632): the point of R634 has come for the Heat. -/
  | checkpointSnapshot (h : Fin 64)
  /-- NOTE (R249). -/
  | note (h : Fin 64) (lane : Fin 4) (handle : BitVec 16) (csem : BitVec 9) (rsv : BitVec 15)
  /-- STROKE_EDGE (R440). -/
  | strokeEdge
  /-- MAINTENANCE_SLOT_OPEN (R458). -/
  | maintenanceSlotOpen
  /-- PMARK_SAVE (R485). -/
  | pmarkSave (h : Fin 64)
  /-- PMARK_DEADLINE (R484). -/
  | pmarkDeadline (h : Fin 64)
  /-- COLLECTIVE_WAIT_LIMIT (R487). -/
  | collectiveWaitLimit (h : Fin 64)
  /-- SAVE_COMPLETE (R489). -/
  | saveComplete (h : Fin 64)
  /-- RESTORE_COMPLETE (R491). -/
  | restoreComplete (h : Fin 64)
  /-- START (R481). -/
  | start (h : Fin 64)
  /-- STOP (R481). -/
  | stop (h : Fin 64)
  /-- SUSPEND (R481). -/
  | suspend (h : Fin 64)
  /-- RESUME (R481). -/
  | resume (h : Fin 64)
  /-- HBM_READ (R290): a read on behalf of a Heat of the unit that holds `addr`; `mism` tries fail their MAC, `ecc` symbols are
  corrected, `waits` are its wait causes, `lat` its latency in ns. -/
  | hbmRead (h : Fin 64) (lane : Fin 4) (addr : BitVec 40) (launch lookup : Bool) (mism : Fin 4) (ecc : Nat) (waits : List
      (BitVec 12)) (lat : Nat)
  /-- HBM_WRITE (R290): a write at `addr` for a Heat, with its wait causes. -/
  | hbmWrite (h : Fin 64) (lane : Fin 4) (addr : BitVec 40) (bytes : List (BitVec 8)) (waits : List (BitVec 12))
  /-- PARTIAL_WRITE_MERGE_TIMEOUT (R290): the unit of the channel, the tries of its read whose MAC failed, the symbols corrected. -/
  | partialWriteMergeTimeout (ch : Fin 384) (unit : Nat) (x : UnitRead)
  /-- REGION_FILL_DONE (R294). -/
  | regionFillDone (r : Fin 64)
  /-- RETRAIN_DONE (R329): whether the margin test passes. -/
  | retrainDone (ch : Fin 384) (pass : Bool)
  /-- FORCED_RETRAIN (R328). -/
  | forcedRetrain (ch : Fin 384)
  /-- STACK_TEMPERATURE (R331): a temperature in m°C. -/
  | stackTemperature (k : Fin 12) (mc : BitVec 32)
  /-- OARLOCK_DOWN_WAIT (R418). -/
  | oarlockDownWait (o : Fin 24)
  /-- SIGNAL_DETECT (R417). -/
  | signalDetect (o : Fin 24)
  /-- EQUALISE_DONE (R417). -/
  | equaliseDone (o : Fin 24)
  /-- ALIGN_DONE (R417): the lanes that are inverted, and whether the lane order is reversed. -/
  | alignDone (o : Fin 24) (polarity : BitVec 8) (reversed : Bool)
  /-- TRAINING_LIMIT (R417). -/
  | trainingLimit (o : Fin 24)
  /-- IDENTITY_FRAME (R420). -/
  | identityFrame (o : Fin 24) (f : RxFrame)
  /-- IDENTITY_FRAME_SEND (R417). -/
  | identityFrameSend (o : Fin 24)
  /-- ENCAPS (R537). -/
  | encaps (o : Fin 24) (f : RxFrame)
  /-- CIPHER (R537). -/
  | cipher (o : Fin 24) (f : RxFrame)
  /-- PROOF (R539): once both parts are there, whether the signature verifies, and the digest of its public key. -/
  | proof (o : Fin 24) (f : RxFrame) (sigOk : Bool) (digest : List (BitVec 8))
  /-- READY (R417): a control word `w` that arrives on Oarlock `o`, as for every word row. -/
  | ready (o : Fin 24) (w : RxWord)
  /-- READY_SEND (R417). -/
  | readySend (o : Fin 24)
  /-- REKEY (R540): whether the code of its body verifies. -/
  | rekey (o : Fin 24) (f : RxFrame) (macOk : Bool)
  /-- LINK_REKEY_START (R540). -/
  | linkRekeyStart (o : Fin 24)
  /-- CREW_UPDATE (R542): whether the code of its body verifies. -/
  | crewUpdate (o : Fin 24) (f : RxFrame) (macOk : Bool)
  /-- CREW_ACK (R542): whether the code of its body verifies. -/
  | crewAck (o : Fin 24) (f : RxFrame) (macOk : Bool)
  /-- CREW_UPDATE_TIMEOUT (R543). -/
  | crewUpdateTimeout (o : Fin 24) (c : Fin 4)
  /-- TELEM (R437). -/
  | telem (o : Fin 24) (f : RxFrame)
  /-- TELEM_SEND (R437). -/
  | telemSend
  /-- TELEMETRY_MISSING (R437). -/
  | telemetryMissing (w : Fin 12)
  /-- STOP_FRAME (R436). -/
  | stopFrame (o : Fin 24) (f : RxFrame)
  /-- OARLOCK_LOSS (R435): the cause. -/
  | oarlockLoss (o : Fin 24) (c : BitVec 3)
  /-- ELECTRICAL_IDLE_TIMER (R435): the instant from which the lanes have been idle. -/
  | electricalIdleTimer (o : Fin 24) (from_ : Nat)
  /-- CODEWORD_LOCK_TIMER (R435): the instant from which the lock has been lost. -/
  | codewordLockTimer (o : Fin 24) (from_ : Nat)
  /-- NO_VALID_WORD_TIMER (R435). -/
  | noValidWordTimer (o : Fin 24)
  /-- IDLE (R399). -/
  | idle (o : Fin 24) (w : RxWord)
  /-- CREDIT (R409). -/
  | credit (o : Fin 24) (w : RxWord)
  /-- ACK (R404). -/
  | ack (o : Fin 24) (w : RxWord)
  /-- ACK_SEND (R404). -/
  | ackSend (o : Fin 24)
  /-- REPLAY_TIMEOUT (R406). -/
  | replayTimeout (o : Fin 24)
  /-- TICK (R451). -/
  | tick (o : Fin 24) (w : RxWord)
  /-- NOT_READY (R422). -/
  | notReady (o : Fin 24) (w : RxWord)
  /-- ALIGN (R392). -/
  | align (o : Fin 24) (w : RxWord)
  /-- ALIGN_SEND (R392). -/
  | alignSend (o : Fin 24)
  /-- PEER_RECORD_IDLE (R402): the origin of the record and its Crew. -/
  | peerRecordIdle (origin : Nat) (crew : Fin 4)
  /-- WARD_DATA (R634). -/
  | wardData (o : Fin 24) (f : RxFrame)
  /-- SEAL_REQ (R633). -/
  | sealReq (o : Fin 24) (f : RxFrame)
  /-- SEAL_REP (R632). -/
  | sealRep (o : Fin 24) (f : RxFrame)
  /-- RESTORE_DATA (R637). -/
  | restoreData (o : Fin 24) (f : RxFrame)
  /-- PTP_SYNC (R447): an exchange with the master, with its four timestamps and two correction fields in ns. -/
  | ptpSync (domain : BitVec 8) (source : Nat) (t1 t2 t3 t4 c1 c2 : Int)
  /-- PTP_ANNOUNCE (R446): a received Announce, field by field. -/
  | ptpAnnounce (domain : BitVec 8) (p1 class_ acc var p2 gm steps source : Nat)
  /-- PPS_IN_EDGE (R447). -/
  | ppsInEdge
  /-- TICK_IN_EDGE (R454). -/
  | tickInEdge
  /-- REFERENCE_LOSS_TIMEOUT (R448). -/
  | referenceLossTimeout
  /-- EVENT_RECORD (R466). -/
  | eventRecord (d : Fin 2)
  /-- MIRROR_DATAGRAM (R470). -/
  | mirrorDatagram
  /-- ERG_WINDOW_CLOSE (R473). -/
  | ergWindowClose (m : Fin 64)
  /-- ERG_SNAPSHOT (R474). -/
  | ergSnapshot
  /-- PACER_EVAL (R558): the estimate of each Blade and of the other consumers, in mW. -/
  | pacerEval (e0 e1 e2 e3 rest : Nat)
  /-- POWER_CAP_STEP (R559). -/
  | powerCapStep
  /-- CAP_FLOOR_TIMEOUT (R560). -/
  | capFloorTimeout
  /-- DISAGREEMENT_TIMEOUT (R561). -/
  | disagreementTimeout
  /-- HOLD_END (R562). -/
  | holdEnd
  /-- JUNCTION_TEMPERATURE (R563): a sensor reads `mc` m°C. -/
  | junctionTemperature (d : Fin 2) (sensor : Fin 32) (mc : BitVec 32)
  /-- THERMAL_TRIP (R564): a sensor reads `mc` m°C. -/
  | thermalTrip (mc : BitVec 32)
  /-- RAIL_READ (R566): a transaction of rail `r`: whether it succeeds, mV, mA, mW. -/
  | railRead (r : Fin 10) (ok : Bool) (mv ma mw : Nat)
  /-- DROOP_TRIP (R568). -/
  | droopTrip (d : Fin 2) (rail : Fin 3)
  /-- STRETCH_END (R568): the cycles that the stretch lasted. -/
  | stretchEnd (d : Fin 2) (cycles : Nat)
  /-- SEAT_SLICE_END (R577): the signature of the slice. -/
  | seatSliceEnd (u : Fin 36) (signature : BitVec 64)
  /-- ROTATE_OUT (R579). -/
  | rotateOut (n : Fin 4)
  /-- RETURN (R579). -/
  | seatReturn (n : Fin 4)
  /-- AUTOMATIC_ROTATION (R579). -/
  | automaticRotation (n : Fin 4)
  /-- SCRUB (R545). -/
  | scrub (c : Fin 4)
  /-- SCRUB_END (R545). -/
  | scrubEnd (c : Fin 4)
  /-- ROTATE (R530). -/
  | rotate (c : Fin 4)
  /-- REKEY_PASS_DONE (R531). -/
  | rekeyPassDone (c : Fin 4)
  /-- KEY_DELIVERY (R534): whether the wrapped key unwraps under the receipt key. -/
  | keyDelivery (q : XefinFrame) (unwraps : Bool)
  /-- UNSEAL (R535): the request of 32 bytes. -/
  | unseal (c : Fin 4) (req : BitVec 256)
  /-- TRNG_HEALTH_FAILURE (R505). -/
  | trngHealthFailure (d : Fin 2)
  /-- GET_VERSION (R523): how the message arrives, as for every SPDM row. -/
  | getVersion (via : SpdmVia)
  /-- GET_CAPABILITIES (R523). -/
  | getCapabilities (via : SpdmVia)
  /-- NEGOTIATE_ALGORITHMS (R523). -/
  | negotiateAlgorithms (via : SpdmVia)
  /-- GET_DIGESTS (R523). -/
  | getDigests (via : SpdmVia)
  /-- GET_CERTIFICATE (R523). -/
  | getCertificate (via : SpdmVia)
  /-- CHALLENGE (R523). -/
  | challenge (via : SpdmVia)
  /-- GET_MEASUREMENTS (R524). -/
  | getMeasurements (via : SpdmVia)
  /-- SPDM_UNSUPPORTED_REQUEST (R523). -/
  | spdmUnsupportedRequest (via : SpdmVia)
  /-- READ (R596): a Xefin frame `q`, as for every Xefin row. -/
  | read (q : XefinFrame)
  /-- READ_BLOB (R597). -/
  | readBlob (q : XefinFrame)
  /-- LOGBOOK_READ (R597). -/
  | logbookRead (q : XefinFrame)
  /-- WRITE (R596). -/
  | write (q : XefinFrame)
  /-- WRITE_BLOB (R597). -/
  | writeBlob (q : XefinFrame)
  /-- IMAGE_WRITE (R609): what the digest and signature checks of the whole image answer: 0, 2 or 4. -/
  | imageWrite (q : XefinFrame) (outside : BitVec 3)
  /-- REGISTER_WRITE (R584): a value written to one entry, index and sub-index. -/
  | registerWrite (index : BitVec 16) (sub : BitVec 8) (value : BitVec 64)
  /-- STAGE (R598). -/
  | stage (q : XefinFrame)
  /-- DISCARD (R599). -/
  | discard (q : XefinFrame)
  /-- COMMIT (R601). -/
  | commit (q : XefinFrame)
  /-- COMMIT_APPLY (R602). -/
  | commitApply
  /-- CANCEL (R603). -/
  | cancel (q : XefinFrame)
  /-- SESS_OPEN (R591): whether the signature of the request verifies. -/
  | sessOpen (q : XefinFrame) (sigOk : Bool)
  /-- SESS_CLOSE (R594). -/
  | sessClose (q : XefinFrame)
  /-- SESSION_IDLE_TIMEOUT (R594): the session. -/
  | sessionIdleTimeout (id : BitVec 32)
  /-- FRAGMENT_TIMEOUT (R588). -/
  | fragmentTimeout
  /-- ACTIVATE (R609). -/
  | activate (part : Fin 7)
  /-- ABANDON (R609). -/
  | abandon (part : Fin 7)
  /-- PART_ACTIVE_END (R610). -/
  | partActiveEnd (part : Fin 7)
  /-- ARP_REQUEST (R586). -/
  | arpRequest (target senderIp : BitVec 32) (senderMac : BitVec 48)
  /-- ICMP_ECHO (R586). -/
  | icmpEcho (target source : BitVec 32) (data : List (BitVec 8))
  /-- DHCP_CLIENT (R586). -/
  | dhcpClient (e : DhcpEvent)
  /-- RECOVER (R637). -/
  | recover (c : Fin 4)
  /-- RESTORE (R637). -/
  | restore (c : Fin 4)
  /-- SEND_WARD (R637). -/
  | sendWard (c : Fin 4)
  /-- RECEIVE (R637). -/
  | receive (c : Fin 4)
  /-- CLEAR (R637). -/
  | clear (c : Fin 4)
  /-- RESTORE_DONE (R637). -/
  | restoreDone (c : Fin 4)
  /-- PWR_OK (R617): the level, and how long the pin has been there. -/
  | pwrOk (low : Bool) (ns : Nat)
  /-- SYS_RST_N (R617): the level, and how long the pin has been there. -/
  | sysRstN (low : Bool) (ns : Nat)
  /-- PERST_N (R619): the level. -/
  | perstN (low : Bool)
  /-- RESET (R617). -/
  | reset
  /-- STAGE1_START (R512): whether the PUF reconstructs, the verdicts on slots A and B of STAGE1 and of CAL. -/
  | stage1Start (puf : Bool) (stage1 cal : BitVec 3 × BitVec 3)
  /-- BOOT_RUNNING (R512): the verdict on each flash slot. -/
  | bootRunning (codes : List (BitVec 3))
  /-- BACKGROUND_VERIFY_DONE (R512): the verdict on each flash slot. -/
  | backgroundVerifyDone (codes : List (BitVec 3))
  /-- XEFIN_PHASE_1 (R606). -/
  | xefinPhase1
  /-- XEFIN_PHASE_2 (R606): the units whose power-up campaign failed. -/
  | xefinPhase2 (failed : BitVec 36)
  /-- HBM_TRAINING_END (R623): the channels that pass. -/
  | hbmTrainingEnd (passed : BitVec 384)
  /-- LINK_TRAINING_BEGIN (R624). -/
  | linkTrainingBegin
  /-- MODULE_READY (R625). -/
  | moduleReady
  /-- ILLEGAL (R203): the word at the program counter of the lane. -/
  | illegal (h : Fin 64) (lane : Fin 4) (word : BitVec 64)
  /-- LOSS_OF_SIGNAL (R417). -/
  | lossOfSignal (o : Fin 24)
  /-- RAIL_SETTLED (R551). -/
  | railSettled (n : Fin 4)
  /-- THERMAL_STEP_DOWN (R563). -/
  | thermalStepDown (n : Fin 4)
  /-- TRNG_HEALTH_RECOVERY (R505). -/
  | trngHealthRecovery (d : Fin 2)
  /-- SIGNING_TREE_BUILT (R521). -/
  | signingTreeBuilt
  /-- UNSEAL_SEGMENT_DONE (R536): the header of the image, the plaintext, whether the tag verifies. -/
  | unsealSegmentDone (c : Fin 4) (header : BitVec 512) (plain : List (BitVec 8)) (tagOk : Bool)
  /-- PPS_OUT_SECOND (R453). -/
  | ppsOutSecond
  /-- MAILBOX_OPEN (R622). -/
  | mailboxOpen
  /-- WARD_TRANSFER_END (R633). -/
  | wardTransferEnd (c : Fin 4)
  /-- BANK_REFRESH (R287): pseudo-channel and bank; whether the stack asked for it. -/
  | bankRefresh (ch : Fin 384) (pc : Fin 2) (bank : Fin 16) (asked : Bool)
  /-- BOUNDARY_SCAN (R661): the instruction of the test access port, and the cells. -/
  | boundaryScan (code : JtagInstr) (cells : BitVec 430)
deriving DecidableEq, Repr

end Sys2Proof
end

