-- ==== Sys2Proof/Decode.lean ====
section
/-! DEFINITION. Decoding. The opcode table gives its rows no bits, so no table word spells a command. The words of the Race
Plan instructions (chapter 5) have bits of their own: their decoder, total on any word, and their encoder. -/
namespace Sys2Proof

/-- The command that a word spells by the bits of spec/opcode_table.json: the table gives none. -/
def decodeTableWord (_nbits _w : Nat) : Option Instr := none

/-- A field of a word as a bit vector. -/
def wordField (w lo n : Nat) : BitVec n := BitVec.ofNat n (bitsOf w lo n)

/-- A field of a word as the number of one of `n + 1` units. -/
def wordUnit (w lo bits n : Nat) : Fin (n + 1) := Fin.ofNat (n + 1) (bitsOf w lo bits)

/-- What an LA_HINT does is a field of its descriptor (R306, R310, R311), not of its word. -/
inductive HintKind where
  | prefetch | pin | unpin
deriving DecidableEq, Repr

/-- The BLADE and CHAIN words (Tables 05-7 and 05-10). -/
def decodeBlade (h : Fin 64) (l : Fin 4) (w : Nat) : Instr :=
  .blRun h l (wordUnit w 50 2 3) (wordField w 34 16) (wordField w 30 4) (bitOf w 29) (bitOf w 28) (wordField w 12 16) (bitOf w 11)
    (wordField w 9 2) (wordField w 0 9)
@[inherit_doc decodeBlade] def decodeChain (h : Fin 64) (l : Fin 4) (op w : Nat) : Option Instr :=
  match op with
  | 1 => some (.chOpen h l (wordUnit w 50 2 3) (wordField w 34 16) (wordField w 30 4) (wordField w 0 9) (wordField w 9 21))
  | 2 => some (.chDrop h l (wordUnit w 50 2 3) (wordUnit w 48 2 3) (wordField w 0 48))
  | 3 => some (.chBind h l (wordUnit w 50 2 3) (wordUnit w 44 6 63) (wordField w 28 16) (wordField w 0 28))
  | 4 => some (.chUnbind h l (wordUnit w 50 2 3) (wordUnit w 44 6 63) (wordField w 0 44))
  | 5 => some (.chTopen h l (wordField w 34 16) (wordField w 30 4) (wordField w 50 2) (wordField w 0 30))
  | 6 => some (.chTclose h l (wordField w 34 16) (wordField w 30 4) (wordField w 50 2) (wordField w 0 30))
  | _ => none

/-- The constructor of each SCULL opcode (Table 05-12). -/
def scullInstr (op : Nat) :
    Option (Fin 64 → Fin 4 → Fin 16 → BitVec 16 → BitVec 4 → BitVec 9 → BitVec 19 → Instr) :=
  match op with
  | 0x01 => some .scExpand
  | 0x02 => some .scQuant
  | 0x03 => some .scBias
  | 0x04 => some .scAct
  | 0x05 => some .scGate
  | 0x06 => some .scResid
  | 0x07 => some .scSmax
  | 0x08 => some .scStats
  | 0x09 => some .scMark
  | 0x0A => some .scLedger
  | 0x0B => some .scAdd
  | 0x0C => some .scRsum
  | 0x0D => some .scCarry
  | 0x0E => some .scCadd
  | 0x0F => some .scUncarry
  | 0x10 => some .scOpt
  | 0x11 => some .scLoss
  | _ => none

/-- The constructor of each LAUNCH opcode (Table 05-13). -/
def launchInstr (hint : HintKind) (op : Nat) :
    Option (Fin 64 → Fin 4 → Fin 16 → BitVec 16 → BitVec 4 → BitVec 9 → BitVec 19 → Instr) :=
  match op with
  | 1 => some .laMove
  | 2 => some .laWindow
  | 3 => some .laRelay
  | 4 => some (match hint with
    | .prefetch => .laHintPrefetch
    | .pin => .laHintPin
    | .unpin => .laHintUnpin)
  | _ => none

/-- The fields that every SCULL and every LAUNCH word has (R225, R233). -/
def decodeUnitWord (f : Fin 64 → Fin 4 → Fin 16 → BitVec 16 → BitVec 4 → BitVec 9 → BitVec 19 → Instr) (h : Fin 64) (l : Fin 4)
    (w : Nat) : Instr :=
  f h l (wordUnit w 48 4 15) (wordField w 32 16) (wordField w 28 4) (wordField w 19 9) (wordField w 0 19)

/-- The SYNC words (Table 05-14). -/
def decodeSync (h : Fin 64) (l : Fin 4) (op w : Nat) : Option Instr :=
  match op with
  | 1 => some (.syPost h l (wordField w 43 9) (wordField w 27 16) (wordField w 0 27))
  | 2 => some (.syWait h l (wordField w 43 9) (wordField w 27 16) (bitOf w 26) (bitOf w 25) (wordField w 0 25))
  | 3 => some (.sySet h l (wordField w 43 9) (wordField w 11 32) (wordField w 0 11))
  | 4 => some (.syAcq h l (wordField w 43 9) (wordField w 0 43))
  | 5 => some (.syRel h l (wordField w 43 9) (wordField w 0 43))
  | 6 => some (.syFence h l (wordField w 48 4) (wordField w 0 48))
  | 7 => some (.syFrame h l (bitOf w 51) (wordField w 0 51))
  | _ => none

/-- The services of CT_SVC (Table 05-16). -/
def serviceInstr (service : Nat) : Option (Fin 64 → Fin 4 → BitVec 16 → BitVec 9 → BitVec 15 → Instr) :=
  match service with
  | 1 => some .ingest
  | 2 => some .admitService
  | 3 => some .checkpoint
  | 4 => some .note
  | _ => none

/-- The CTRL words (Table 05-15). -/
def decodeCtrl (h : Fin 64) (l : Fin 4) (op w : Nat) : Option Instr :=
  match op with
  | 0x1 => some (.ctNop h l (wordField w 0 52))
  | 0x2 => some (.ctSetc h l (wordUnit w 48 4 15) (wordField w 16 32) (wordField w 0 16))
  | 0x3 => some (.ctAddc h l (wordUnit w 48 4 15) (wordField w 16 32) (wordField w 0 16))
  | 0x4 => some (.ctBr h l (wordField w 49 3) (wordUnit w 45 4 15) (wordField w 29 16) (wordField w 9 20) (wordField w 0 9))
  | 0x5 => some (.ctLoop h l (wordUnit w 48 4 15) (wordField w 28 20) (wordField w 0 28))
  | 0x6 => some (.ctPhase h l (wordField w 49 3) (wordField w 0 49))
  | 0x7 => some (.ctPmark h l (wordField w 36 16) (wordField w 32 4) (wordField w 0 32))
  | 0x8 => some (.ctStep h l (wordField w 0 52))
  | 0x9 => some (.ctHalt h l (wordField w 0 52))
  | 0xA => (serviceInstr (bitsOf w 40 12)).map fun f => f h l (wordField w 24 16) (wordField w 15 9) (wordField w 0 15)
  | _ => none

/-- The command of a lane of Heat context `h` whose program counter names the word `word` (R203): every word names one, those
with a reserved class, an unlisted opcode or an unlisted service the command ILLEGAL. -/
def decodePlan (h : Fin 64) (l : Fin 4) (hint : HintKind) (word : BitVec 64) : Instr :=
  let w := word.toNat
  let op := bitsOf w 52 8
  (match bitsOf w 60 4 with
    | 1 => if op = 1 then some (decodeBlade h l w) else none
    | 2 => decodeChain h l op w
    | 3 => (scullInstr op).map fun f => decodeUnitWord f h l w
    | 4 => (launchInstr hint op).map fun f => decodeUnitWord f h l w
    | 5 => decodeSync h l op w
    | 6 => decodeCtrl h l op w
    | _ => none).getD (.illegal h l word)

/-! ## The encoder -/

/-- A word: class, opcode and the 52 bits of fields (R203). -/
def planWord (cls op fields : Nat) : BitVec 64 := BitVec.ofNat 64 (cls * 2 ^ 60 + op * 2 ^ 52 + fields)

/-- A field of one bit. -/
def flagAt (b : Bool) (lo : Nat) : Nat := if b then 2 ^ lo else 0

/-- The word of a SCULL or LAUNCH instruction. -/
def unitWord (cls op : Nat) (unit : Fin 16) (handle : BitVec 16) (xi : BitVec 4) (csem : BitVec 9) (rsv : BitVec 19) : BitVec 64 :=
  planWord cls op (unit.val * 2 ^ 48 + handle.toNat * 2 ^ 32 + xi.toNat * 2 ^ 28 + csem.toNat * 2 ^ 19 + rsv.toNat)

/-- The word of a CT_SVC. -/
def serviceWord (service : Nat) (handle : BitVec 16) (csem : BitVec 9) (rsv : BitVec 15) : BitVec 64 :=
  planWord 6 0xA (service * 2 ^ 40 + handle.toNat * 2 ^ 24 + csem.toNat * 2 ^ 15 + rsv.toNat)

/-- The Heat context, the lane and the word of a plan instruction; `none` for a command that is no plan instruction. -/
def encodePlan : Instr → Option (Fin 64 × Fin 4 × BitVec 64)
  | .blRun h l b pd xi chx chn ch ramp acc csem => some (h, l, planWord 1 1 (b.val * 2 ^ 50 + pd.toNat * 2 ^ 34 + xi.toNat * 2 ^ 30
      + flagAt chx 29 + flagAt chn 28 + ch.toNat * 2 ^ 12 + flagAt ramp 11 + acc.toNat * 2 ^ 9 + csem.toNat))
  | .chOpen h l b d xi csem rsv => some (h, l, planWord 2 1 (b.val * 2 ^ 50 + d.toNat * 2 ^ 34 + xi.toNat * 2 ^ 30 + rsv.toNat * 2 ^ 9
      + csem.toNat))
  | .chDrop h l b k rsv => some (h, l, planWord 2 2 (b.val * 2 ^ 50 + k.val * 2 ^ 48 + rsv.toNat))
  | .chBind h l b r tag rsv => some (h, l, planWord 2 3 (b.val * 2 ^ 50 + r.val * 2 ^ 44 + tag.toNat * 2 ^ 28 + rsv.toNat))
  | .chUnbind h l b r rsv => some (h, l, planWord 2 4 (b.val * 2 ^ 50 + r.val * 2 ^ 44 + rsv.toNat))
  | .chTopen h l d xi hi lo => some (h, l, planWord 2 5 (hi.toNat * 2 ^ 50 + d.toNat * 2 ^ 34 + xi.toNat * 2 ^ 30 + lo.toNat))
  | .chTclose h l d xi hi lo => some (h, l, planWord 2 6 (hi.toNat * 2 ^ 50 + d.toNat * 2 ^ 34 + xi.toNat * 2 ^ 30 + lo.toNat))
  | .scExpand h l u d xi csem rsv => some (h, l, unitWord 3 0x01 u d xi csem rsv)
  | .scQuant h l u d xi csem rsv => some (h, l, unitWord 3 0x02 u d xi csem rsv)
  | .scBias h l u d xi csem rsv => some (h, l, unitWord 3 0x03 u d xi csem rsv)
  | .scAct h l u d xi csem rsv => some (h, l, unitWord 3 0x04 u d xi csem rsv)
  | .scGate h l u d xi csem rsv => some (h, l, unitWord 3 0x05 u d xi csem rsv)
  | .scResid h l u d xi csem rsv => some (h, l, unitWord 3 0x06 u d xi csem rsv)
  | .scSmax h l u d xi csem rsv => some (h, l, unitWord 3 0x07 u d xi csem rsv)
  | .scStats h l u d xi csem rsv => some (h, l, unitWord 3 0x08 u d xi csem rsv)
  | .scMark h l u d xi csem rsv => some (h, l, unitWord 3 0x09 u d xi csem rsv)
  | .scLedger h l u d xi csem rsv => some (h, l, unitWord 3 0x0A u d xi csem rsv)
  | .scAdd h l u d xi csem rsv => some (h, l, unitWord 3 0x0B u d xi csem rsv)
  | .scRsum h l u d xi csem rsv => some (h, l, unitWord 3 0x0C u d xi csem rsv)
  | .scCarry h l u d xi csem rsv => some (h, l, unitWord 3 0x0D u d xi csem rsv)
  | .scCadd h l u d xi csem rsv => some (h, l, unitWord 3 0x0E u d xi csem rsv)
  | .scUncarry h l u d xi csem rsv => some (h, l, unitWord 3 0x0F u d xi csem rsv)
  | .scOpt h l u d xi csem rsv => some (h, l, unitWord 3 0x10 u d xi csem rsv)
  | .scLoss h l u d xi csem rsv => some (h, l, unitWord 3 0x11 u d xi csem rsv)
  | .laMove h l u d xi csem rsv => some (h, l, unitWord 4 1 u d xi csem rsv)
  | .laWindow h l u d xi csem rsv => some (h, l, unitWord 4 2 u d xi csem rsv)
  | .laRelay h l u d xi csem rsv => some (h, l, unitWord 4 3 u d xi csem rsv)
  | .laHintPrefetch h l u d xi csem rsv => some (h, l, unitWord 4 4 u d xi csem rsv)
  | .laHintPin h l u d xi csem rsv => some (h, l, unitWord 4 4 u d xi csem rsv)
  | .laHintUnpin h l u d xi csem rsv => some (h, l, unitWord 4 4 u d xi csem rsv)
  | .syPost h l sem n rsv => some (h, l, planWord 5 1 (sem.toNat * 2 ^ 43 + n.toNat * 2 ^ 27 + rsv.toNat))
  | .syWait h l sem n c x rsv => some (h, l, planWord 5 2 (sem.toNat * 2 ^ 43 + n.toNat * 2 ^ 27 + flagAt c 26 + flagAt x 25 + rsv.toNat))
  | .sySet h l sem v rsv => some (h, l, planWord 5 3 (sem.toNat * 2 ^ 43 + v.toNat * 2 ^ 11 + rsv.toNat))
  | .syAcq h l sem rsv => some (h, l, planWord 5 4 (sem.toNat * 2 ^ 43 + rsv.toNat))
  | .syRel h l sem rsv => some (h, l, planWord 5 5 (sem.toNat * 2 ^ 43 + rsv.toNat))
  | .syFence h l m rsv => some (h, l, planWord 5 6 (m.toNat * 2 ^ 48 + rsv.toNat))
  | .syFrame h l j rsv => some (h, l, planWord 5 7 (flagAt j 51 + rsv.toNat))
  | .ctNop h l rsv => some (h, l, planWord 6 1 rsv.toNat)
  | .ctSetc h l i imm rsv => some (h, l, planWord 6 2 (i.val * 2 ^ 48 + imm.toNat * 2 ^ 16 + rsv.toNat))
  | .ctAddc h l i imm rsv => some (h, l, planWord 6 3 (i.val * 2 ^ 48 + imm.toNat * 2 ^ 16 + rsv.toNat))
  | .ctBr h l cond i imm off sem => some (h, l, planWord 6 4 (cond.toNat * 2 ^ 49 + i.val * 2 ^ 45 + imm.toNat * 2 ^ 29 + off.toNat * 2 ^ 9
      + sem.toNat))
  | .ctLoop h l i off rsv => some (h, l, planWord 6 5 (i.val * 2 ^ 48 + off.toNat * 2 ^ 28 + rsv.toNat))
  | .ctPhase h l p rsv => some (h, l, planWord 6 6 (p.toNat * 2 ^ 49 + rsv.toNat))
  | .ctPmark h l d xi rsv => some (h, l, planWord 6 7 (d.toNat * 2 ^ 36 + xi.toNat * 2 ^ 32 + rsv.toNat))
  | .ctStep h l rsv => some (h, l, planWord 6 8 rsv.toNat)
  | .ctHalt h l rsv => some (h, l, planWord 6 9 rsv.toNat)
  | .ingest h l d csem rsv => some (h, l, serviceWord 1 d csem rsv)
  | .admitService h l d csem rsv => some (h, l, serviceWord 2 d csem rsv)
  | .checkpoint h l d csem rsv => some (h, l, serviceWord 3 d csem rsv)
  | .note h l d csem rsv => some (h, l, serviceWord 4 d csem rsv)
  | _ => none

/-- What the descriptor of an LA_HINT asks for. -/
def hintOf : Instr → HintKind
  | .laHintPin .. => .pin
  | .laHintUnpin .. => .unpin
  | _ => .prefetch

end Sys2Proof
end

