-- ==== Sys2Proof/Config.lean ====
section
/-! DEFINITION. What an implementation fixes and the spec leaves open: constants without a body, so that no proof can
see a value of them. Every one is named in the assumption log. -/
namespace Sys2Proof.Config

/-- The free value drawn by the `n`-th use of an open value: a number that nothing constrains. The uses are listed in
the log: key material, random bytes, signatures, the unspecified results of R277, sensor and boot values with no reset. -/
opaque freeNat : Nat → Nat

/-- The free 32-bit element of the `n`-th use (R277: overlapping optimizer regions leave unspecified elements). -/
opaque freeWord : Nat → BitVec 32

/-- The `i`-th byte of the `n`-th free byte string (keys, ciphertexts, signatures, certificates). -/
opaque freeByte : Nat → Nat → BitVec 8

/-- The voltage curve of a Blade in the body of a CAL image (R551): nominal mV at a frequency in MHz. -/
opaque nominalVoltage : List (BitVec 8) → Nat → Nat → Nat

/-- The signature of a seat-test slice that the body of a CAL image expects (R577), by unit and slice. -/
opaque expectedSignature : List (BitVec 8) → Nat → Nat → BitVec 64

/-- The integral part of the servo of R447: the frequency estimate, in units of 0.001 ppm, that the present estimate, the present
adjustment and a new offset make. The spec bounds it and gives no gains. -/
opaque servoEstimate : Int → Int → Int → Int

/-- The proportional part of the servo of R447: the frequency adjustment that the new estimate, the present adjustment and the
offset make. -/
opaque servoGain : Int → Int → Int → Int

/-- The disabled Blade that the body of a CAL image records, none on a UL440 (R4): the spec gives the image no layout. -/
opaque disabledBlade : List (BitVec 8) → Option (Fin 4)

/-- The step above 3,300 MHz of a Blade's rated ceiling in the body of a CAL image (R550): the ceiling is 3,300 MHz and 25 MHz for each
step modulo 13, which spans the 3,300 to 3,600 MHz that the spec states. -/
opaque ratedStep : List (BitVec 8) → Nat → Nat

/-- Byte `i` of the rail map in the body of a PACERFW image (R565). -/
opaque railMap : List (BitVec 8) → Nat → BitVec 8

/-- What identifies one module and the spec gives no value of: byte `i` of the BLOB or STR32 entry `index.sub`, and the number
of a numeric entry (Tables 12-11 and 14-15: the entries whose reset column is empty). -/
opaque identityByte : Nat → Nat → Nat → BitVec 8
@[inherit_doc identityByte] opaque identityNat : Nat → Nat → Nat

/-- Byte `i` of the capture RAM while it holds seat-test signatures (unit, slice, signature): R578 gives no layout. -/
opaque dumpByte : List (Nat × Nat × Nat) → Nat → BitVec 8

/-- The certificate chain that a DEVCERT image holds (R508, R520): the spec gives the image no layout. -/
opaque certChain : List (BitVec 8) → List (BitVec 8)

/-- The measurement value type of an SPDM measurement block (R524 gives none). -/
opaque measurementType : Nat → Nat

/-- SHA-256 (FIPS 180-4), a function that the spec takes from its standard. -/
opaque sha256 : List (BitVec 8) → BitVec 256

/-- XTS-AES-256 (IEEE 1619) of a data unit of 512 bytes: both keys, the tweak, the plaintext with its first byte lowest. -/
opaque xtsAes256 : List (BitVec 8) → List (BitVec 8) → BitVec 128 → List (BitVec 8) → BitVec 4096

/-- AES-256-CMAC (SP 800-38B): the key and the message. -/
opaque cmacAes256 : List (BitVec 8) → List (BitVec 8) → BitVec 128

/-- Byte `i` of AES-256-GCM (SP 800-38D): the key, the nonce, the additional data, the plaintext; the tag follows the ciphertext. -/
opaque gcmAes256 : List (BitVec 8) → List (BitVec 8) → List (BitVec 8) → List (BitVec 8) → Nat → BitVec 8

/-- The shared secret of ML-KEM-768 (FIPS 203) between an encapsulation key and a ciphertext for it. -/
opaque kemSecret : List (BitVec 8) → List (BitVec 8) → BitVec 256

/-- The key that AES Key Wrap (SP 800-38F) unwraps: the wrapping key, the wrapped key. -/
opaque keyUnwrap : List (BitVec 8) → List (BitVec 8) → BitVec 256

/-- The device secret that the PUF gives with the helper data of a DEVCERT body (R504). -/
opaque pufSecret : List (BitVec 8) → BitVec 256

end Sys2Proof.Config
end

