-- ==== Sys2Proof/Machine/Crypto.lean ====
section
/-! DEFINITION. The cryptographic functions of chapter 12, over the functions that the spec takes from their standards: HMAC, the
KDF of R507, the attestation key (R520, R521), the parameter sets of a signature (R511). -/
namespace Sys2Proof.Machine

/-- The SHA-256 of bytes, as 32 bytes. -/
def digest (bs : List Byte) : List Byte := beBytes 32 (Config.sha256 bs).toNat

/-- HMAC-SHA-256 (FIPS 198-1), which the spec takes from its standard. -/
def hmacSha256 (key msg : List Byte) : List Byte :=
  let k := if 64 < key.length then digest key else key
  let k := k ++ List.replicate (64 - k.length) 0
  digest (k.map (· ^^^ 0x5C) ++ digest (k.map (· ^^^ 0x36) ++ msg))

/-- A quoted ASCII string. -/
def ascii (t : String) : List Byte := t.toList.map fun c => BitVec.ofNat 8 c.toNat

/-- The KDF of R507: the counter mode of SP 800-108 with one 256-bit output. PRESUMED: the 32-bit counter before the label, the zero
byte, the context, the 32-bit output length, which the standard leaves to its user. -/
def kdf (key : List Byte) (label : String) (context : List Byte) : List Byte :=
  hmacSha256 key (beBytes 4 1 ++ ascii label ++ [0] ++ context ++ beBytes 4 256)

/-- The 60-byte HSS public key of the device attestation key (R520, R521): two levels, LMS_SHA256_M32_H15, LMOTS_SHA256_N32_W4. -/
def attestKey : List Byte := beBytes 4 2 ++ beBytes 4 7 ++ beBytes 4 3 ++ (List.range 48).map (Config.identityByte 0x8000 0)

/-- The device identity digest (R520). -/
def identityDigest : List Byte := digest attestKey

/-! ## The parameter sets of a signature (R511, RFC 8554) -/

/-- The hash chains of an LM-OTS type with SHA-256, n = 32 and w of 1, 2, 4 or 8; `none` for every other type. -/
def otsChains (type : Nat) : Option Nat := if type = 0 then none else [265, 133, 67, 34][type - 1]?

/-- The tree height of an LMS type with SHA-256 and m = 32; `none` for every other type. -/
def lmsHeight (type : Nat) : Option Nat := if 5 ≤ type ∧ type ≤ 9 then some (5 * (type - 4)) else none

/-- The length of the LMS signature that bytes begin with, where R511 accepts its types. -/
def lmsLength (bs : List Byte) : Option Nat :=
  (otsChains (ofBeBytes ((bs.drop 4).take 4))).bind fun p =>
    let at_ := 40 + 32 * p
    (lmsHeight (ofBeBytes ((bs.drop at_).take 4))).map fun h => at_ + 4 + 32 * h

/-- The levels of an HSS signature: `n` signed public keys, each behind its signature, then the signature of the message. -/
def hssLevels : Nat → List Byte → Bool
  | 0, bs => lmsLength bs == some bs.length
  | n + 1, bs =>
    match lmsLength bs with
    | none => false
    | some k =>
      let pub := bs.drop k
      56 ≤ pub.length && (lmsHeight (ofBeBytes (pub.take 4))).isSome && (otsChains (ofBeBytes ((pub.drop 4).take 4))).isSome
        && hssLevels n (pub.drop 56)

/-- Whether an HSS signature has a parameter set that R511 accepts: 1 to 8 levels. -/
def hssAccepted (sig : List Byte) : Bool :=
  let n := ofBeBytes (sig.take 4)
  4 ≤ sig.length && n ≤ 7 && hssLevels n (sig.drop 4)

/-! ## Memory keys (R525 to R527) -/

/-- The two XTS keys and the MAC key of a key domain under a memory root (R527). -/
def xtsKeys (root : List Byte) (domain : Nat) : List Byte × List Byte :=
  (kdf root "ULMX1" (beBytes 1 domain), kdf root "ULMX2" (beBytes 1 domain))
@[inherit_doc xtsKeys] def macKey (root : List Byte) (domain : Nat) : List Byte := kdf root "ULMM" (beBytes 1 domain)

end Sys2Proof.Machine
end

