-- ==== Sys2Proof/Machine/Numerics.lean ====
section
/-! DEFINITION. The arithmetic of Scaled-Block Integers (R16 to R18, R43 to R96), of the Blade's rungs (R107 to R113),
of the fused chains (R149 to R183) and of the Sculls (R229, R230), on unbounded integers. None of it touches the state. -/
namespace Sys2Proof.Machine

/-! ## Rounding and saturation -/

/-- `rne(x, k)` of R18: `x / 2^k` to nearest, ties to even. -/
def rne (x : Int) (k : Nat) : Int :=
  let m : Int := (2 ^ k : Nat)
  let q := x / m
  let r := x % m
  if 2 * r > m ∨ (2 * r = m ∧ q % 2 = 1) then q + 1 else q

/-- The largest non-mark element of a `w`-bit format (Table 02-1). -/
def limOf (w : Nat) : Int := (2 ^ (w - 1) : Nat) - 1

/-- `sat(x, w)` of R18: the symmetric non-mark range; never the mark code. -/
def sat (x : Int) (w : Nat) : Int := max (-(limOf w)) (min (limOf w) x)

/-- 1 when `sat` clamps `x`, for the saturation counter of Table 02-3. -/
def satCount (x : Int) (w : Nat) : Nat := if sat x w = x then 0 else 1

/-- `x >> k` of R17: floor. -/
def asr (x : Int) (k : Nat) : Int := x / (2 ^ k : Nat)

/-- `x << k` of R17. -/
def shl (x : Int) (k : Nat) : Int := x * (2 ^ k : Nat)

/-- `bitlen(n)` of R65. -/
def bitlen (n : Nat) : Nat := if n = 0 then 0 else n.log2 + 1

/-- `rsr(x, k, r)` of R79. -/
def rsr (x : Int) (k : Nat) (r : Nat) : Int :=
  if k = 0 then x
  else if 16 ≤ k then asr (x + shl r (k - 16)) k
  else asr (x + (r / 2 ^ (16 - k) : Nat)) k

/-- `q(v, a, e)` of R72: the value `v·2^a` re-expressed at exponent `e`. -/
def qExp (v a e : Int) : Int :=
  if v = 0 then 0 else if a ≤ e then rne v (e - a).toNat else shl v (a - e).toNat

/-! ## The keel hash (R81) -/

/-- `mix(z)` of R81. -/
def mix (z0 : Word64) : Word64 :=
  let z1 := z0 ^^^ (z0 >>> 31)
  let z2 := z1 * 0xB5A36C1DE84F2297#64
  let z3 := z2 ^^^ (z2 >>> 29)
  let z4 := z3 * 0xD1C40E937A5B36E5#64
  z4 ^^^ (z4 >>> 32)

/-- `keel(seed, domain, tensor, row, col, rung)` of R81: 16 random bits. -/
def keel (seed : Nat) (domain tensor row col rung : Nat) : Nat :=
  let w0 := BitVec.ofNat 64 ((domain % 2 ^ 8) * 2 ^ 56 + (tensor % 2 ^ 24) * 2 ^ 32 + rung % 2 ^ 32)
  let w1 := BitVec.ofNat 64 ((row % 2 ^ 32) * 2 ^ 32 + col % 2 ^ 32)
  let h0 := mix (BitVec.ofNat 64 seed ^^^ 0x4A7E9D02C3F158B3#64)
  let h1 := mix (h0 ^^^ w0)
  let h2 := mix (h1 + w1)
  h2.toNat / 2 ^ 48

/-- The step seed of R82. -/
def stepSeed (base step : Nat) : Nat := (mix (BitVec.ofNat 64 (base + step))).toNat

/-- The stagger `d_n` of R571, in ns. -/
def staggerNs (moduleId n : Nat) : Nat :=
  (mix (0x5354414747455200#64 ^^^ BitVec.ofNat 64 (moduleId * 2 ^ 8) ^^^ BitVec.ofNat 64 n)).toNat % 2000

/-! ## Tops and ceilings -/

/-- The value of a top that means none (R66). -/
def topNone : Int := -32768

/-- The top of a value `v` at exponent `a` (R65); none for 0. -/
def topOf (v a : Int) : Int := if v = 0 then topNone else a + bitlen v.natAbs

/-- The maximum of two tops, none being the least (R66, R211). -/
def topMax (s t : Int) : Int := max s t

/-- The largest top of a list of values at one exponent; marks and zeros take no part (R66). -/
def topList (vs : List Elem) (a : Int) : Int :=
  vs.foldl (fun t v => match v with | none => t | some x => topMax t (topOf x a)) topNone

/-- The ceiling that R67 sets for the next step from the tops of the window. -/
def nextCeiling (tops : List Int) (margin w : Nat) (old : Int) : Int :=
  let t := tops.foldl max topNone
  if t = topNone then old else max (-127) (min 127 (t + margin - ((w : Int) - 1)))

/-- The attempt ceiling of R73. -/
def attemptCeiling (c : Int) (r : Nat) : Int := min (c + 2 * r) 127

/-- Whether attempt `r` at descriptor ceiling `c` is final whatever it holds (R73). -/
def attemptLast (c : Int) (r : Nat) : Bool := r == 3 || attemptCeiling c r == 127

/-! ## Blocks -/

/-- A block of 64 elements with its exponent; exponent −128 is the zero block (R47). -/
structure Block where
  exp : Int
  elems : List Elem
deriving DecidableEq, Repr

/-- The exponent that marks a zero block or padding inside the model: below every exponent that a correction of R183 can
give. In memory the byte of a zero block is 0x80 (`expOfByte`, `byteOfExp`, R54). -/
def zeroExp : Int := -(2 ^ 40)

/-- The exponent that an exponent byte encodes (Table 02-2), and the byte of an exponent. -/
def expOfByte (n : Nat) : Int := if toSigned 8 n = -128 then zeroExp else toSigned 8 n
@[inherit_doc expOfByte] def byteOfExp (e : Int) : Byte := if e = zeroExp then 0x80 else BitVec.ofNat 8 (ofSigned 8 e)

/-- A zero block: its elements read 0 whatever is stored (R47, R54). -/
def Block.isZero (b : Block) : Bool := b.exp == zeroExp

/-- The marks of a block. -/
def markCount (vs : List Elem) : Nat := vs.countP (·.isNone)

/-- Whether every non-mark element fits at exponent `e` (R72). -/
def fitsAt (v : List Elem) (a e lim : Int) : Bool :=
  v.all fun x => match x with
    | none => true
    | some y => decide ((qExp y a e).natAbs ≤ lim.natAbs)

/-- The headroom shift of R72: the largest of 0 to `min(7, c + 127)` at which every element fits. -/
def headroom (v : List Elem) (a c lim : Int) : Option Nat :=
  [7, 6, 5, 4, 3, 2, 1, 0].find? fun k => decide ((k : Int) ≤ c + 127) && fitsAt v a (c - k) lim

/-- What one quantizing of a block gives: the block, the elements written as marks because they did not fit, the
saturations. -/
structure QuantResult where
  block : Block
  limitMarks : Nat
  sats : Nat
deriving DecidableEq, Repr

/-- A block written at exponent `e`, or the zero block of R72 when nothing is left (R61: never with a mark). -/
def packBlock (out : List Elem) (e : Int) : Block :=
  if out.all (fun x => x == some 0) then ⟨zeroExp, out⟩ else ⟨e, out⟩

/-- `quantize_block` of R72; `none` is an overflow that calls for a redo. -/
def quantizeBlock (v : List Elem) (a c : Int) (w : Nat) (last : Bool) : Option QuantResult :=
  if v.all (·.isNone) then some ⟨⟨c, v⟩, 0, 0⟩
  else match headroom v a c (limOf w) with
    | some k =>
      let e := c - k
      some ⟨packBlock (v.map (·.map (qExp · a e))) e, 0, 0⟩
    | none =>
      if !last then none
      else
        let out := v.map fun x => x.bind fun y =>
          let z := qExp y a c
          if z.natAbs ≤ (limOf w).natAbs then some z else none
        some ⟨⟨c, out⟩, markCount out - markCount v, 0⟩

/-- `quantize_block` with the change of R150 and R230: where no headroom fits, the exponent is `c` and every non-mark
element saturates. -/
def quantizeSat (v : List Elem) (a c : Int) (w : Nat) : QuantResult :=
  if v.all (·.isNone) then ⟨⟨c, v⟩, 0, 0⟩
  else match headroom v a c (limOf w) with
    | some k =>
      let e := c - k
      ⟨packBlock (v.map (·.map (qExp · a e))) e, 0, 0⟩
    | none =>
      let out := v.map (·.map fun y => sat (qExp y a c) w)
      ⟨packBlock out c, 0, (v.map fun x => match x with | none => 0 | some y => satCount (qExp y a c) w).sum⟩

/-- A block as it enters (R77): the block, whether it was trimmed, whether it lay above the ceiling. -/
structure Entered where
  block : Block
  trimmed : Bool
  above : Bool
deriving DecidableEq, Repr

/-- R77: the window trim at entry. A block above the ceiling enters as marks at exponent `c`. -/
def enterBlock (b : Block) (c : Int) : Entered :=
  if b.isZero then ⟨⟨zeroExp, b.elems.map fun _ => some 0⟩, false, false⟩
  else if c < b.exp then ⟨⟨c, b.elems.map fun _ => none⟩, false, true⟩
  else if b.exp < c - 7 then
    let out := b.elems.map (·.map (rne · (c - 7 - b.exp).toNat))
    ⟨packBlock out (c - 7), true, false⟩
  else ⟨b, false, false⟩

/-- `reblock` of R107 on (element, exponent of its source block); a zero source block is exponent −128. Gives the
block and the saturations. -/
def reblock (m : List (Elem × Int)) (w : Nat) : Block × Nat :=
  let live := m.filter fun p => p.2 != zeroExp
  match live with
  | [] => (⟨zeroExp, m.map fun _ => some 0⟩, 0)
  | p :: ps =>
    let ee := ps.foldl (fun t x => max t x.2) p.2
    let out := m.map fun x =>
      if x.2 == zeroExp then some 0 else x.1.map fun y => sat (rne y (ee - x.2).toNat) w
    let n := (m.map fun x =>
      if x.2 == zeroExp then 0 else match x.1 with
        | none => 0
        | some y => satCount (rne y (ee - x.2).toNat) w).sum
    (packBlock out ee, n)

/-! ## Reference functions (R87 to R96) -/

/-- Coefficients (c0, c1, c2) of one segment, in units of 2⁻³⁰. -/
abbrev Seg := Int × Int × Int

/-- Table 02-7. -/
def exp2Table : List Seg :=
  [(1073741824, 92972510, 4209428), (1170923762, 101387241, 4590415), (1276901417, 110563570, 5005883),
   (1392470869, 120570428, 5458953), (1518500250, 131482984, 5953031), (1655936265, 143383211, 6491826),
   (1805811301, 156360500, 7079386), (1969251188, 170512334, 7720126)]

/-- Table 02-8. -/
def recipTable : List Seg :=
  [(1073741824, -133340488, 14035841), (954437177, -105490425, 10046707), (858993459, -85527487, 7437173),
   (780903145, -70733981, 5658718), (715827883, -59468778, 4405095), (660764199, -50693550, 3496107),
   (613566757, -43725447, 2820997), (572662306, -38100516, 2309122)]

/-- Table 02-9. -/
def rsqrtTable : List Seg :=
  [(1073741824, -66828662, 5420338), (1012333500, -56052087, 4102470), (960383883, -47886947, 3193168),
   (915690104, -41526484, 2542908), (876706528, -36458134, 2063993), (842312387, -32342319, 1702458),
   (811672526, -28946115, 1423747), (784150157, -26105003, 1204971)]

/-- Table 02-10. -/
def log2Table : List Seg :=
  [(0, 193194462, -10738881), (182455581, 171806159, -8594080), (345667660, 154676577, -7033293),
   (493310944, 140649944, -5862186), (628098702, 128953751, -4961033), (752091420, 119052125, -4252800),
   (866890747, 110561712, -3686097), (973766362, 103201036, -3225575)]

/-- `seg(j, t)` of R89. -/
def evalSeg (tab : List Seg) (j t : Nat) : Int :=
  let (c0, c1, c2) := tab.getD j (0, 0, 0)
  let a1 := c1 + rne (c2 * t) 16
  c0 + rne (a1 * t) 16

/-- Argument extraction of R90 for `v ≠ 0` at exponent `a`: (E, j, t). -/
def extractArg (v : Nat) (a : Int) : Int × Nat × Nat :=
  let k := bitlen v - 1
  let f := (v - 2 ^ k) * 2 ^ 19 / 2 ^ k
  ((k : Int) + a, f / 2 ^ 16, f % 2 ^ 16)

/-- The Q16 form of R91. -/
def toQ16 (v a : Int) : Int :=
  if -16 ≤ a then shl v (a + 16).toNat else rne v (-16 - a).toNat

/-- exp2 of a Q16 argument (R92). -/
def exp2 (xq0 : Int) : Int × Int :=
  if xq0 < -256 * 65536 then (0, -30)
  else
    let xq := min xq0 (256 * 65536 - 1)
    let n := asr xq 16
    let f := (xq - shl n 16).toNat
    (evalSeg exp2Table (f / 2 ^ 13) (f % 2 ^ 13 * 8), n - 30)

/-- Reciprocal (R93); `none` outside the domain. -/
def recip (v a : Int) : Option (Int × Int) :=
  if v = 0 then none
  else
    let (e, j, t) := extractArg v.natAbs a
    let p := evalSeg recipTable j t
    some (if v < 0 then -p else p, -30 - e)

/-- The constant S of R94: 2^(−1/2) in units of 2⁻³⁰. -/
def sqrtHalf : Int := 759250125

/-- The constant L: log2 e in units of 2⁻³⁰. -/
def log2e : Int := 1549082005

/-- Reciprocal square root (R94); `none` outside the domain. -/
def rsqrt (v a : Int) : Option (Int × Int) :=
  if v ≤ 0 then none
  else
    let (e, j, t) := extractArg v.natAbs a
    let p := evalSeg rsqrtTable j t
    let q := asr e 1
    if e % 2 = 0 then some (p, -30 - q) else some (rne (p * sqrtHalf) 30, -30 - q)

/-- log2 (R95); `none` outside the domain. -/
def log2Fn (v a : Int) : Option (Int × Int) :=
  if v ≤ 0 then none
  else
    let (e, j, t) := extractArg v.natAbs a
    some (shl e 30 + evalSeg log2Table j t, -30)

/-- The clamp of R96: [−2²³, 2²³ − 1]. -/
def clampQ (x : Int) : Int := max (-(2 ^ 23)) (min (2 ^ 23 - 1) x)

/-- `sigmoid(xq)` of R96, in units of 2⁻³⁰. -/
def sigmoid (xq : Int) : Int :=
  let z := rne ((xq.natAbs : Int) * log2e) 30
  let (m, ee) := exp2 (-z)
  let e30 := rne m (-(ee + 30)).toNat
  let d := 2 ^ 30 + e30
  let s := if d = 2 ^ 31 then 2 ^ 29
    else
      let f := (asr (d - 2 ^ 30) 11).toNat
      evalSeg recipTable (f / 2 ^ 16) (f % 2 ^ 16)
  if 0 ≤ xq then s else 2 ^ 30 - s

/-- The activations of R96 by the selector of P_ACT: 0 relu, 1 sigm, 2 tanh, 3 silu, 4 gelu. The value and its
exponent. -/
def activation (sel : Nat) (v a : Int) : Int × Int :=
  let xq := clampQ (toQ16 v a)
  match sel with
  | 0 => (max xq 0, -16)
  | 1 => (sigmoid xq, -30)
  | 2 => (2 * sigmoid (clampQ (shl xq 1)) - 2 ^ 30, -30)
  | 3 => (rne (xq * sigmoid xq) 30, -16)
  | _ => (rne (xq * sigmoid (clampQ (rne (xq * 1827508584) 30))) 30, -16)

/-- The new row exponent of an activation (R158, Table 04-4). -/
def activationExp (sel : Nat) : Int := if sel = 1 ∨ sel = 2 then -30 else -16

/-! ## Rungs (R109) -/

/-- What one rung adds: a mark, nothing, or a partial sum with its exponent. -/
inductive RungPart where
  | mark
  | zero
  | part (p : Int) (es : Int)
deriving DecidableEq, Repr

/-- One pair of a rung: streamed and stationary element with their octet exponents; exponent −128 is a zero octet. -/
structure Pair where
  xa : Elem
  ea : Int
  xw : Elem
  ew : Int
deriving DecidableEq, Repr

/-- `rung_partial` of R109 over the pairs of one rung segment. -/
def rungPartial (ps : List Pair) : RungPart :=
  if ps.any fun p => p.xa.isNone || p.xw.isNone then .mark
  else
    let live := ps.filter fun p => p.ea != zeroExp && p.ew != zeroExp
    if live.isEmpty then .zero
    else
      let sa := ps.foldl (fun t p => if p.ea == zeroExp then t else max t p.ea) zeroExp
      let sw := ps.foldl (fun t p => if p.ew == zeroExp then t else max t p.ew) zeroExp
      let p := (live.map fun p =>
        shl (p.xa.getD 0 * p.xw.getD 0) ((p.ea - (sa - 7)) + (p.ew - (sw - 7))).toNat).sum
      .part p (sa + sw)

/-- The largest magnitude of WL48 (Table 02-1). -/
def lim48 : Int := 2 ^ 47 - 1

/-- Exact WL48 addition that marks outside the range (R57, R113). -/
def add48 (u v : Elem) : Elem :=
  match u, v with
  | some x, some y => if (x + y).natAbs ≤ lim48.natAbs then some (x + y) else none
  | _, _ => none

/-- `align` of R109. -/
def align (acc : Elem) (part : RungPart) (anchor : Int) (k : Nat) : Elem :=
  match acc, part with
  | none, _ => none
  | _, .mark => none
  | some x, .zero => some x
  | some x, .part p es => add48 (some x) (some (rsr (shl p 2) (anchor - es).toNat k))

/-! ## Ledger and soft-maximum arithmetic -/

/-- `ledger_norm` of R159; marks are `none`. The value, its saturations and its domain errors. -/
def ledgerNorm (x : Elem) (a lam : Int) (s : Elem) (qq : Int) (n : Int) (epsM epsE : Int) (centre : Bool) :
    Elem × Nat × Nat :=
  match x, s with
  | some xv, some sv =>
    let xl := qExp xv a lam
    match recip n 0 with
    | none => (none, 0, 1)
    | some (rm, re) =>
      let k := (-re - 16).toNat
      let mu := if centre then rne (sv * rm) k else 0
      let qn := rne (qq * rm) k
      let var := max (qn - rne (mu * mu) 16) 0 + qExp epsM epsE (2 * lam - 16)
      match rsqrt var (2 * lam - 16) with
      | none => (none, 0, 1)
      | some (pm, pe) =>
        let d := shl xl 16 - mu
        let y := qExp (d * pm) (lam - 16 + pe) (-20)
        (some (sat y 32), satCount y 32, 0)
  | _, _ => (none, 0, 0)

/-- The running statistics of one soft-max ledger row (R171): M, the mark flag, L. -/
structure SmaxRow where
  m : Int
  mark : Bool
  l : Int
deriving DecidableEq, Repr

/-- What one chunk of R179 gives: the exponentials, the row after it, the M of the strip, the clamps of L and of mc and
whether the chunk rescaled L. -/
structure SmaxResult where
  p : List Elem
  row : SmaxRow
  strip : Int
  lSat : Bool
  sats : Nat
  rescaled : Bool
deriving DecidableEq, Repr

/-- `smax_chunk` of R179, R180: `s` are the scores of one row at exponent `a`. -/
def smaxChunk (s : List Elem) (a : Int) (row : SmaxRow) : SmaxResult :=
  let z : List Elem := s.map (·.map fun v => sat (qExp (v * log2e) (a - 30) (-16)) 32)
  let marked := row.mark || s.any (·.isNone)
  let live := z.filterMap id
  let mcRaw : Int := match live with
    | [] => row.m
    | v :: vs => asr (vs.foldl max v + 0xFFFF) 16
  let mc := if live.isEmpty then row.m else max (-32767) (min 32767 mcRaw)
  let mo := row.m
  let mn := if mo = topNone then mc else max mo mc
  let l0 := if mo ≠ topNone ∧ mo < mn then rne row.l (mn - mo).toNat else row.l
  let p : List Elem := z.map (·.map fun v =>
    let (pm, pe) := exp2 (v - shl mn 16)
    rne pm (-(pe + 30)).toNat)
  let l1 := p.foldl (fun l x => match x with | none => l | some y => l + rne y 15) l0
  { p := p
    row := { m := mn, mark := marked, l := sat l1 32 }
    strip := mn
    lSat := sat l1 32 != l1
    sats := satCount l1 32 + (if mc = mcRaw then 0 else 1)
    rescaled := decide (mo ≠ topNone ∧ mo < mn) }

/-- The normalised probability of R183, sel 2: the value, its saturations, its domain errors. -/
def smaxNorm (x : Elem) (lamIn l : Int) : Elem × Nat × Nat :=
  match x with
  | none => (none, 0, 0)
  | some v => match recip l 0 with
    | none => (none, 0, 1)
    | some (rm, re) =>
      let y := qExp (v * rm) (lamIn + re + 15) (-30)
      (some (sat y 32), satCount y 32, 0)

/-! ## Long reductions (R229, R283) -/

/-- One term of `rsum` and of `loss_part`, at anchor `eo`. -/
def reduceTerm (x a eo : Int) (r : Nat) : Int :=
  if eo - 16 ≤ a then shl x (a - eo + 16).toNat else rsr x (eo - 16 - a).toNat r

/-- `rsum` of R229 over (term, exponent) in order; `key t` is the keel draw of narrowing step `t`. The element and its
saturations. -/
def rsum (xs : List (Elem × Int)) (eo : Int) (key : Nat → Nat) : Elem × Nat :=
  let step := fun (st : Int × Bool × Nat × Nat) (x : Elem × Int) =>
    let (acc, mk, n, t) := st
    match x.1 with
    | none => (acc, true, n, t + 1)
    | some v =>
      let y := acc + reduceTerm v x.2 eo (key t)
      (sat y 48, mk, n + satCount y 48, t + 1)
  let (acc, mk, n, t) := xs.foldl step (0, false, 0, 0)
  if mk then (none, n)
  else
    let y := rsr acc 16 (key t)
    (some (sat y 32), n + satCount y 32)

/-! ## WL32 element operations (Table 04-4, Table 05-12) -/

/-- A sum narrowed at the exponent of the first operand: E_BIAS and E_RESID. -/
def addAt (x : Elem) (a : Int) (v : Elem) (e : Int) : Elem × Nat :=
  match x, v with
  | some p, some q => let y := p + qExp q e a; (some (sat y 32), satCount y 32)
  | _, _ => (none, 0)

/-- The product of E_GATE. -/
def gateMul (x u : Elem) (g : Nat) : Elem × Nat :=
  match x, u with
  | some p, some q => let y := rne (p * q) g; (some (sat y 32), satCount y 32)
  | _, _ => (none, 0)

/-- A value re-expressed at `eo` and narrowed into WL32. -/
def narrow32 (x : Elem) (a eo : Int) : Elem × Nat :=
  match x with
  | some p => let y := qExp p a eo; (some (sat y 32), satCount y 32)
  | none => (none, 0)

/-- SC_ADD: the exact sum re-expressed at `eo`. -/
def addNarrow (x : Elem) (a : Int) (y : Elem) (b eo : Int) : Elem × Nat :=
  match x, y with
  | some p, some q =>
    let f := min a b
    narrow32 (some (shl p (a - f).toNat + shl q (b - f).toNat)) f eo
  | _, _ => (none, 0)

/-- `cadd` of R357 and SC_CADD: a mark if either is a mark, else a saturating sum; the flag says that it clamped. -/
def caddElem (u v : Elem) : Elem × Bool :=
  match u, v with
  | some x, some y => (some (sat (x + y) 32), sat (x + y) 32 != x + y)
  | _, _ => (none, false)

/-- `carry` of R355 on one element: the carry word, its top, and whether it spilled. -/
def carryElem (x : Elem) (a aexp : Int) (key : Nat) : Elem × Int × Bool :=
  match x with
  | none => (none, topNone, false)
  | some v =>
    let y := if aexp ≤ a then shl v (a - aexp).toNat else rsr v (aexp - a).toNat key
    (some (sat y 32), topOf v a, sat y 32 != y)

/-- The next agreed exponent of R363. -/
def nextAgreed (top aexpFirst : Int) (n margin : Nat) : Int :=
  if top = topNone then aexpFirst
  else max (-127) (min 127 (top + bitlen (n - 1) + margin - 31))

/-! ## The optimizer (R273) -/

/-- `moment_narrow` of R273 on up to 64 exact values at exponent `a`; `key i` is the keel draw of element `i`. The exponent
(`zeroExp` for a zero block), the elements, the clamps. -/
def momentNarrow (v : List Elem) (a c : Int) (key : Nat → Nat) : Int × List Elem × Nat :=
  if v.all (·.isNone) then (c, v, 0)
  else
    let e := match headroom v a c (limOf 32 - 1) with
      | some k => c - k
      | none => c
    let ys := v.zipIdx.map fun x => match x.1 with
      | none => ((none : Elem), 0)
      | some y =>
        let z := if a ≤ e then rsr y (e - a).toNat (key x.2) else shl y (a - e).toNat
        (some (sat z 32), satCount z 32)
    let out := ys.map (·.1)
    (if out.all (· == some 0) then zeroExp else e, out, (ys.map (·.2)).sum)

/-- The new weight of one element (R273): weight `w` at `ew`, direction `(dm, de)`, learning-rate mantissa `lrm`, update
shift `u`, decay `wd`. The weight and its clamps. -/
def newWeight (w ew dm de : Int) (lrm u wd key : Nat) : Int × Nat :=
  let f := min de (ew - 16)
  let s : Int := lrm * (shl dm (de - f).toNat + shl (wd * w) (ew - 16 - f).toNat)
  let y := qExp s (f - 16 - u) (ew - 16)
  let z := w - rsr (sat y 32) 16 key
  (sat z 32, satCount y 32 + satCount z 32)

end Sys2Proof.Machine
end

