-- ==== Sys2Proof/Machine/Desc.lean ====
section
/-! DEFINITION. The layouts that the module reads from memory: plan header, descriptors, chains, ledgers (Tables 04-1,
04-2, 04-5, 05-1, 05-4 to 05-15, 06-4, 07-7, 07-9, 08-1). A layout is read from the little-endian number of its bytes
(R8); a reserved field that is not zero, or a value outside its range, is reported by the `…Ok` predicate (R13, R14,
R212). -/
namespace Sys2Proof.Machine

/-- The signed byte, halfword or word of a field (R15). -/
def s8 (n : Nat) : Int := toSigned 8 n
@[inherit_doc s8] def s16 (n : Nat) : Int := toSigned 16 n
@[inherit_doc s8] def s32 (n : Nat) : Int := toSigned 32 n

/-! ## Formats (Table 02-1, Table 05-5) -/

/-- The number formats that a tensor descriptor can name. -/
inductive Format where
  | sb4 | sb8 | sb16 | sb32 | wl32 | mw32 | cw32
deriving DecidableEq, Repr

/-- Table 05-5, field fmt; 7 is reserved. -/
def Format.ofCode : Nat → Option Format
  | 0 => some .sb4 | 1 => some .sb8 | 2 => some .sb16 | 3 => some .sb32
  | 4 => some .wl32 | 5 => some .mw32 | 6 => some .cw32 | _ => none

/-- Bits of an element. -/
def Format.width : Format → Nat
  | .sb4 => 4 | .sb8 => 8 | .sb16 => 16 | _ => 32

/-- Whether the format is a scaled-block format. -/
def Format.isSB : Format → Bool
  | .sb4 | .sb8 | .sb16 | .sb32 => true
  | _ => false

/-- The element of a `w`-bit code; the most negative code is the mark (R45). -/
def elemOfCode (w n : Nat) : Elem :=
  let v := toSigned w n
  if v = -(2 ^ (w - 1) : Nat) then none else some v

/-- The `w`-bit code of an element. -/
def codeOfElem (w : Nat) : Elem → Nat
  | none => 2 ^ (w - 1)
  | some v => ofSigned w v

/-- The bytes of elements of `w` bits, 4-bit elements in pairs, low half first (R52). -/
def packElems (w : Nat) : List Elem → List Byte
  | [] => []
  | x :: xs =>
    if w = 4 then
      match xs with
      | [] => [BitVec.ofNat 8 (codeOfElem 4 x)]
      | y :: ys => BitVec.ofNat 8 (codeOfElem 4 x + 16 * codeOfElem 4 y) :: packElems w ys
    else leBytes (w / 8) (codeOfElem w x) ++ packElems w xs

/-- Element `i` of a block's bytes. -/
def elemAt (w : Nat) (bytes : List Byte) (i : Nat) : Elem :=
  if w = 4 then elemOfCode 4 ((bytes.getD (i / 2) 0).toNat / 16 ^ (i % 2) % 16)
  else elemOfCode w (ofLeBytes ((bytes.drop (i * (w / 8))).take (w / 8)))

/-! ## Tensor descriptor (Table 05-5) -/

/-- A tensor descriptor. `shape` is 0 line blocks along columns, 1 line blocks along rows, 2 square blocks. -/
structure Tensor where
  eplane : Nat
  tid : Nat
  xplane : Nat
  expo : Int
  fixed : Bool
  shape : Nat
  fmt : Format
  rows : Nat
  cols : Nat
  swaddr : Nat
  swen : Bool
deriving DecidableEq, Repr

/-- Reads Table 05-5; `none` is DESC_RESERVED (R209, R212): a non-zero reserved bit, a reserved shape or format, an
exponent of 0x80 where the format has one, no rows or no columns, a status word address that is not 32-byte aligned. -/
def Tensor.parse (n : Nat) : Option Tensor :=
  match Format.ofCode (bitsOf n 115 3) with
  | none => none
  | some f =>
    if bitsOf n 118 10 ≠ 0 ∨ bitsOf n 233 23 ≠ 0 ∨ bitsOf n 113 2 = 3 ∨ bitsOf n 128 32 = 0 ∨ bitsOf n 160 32 = 0
        ∨ bitsOf n 192 40 % 32 ≠ 0 ∨ (f ≠ .wl32 ∧ bitsOf n 104 8 = 0x80) ∨ (f = .wl32 ∧ bitsOf n 104 8 ≠ 0) then none
    else some
      { eplane := bitsOf n 0 40, tid := bitsOf n 40 24, xplane := bitsOf n 64 40, expo := s8 (bitsOf n 104 8)
        fixed := bitOf n 112, shape := bitsOf n 113 2, fmt := f, rows := bitsOf n 128 32, cols := bitsOf n 160 32
        swaddr := bitsOf n 192 40, swen := bitOf n 232 }

/-- Blocks per row of the block grid (R49). -/
def Tensor.gridCols (t : Tensor) : Nat :=
  if t.shape = 0 then ceilDiv t.cols 64 else if t.shape = 1 then t.cols else ceilDiv t.cols 8

/-- The grid coordinates of the block that holds element (r, c), and the element's index in it (R49, R50). -/
def Tensor.blockOf (t : Tensor) (r c : Nat) : Nat × Nat × Nat :=
  if t.shape = 0 then (r, c / 64, c % 64)
  else if t.shape = 1 then (r / 64, c, r % 64)
  else (r / 8, c / 8, 8 * (r % 8) + c % 8)

/-- The logical coordinates of element `i` of block (p, q) (R49, R50). -/
def Tensor.elemCoord (t : Tensor) (p q i : Nat) : Nat × Nat :=
  if t.shape = 0 then (p, 64 * q + i) else if t.shape = 1 then (64 * p + i, q) else (8 * p + i / 8, 8 * q + i % 8)

/-- Bytes of a block in the element plane (R51). -/
def Tensor.blockBytes (t : Tensor) : Nat := 8 * t.fmt.width

/-- The address of a block's elements and of its exponent byte (R50, R51). -/
def Tensor.blockAddr (t : Tensor) (p q : Nat) : Nat × Nat :=
  let b := p * t.gridCols + q
  (t.eplane + b * t.blockBytes, t.xplane + b)

/-- Vectors of 512 lanes in one row of a WL32 tensor (R55, R228). -/
def Tensor.wlParts (t : Tensor) : Nat := ceilDiv t.cols 512

/-- The address of lane (r, c) of a WL32 tensor and of the exponent of its vector row (R55): a row of the tensor is `wlParts`
vector rows of 512 lanes, each with its own exponent. -/
def Tensor.wlAddr (t : Tensor) (r c : Nat) : Nat × Nat :=
  (t.eplane + r * t.wlParts * 2048 + c * 4, t.xplane + 2 * (r * t.wlParts + c / 512))

/-- The address of element (r, c) of an MW32 or CW32 tensor: row-major, 4 bytes each (R58). -/
def Tensor.flatAddr (t : Tensor) (r c : Nat) : Nat := t.eplane + 4 * (r * t.cols + c)

/-! ## Table and ledger references (R212) -/

/-- A ledger reference: the address, 64-byte aligned. -/
def parseLedgerRef (n : Nat) : Option Nat :=
  if bitsOf n 40 216 ≠ 0 ∨ bitsOf n 0 40 % 64 ≠ 0 then none else some (bitsOf n 0 40)

/-- A table descriptor: address and length in bytes. -/
def parseTable (n : Nat) : Option (Nat × Nat) :=
  if bitsOf n 64 192 ≠ 0 ∨ bitsOf n 40 24 = 0 then none else some (bitsOf n 0 40, bitsOf n 40 24)

/-! ## Product descriptor (Table 05-8) -/

/-- A product descriptor. -/
structure Product where
  row0 : Nat
  rows : Nat
  mode : Nat
  rslot : Nat
  kbase : Nat
  kn : Nat
  oreg : Nat
  rreg : Nat
  kaxT : Bool
  kaxS : Bool
  ti : Bool
  col0 : Nat
  ncol : Nat
  hs : Nat
  hw : Nat
  ho : Nat
  ha : Nat
deriving DecidableEq, Repr

/-- Reads Table 05-8; `none` is DESC_RESERVED. The row count, kn and ncol are left to BLADE_SHAPE (R212). -/
def Product.parse (n : Nat) : Option Product :=
  if bitsOf n 62 2 ≠ 0 ∨ bitsOf n 125 3 ≠ 0 ∨ bitsOf n 171 21 ≠ 0 ∨ 5 < bitsOf n 57 3 then none
  else some
    { row0 := bitsOf n 0 32, rows := bitsOf n 32 25, mode := bitsOf n 57 3, rslot := bitsOf n 60 2
      kbase := bitsOf n 64 32, kn := bitsOf n 96 10, oreg := bitsOf n 106 8, rreg := bitsOf n 114 8
      kaxT := bitOf n 122, kaxS := bitOf n 123, ti := bitOf n 124, col0 := bitsOf n 128 32, ncol := bitsOf n 160 11
      hs := bitsOf n 192 16, hw := bitsOf n 208 16, ho := bitsOf n 224 16, ha := bitsOf n 240 16 }

/-! ## Chain descriptor (Tables 04-1 to 04-3) -/

/-- A stage slot (Table 04-2). -/
structure Stage where
  code : Nat
  sel : Nat
  param : Nat
  handle : Nat
deriving DecidableEq, Repr

/-- A chain descriptor (Table 04-1). -/
structure Chain where
  entryFmt : Nat
  cIn : Int
  omega : Int
  outKind : Nat
  source : Nat
  rslot : Nat
  arrSem : Nat
  stages : List Stage
deriving DecidableEq, Repr

/-- A stage slot with a code, selector, parameter and handle that Table 04-3 lists (R146). -/
def Stage.ok (g : Stage) : Bool :=
  match g.code with
  | 0x01 => (g.sel == 0 && g.param == 0 || g.sel == 1) && g.handle == 0
  | 0x02 => g.sel ≤ 4 && g.param == 0 && g.handle == 0
  | 0x03 => g.sel ≤ 3 && g.param == 0
  | 0x10 => g.sel == 0 && g.param == 0
  | 0x11 => g.sel ≤ 4 && g.param == 0 && g.handle == 0
  | 0x12 => g.sel == 0 && g.param ≤ 31 && g.handle < 256
  | 0x13 => g.param == 0 && (g.sel == 0 || g.sel == 1 && g.handle < 256)
  | 0x14 => g.sel == 0 && g.param == 0
  | 0x15 => g.sel == 0 && g.param == 0 && g.handle == 0
  | 0x16 => g.sel == 0 && g.param == 0
  | 0x17 => g.sel ≤ 1 && g.param == 0 && g.handle == 0
  | _ => false

/-- Prologue stages have codes 0x01 to 0x03 (Table 04-3). -/
def Stage.isPrologue (g : Stage) : Bool := g.code ≤ 3

/-- The latency of a stage in Blade cycles (Table 04-3). -/
def Stage.latency (g : Stage) : Nat :=
  match g.code with
  | 0x02 | 0x11 => 4 | 0x03 | 0x14 => 6 | 0x12 | 0x13 | 0x15 => 2 | _ => 1

/-- Stage slot `i` of a chain descriptor. -/
def stageSlot (n i : Nat) : Stage :=
  let w := bitsOf n (64 + 32 * i) 32
  { code := bitsOf w 27 5, sel := bitsOf w 24 3, param := bitsOf w 16 8, handle := bitsOf w 0 16 }

/-- Reads the fields of Tables 04-1 and 04-2. -/
def Chain.read (n : Nat) : Chain :=
  { entryFmt := bitsOf n 59 2, cIn := s8 (bitsOf n 51 8), omega := s16 (bitsOf n 35 16), outKind := bitsOf n 33 2
    source := bitsOf n 31 2, rslot := bitsOf n 25 6, arrSem := bitsOf n 16 9
    stages := (List.range (bitsOf n 61 3)).map (stageSlot n) }

/-- Whether a reserved code, selector, value or field makes the chain CHAIN_RESERVED (R13, R14, R145, R212). -/
def Chain.reserved (n : Nat) : Bool :=
  let c := Chain.read n
  let count := bitsOf n 61 3
  count == 7 || c.entryFmt == 3 || bitsOf n 0 16 != 0 || decide (1 < c.source)
    || (c.source == 0 && (c.rslot != 0 || c.arrSem != 0)) || (c.source == 1 && decide (319 < c.arrSem))
    || (c.entryFmt == 0 && bitsOf n 51 8 != 0) || bitsOf n 51 8 == 0x80
    || bitsOf n (64 + 32 * count) (192 - 32 * count) != 0 || !c.stages.all Stage.ok

/-- The stage of a chain with a given code (each code appears at most once, R147). -/
def Chain.stage? (c : Chain) (code : Nat) : Option Stage := c.stages.find? (·.code == code)

/-- The prologue and epilogue stages, in slot order. -/
def Chain.prologue (c : Chain) : List Stage := c.stages.filter (·.isPrologue)
@[inherit_doc Chain.prologue] def Chain.epilogue (c : Chain) : List Stage := c.stages.filter (!·.isPrologue)

/-- The stages that work on WL32 values (R152). -/
def Stage.isWorking (g : Stage) : Bool := 0x10 ≤ g.code && g.code ≤ 0x14

/-- Whether R152 narrows the WL48 value at Finish entry or at the first working stage. -/
def Chain.narrows (c : Chain) : Bool := c.stages.any Stage.isWorking || c.outKind == 1 || c.outKind == 2

/-- The order conditions of R147 and R148 that need no tensor; `false` is CHAIN_ORDER. -/
def Chain.orderOk (c : Chain) : Bool :=
  let codes := c.stages.map (·.code)
  let pos := fun k => codes.idxOf k
  let has := fun k => codes.contains k
  let q := pos 0x15
  codes.eraseDups.length == codes.length
    && (c.stages.dropWhile Stage.isPrologue).all (!·.isPrologue)
    && (has 0x15 == (c.outKind == 0))
    && (c.outKind != 0 || [0x10, 0x11, 0x12, 0x13, 0x14].all (fun k => !has k || pos k < q))
    && [0x16, 0x17].all (fun k => !has k || (has 0x15 && q < pos k))
    && (!has 0x14 || c.outKind == 0)
    && c.stages.zipIdx.all (fun p => p.1.code != 3 || p.1.sel < 2 || p.2 == 0)
    && (c.outKind != 3 || c.epilogue.isEmpty)
    && ((c.entryFmt == 0) == c.prologue.isEmpty)

/-- The Finish entry-to-write latency E and the decision latency D of R155. -/
def Chain.latencyE (c : Chain) : Nat := 4 + (c.epilogue.map Stage.latency).sum + (if c.narrows then 1 else 0)
@[inherit_doc Chain.latencyE] def Chain.latencyD (c : Chain) : Nat :=
  4 + ((c.epilogue.takeWhile (·.code != 0x15)).map Stage.latency).sum + 2 + (if c.narrows then 1 else 0)

/-! ## Ledger header (Table 04-5) -/

/-- A row ledger's header. -/
structure Ledger where
  rows : Nat
  n : Nat
  cl : Int
  kind : Nat
  stripLen : Nat
  contrib : Nat
  epsM : Nat
  epsE : Int
  state : Nat
  owner : Nat
deriving DecidableEq, Repr

/-- Reads Table 04-5. -/
def Ledger.parse (n : Nat) : Ledger :=
  { rows := bitsOf n 0 32, n := bitsOf n 32 32, cl := s8 (bitsOf n 64 8), kind := bitsOf n 72 8
    stripLen := bitsOf n 80 16, contrib := bitsOf n 96 32, epsM := bitsOf n 128 32, epsE := s8 (bitsOf n 160 8)
    state := bitsOf n 168 8, owner := bitsOf n 176 8 }

/-- The ledger exponent λ = c_l − 7 (Table 04-5). -/
def Ledger.lam (l : Ledger) : Int := l.cl - 7

/-- The byte of row entry `r` (R169). -/
def Ledger.rowOff (r : Nat) : Nat := 64 + 16 * r

/-- The byte of strip entry (r, k) (R169). -/
def Ledger.stripOff (l : Ledger) (r k : Nat) : Nat := 64 + 16 * l.rows + 2 * (r * l.stripLen + k)

/-- Whether kind and strip_len obey Table 04-5 (R222). -/
def Ledger.kindOk (l : Ledger) : Bool :=
  l.kind == 0 && l.stripLen == 0 || l.kind == 1 && l.stripLen == ceilDiv l.n 512

/-- The tiles that close a ledger (R174). -/
def Ledger.fullCount (l : Ledger) : Nat := ceilDiv l.rows 64 * ceilDiv l.n 64

/-! ## Scull descriptor (Table 05-11) -/

/-- A Scull descriptor. -/
structure ScullDesc where
  ha : Nat
  hb : Nat
  hd : Nat
  hx : Nat
  row0 : Nat
  rows : Nat
  col0 : Nat
  ncol : Nat
  eo : Int
  param : Nat
  sel : Nat
deriving DecidableEq, Repr

/-- Reads Table 05-11; `none` is DESC_RESERVED. The row count is left to SCULL_SHAPE (R212, R227). -/
def ScullDesc.parse (n : Nat) : Option ScullDesc :=
  if bitsOf n 181 11 ≠ 0 ∨ bitsOf n 219 37 ≠ 0 ∨ bitsOf n 160 21 = 0 ∨ 2 ^ 20 < bitsOf n 160 21 then none
  else some
    { ha := bitsOf n 0 16, hb := bitsOf n 16 16, hd := bitsOf n 32 16, hx := bitsOf n 48 16, row0 := bitsOf n 64 32
      rows := bitsOf n 96 32, col0 := bitsOf n 128 32, ncol := bitsOf n 160 21, eo := s16 (bitsOf n 192 16)
      param := bitsOf n 208 8, sel := bitsOf n 216 3 }

/-! ## Live ranges (Table 05-15) -/

/-- A live-range descriptor of CT_PMARK: up to three (base, bytes) ranges, the next handle, fin. -/
structure LiveRange where
  ranges : List (Nat × Nat)
  next : Option Nat
  fin : Bool
deriving DecidableEq, Repr

/-- Reads the live-range descriptor; `none` where a reserved bit is set or a base is not 256-byte aligned (R212). -/
def LiveRange.parse (n : Nat) : Option LiveRange :=
  let rs := [0, 1, 2].map fun i => (bitsOf n (64 * i) 40, 256 * bitsOf n (64 * i + 40) 24)
  if bitsOf n 210 46 ≠ 0 ∨ rs.any (fun p => p.1 % 256 != 0) then none
  else some { ranges := rs.filter (·.2 != 0), next := if bitOf n 208 then some (bitsOf n 192 16) else none, fin := bitOf n 209 }

/-! ## Launch descriptors (Tables 07-7 and 07-9) -/

/-- A move or hint descriptor (Table 07-7). Kinds: 0 address, 1 Catch buffer, 2 Finish buffer. -/
structure MoveDesc where
  src : Nat
  skind : Nat
  sblade : Nat
  dst : Nat
  dkind : Nat
  dblade : Nat
  xlen : Nat
  ycount : Nat
  sstride : Int
  dstride : Int
  alloc : Bool
  pin : Bool
  unpin : Bool
  shared : Bool
  span : Nat
  mode : Nat
deriving DecidableEq, Repr

/-- Reads Table 07-7; `none` is LAUNCH_DESC. -/
def MoveDesc.parse (n : Nat) : Option MoveDesc :=
  let m : MoveDesc :=
    { src := bitsOf n 0 40, skind := bitsOf n 40 2, sblade := bitsOf n 42 2, dst := bitsOf n 48 40
      dkind := bitsOf n 88 2, dblade := bitsOf n 90 2, xlen := bitsOf n 96 24, ycount := bitsOf n 120 24
      sstride := s32 (bitsOf n 144 32), dstride := s32 (bitsOf n 176 32), alloc := bitOf n 208, pin := bitOf n 209
      unpin := bitOf n 210, shared := bitOf n 211, span := bitsOf n 212 3 + 1, mode := bitsOf n 252 4 }
  if bitsOf n 44 4 ≠ 0 ∨ bitsOf n 92 4 ≠ 0 ∨ bitsOf n 215 37 ≠ 0 ∨ m.skind = 3 ∨ m.dkind = 3 ∨ m.xlen = 0 ∨ m.ycount = 0
      ∨ (m.skind = 0 ∧ m.sblade ≠ 0) ∨ (m.dkind = 0 ∧ m.dblade ≠ 0) then none
  else some m

/-- The start of row `y` of the source and of the destination (R316). -/
def MoveDesc.srcRow (m : MoveDesc) (y : Nat) : Int := m.src + y * m.sstride
@[inherit_doc MoveDesc.srcRow] def MoveDesc.dstRow (m : MoveDesc) (y : Nat) : Int := m.dst + y * m.dstride

/-- A window descriptor (Table 07-9). -/
structure WindowDesc where
  ltab : Nat
  count : Nat
  tbase : Nat
  slot : Nat
  arr : Nat
  rel : Nat
  span : Nat
deriving DecidableEq, Repr

/-- Reads Table 07-9; `none` is LAUNCH_DESC. -/
def WindowDesc.parse (n : Nat) : Option WindowDesc :=
  if bitsOf n 40 8 ≠ 0 ∨ bitsOf n 88 8 ≠ 0 ∨ bitsOf n 141 111 ≠ 0 ∨ bitsOf n 252 4 ≠ 1 ∨ bitsOf n 16 24 = 0
      ∨ bitsOf n 48 40 % 256 ≠ 0 ∨ bitsOf n 96 24 = 0 then none
  else some
    { ltab := bitsOf n 0 16, count := bitsOf n 16 24, tbase := bitsOf n 48 40, slot := 256 * bitsOf n 96 24
      arr := bitsOf n 120 9, rel := bitsOf n 129 9, span := bitsOf n 138 3 + 1 }

/-- A layer entry (R320): the two parts (source, length); `none` where a reserved bit is set. -/
def parseLayer (n : Nat) : Option ((Nat × Nat) × (Nat × Nat)) :=
  if bitsOf n 40 8 ≠ 0 ∨ bitsOf n 80 48 ≠ 0 ∨ bitsOf n 168 8 ≠ 0 ∨ bitsOf n 208 48 ≠ 0 then none
  else some ((bitsOf n 0 40, bitsOf n 48 32), (bitsOf n 128 40, bitsOf n 176 32))

/-! ## Plan header (Table 05-1) -/

/-- A lane entry of the plan header. -/
structure LaneEntry where
  start : Nat
  length : Nat
  blades : Nat
  budget : Nat
deriving DecidableEq, Repr

/-- A plan header. -/
structure PlanHeader where
  dcount : Nat
  dtab : Nat
  kplane : Nat
  chist : Nat
  lanes : List LaneEntry
deriving DecidableEq, Repr

/-- Lane entry `i` of a plan header. -/
def laneEntry (n i : Nat) : LaneEntry :=
  { start := bitsOf n (256 + 128 * i) 40, length := bitsOf n (256 + 128 * i + 40) 24
    blades := bitsOf n (256 + 128 * i + 64) 4, budget := bitsOf n (256 + 128 * i + 68) 16 }

/-- Reads Table 05-1. `none` is ST-21 PLAN_INVALID for a field of its own: version, reserved bits (a lane entry beyond
the lane count is reserved), a value outside its range, a misaligned address, overlapping Blade masks (R197, R198). The
lane entries of the header end at bit 767, as R197 reserves [1023:768]. -/
def PlanHeader.parse (n : Nat) : Option PlanHeader :=
  let k := bitsOf n 16 2 + 1
  let ls := (List.range k).map (laneEntry n)
  let masks : List Nat := ls.map (·.blades)
  if bitsOf n 0 16 ≠ 1 ∨ bitsOf n 18 14 ≠ 0 ∨ bitsOf n 104 24 ≠ 0 ∨ bitsOf n 208 48 ≠ 0 ∨ bitsOf n 768 256 ≠ 0
      ∨ bitsOf n (256 + 128 * k) (512 - 128 * k) ≠ 0 ∨ bitsOf n 32 32 = 0 ∨ 65536 < bitsOf n 32 32
      ∨ bitsOf n 64 40 % 32 ≠ 0 ∨ bitsOf n 168 40 % 32 ≠ 0
      ∨ (List.range k).any (fun i => bitsOf n (256 + 128 * i + 84) 44 ≠ 0)
      ∨ ls.any (fun l => l.start % 8 ≠ 0 || l.length = 0 || l.budget = 0 || 50000 < l.budget)
      ∨ masks.sum ≠ masks.foldl (fun a b => a ||| b) 0 then none
  else some
    { dcount := bitsOf n 32 32, dtab := bitsOf n 64 40, kplane := bitsOf n 128 40, chist := bitsOf n 168 40, lanes := ls }

end Sys2Proof.Machine
end

