-- ==== Sys2Proof/Machine/Dict.lean ====
section
/-! DEFINITION. The Xefin object dictionary (R582 to R585, R614): the entries of Table 14-14 with their types, access
codes, reset values and legal values, written from the entry tables of the chapters. -/
namespace Sys2Proof.Machine

/-- The entry types of Table 14-1. -/
inductive EntryType where
  | u8 | u16 | u32 | u64 | s32 | bool | enum16 | time64 | str32 | blob
deriving DecidableEq, Repr

/-- The type code of Table 14-1. -/
def EntryType.code : EntryType → Nat
  | .u8 => 1 | .u16 => 2 | .u32 => 3 | .u64 => 4 | .s32 => 5 | .bool => 6 | .enum16 => 7 | .time64 => 8 | .str32 => 9
  | .blob => 10

/-- The bytes of a value on the wire (Table 14-1); a BLOB has its own length. -/
def EntryType.bytes : EntryType → Nat
  | .u8 => 1 | .u16 => 2 | .u32 => 4 | .u64 => 8 | .s32 => 4 | .bool => 1 | .enum16 => 2 | .time64 => 8 | .str32 => 32
  | .blob => 0

/-- The access codes of Table 14-2. -/
inductive Access where
  | ro | rw | rws | wo | rc
deriving DecidableEq, Repr

/-- One row of an entry table: `n` indices from `index`, sub-indices `sub0` to `sub1`; the legal values are `lo` to `hi`
and `extra`. For a BLOB or a STR32, `hi` is its length in bytes, 0 where the length is not fixed. -/
structure DictRow where
  index : Nat
  n : Nat
  sub0 : Nat
  sub1 : Nat
  type : EntryType
  access : Access
  reset : Nat
  lo : Nat
  hi : Nat
  extra : List Nat
deriving DecidableEq, Repr

/-- Whether a row holds index.sub. -/
def DictRow.holds (r : DictRow) (idx sub : Nat) : Bool :=
  r.index ≤ idx && idx < r.index + r.n && r.sub0 ≤ sub && sub ≤ r.sub1

/-- Whether a value is legal for the entry alone (R583, R598); the preferred frequencies of a Crew step by 25 MHz (R580). -/
def DictRow.legal (r : DictRow) (v : Nat) : Bool :=
  (r.lo ≤ v && v ≤ r.hi && (r.index != 0x9200 || v % 25 == 0)) || r.extra.contains v

/-- The entries of chapter 02. -/
def rowsNumerics : List DictRow := [
  ⟨0x3020, 1, 0x01, 0x01, .u16, .rws, 16, 1, 256, []⟩,
  ⟨0x3020, 1, 0x02, 0x02, .u8, .rws, 1, 0, 7, []⟩,
  ⟨0x3020, 1, 0x03, 0x03, .u64, .rws, 0, 0, 18446744073709551615, []⟩,
  ⟨0x3020, 1, 0x04, 0x04, .bool, .rws, 1, 0, 1, []⟩,
  ⟨0x3020, 1, 0x05, 0x05, .u64, .ro, 0, 0, 18446744073709551615, []⟩,
  ⟨0x3028, 1, 0x01, 0x01, .u64, .rc, 0, 0, 18446744073709551615, []⟩,
  ⟨0x3028, 1, 0x02, 0x02, .u64, .rc, 0, 0, 18446744073709551615, []⟩,
  ⟨0x3028, 1, 0x03, 0x03, .u64, .rc, 0, 0, 18446744073709551615, []⟩,
  ⟨0x3028, 1, 0x04, 0x04, .u64, .rc, 0, 0, 18446744073709551615, []⟩,
  ⟨0x3028, 1, 0x05, 0x05, .u64, .rc, 0, 0, 18446744073709551615, []⟩,
  ⟨0x3028, 1, 0x06, 0x06, .u64, .rc, 0, 0, 18446744073709551615, []⟩,
  ⟨0x3028, 1, 0x07, 0x07, .u64, .rc, 0, 0, 18446744073709551615, []⟩,
  ⟨0x3028, 1, 0x08, 0x08, .u64, .rc, 0, 0, 18446744073709551615, []⟩,
  ⟨0x3028, 1, 0x09, 0x09, .u64, .rc, 0, 0, 18446744073709551615, []⟩]

/-- The entries of chapter 03. -/
def rowsBlades : List DictRow := [
  ⟨0x3100, 4, 0x01, 0x01, .u64, .rc, 0, 0, 18446744073709551615, []⟩,
  ⟨0x3100, 4, 0x02, 0x02, .u64, .rc, 0, 0, 18446744073709551615, []⟩,
  ⟨0x3100, 4, 0x03, 0x03, .u64, .rc, 0, 0, 18446744073709551615, []⟩,
  ⟨0x3100, 4, 0x04, 0x04, .u64, .rc, 0, 0, 18446744073709551615, []⟩,
  ⟨0x3100, 4, 0x05, 0x05, .u64, .rc, 0, 0, 18446744073709551615, []⟩,
  ⟨0x3100, 4, 0x06, 0x06, .u64, .rc, 0, 0, 18446744073709551615, []⟩,
  ⟨0x3100, 4, 0x07, 0x07, .u64, .rc, 0, 0, 18446744073709551615, []⟩,
  ⟨0x3100, 4, 0x08, 0x08, .u64, .rc, 0, 0, 18446744073709551615, []⟩,
  ⟨0x3100, 4, 0x09, 0x09, .u64, .rc, 0, 0, 18446744073709551615, []⟩,
  ⟨0x3100, 4, 0x0A, 0x0A, .u64, .rc, 0, 0, 18446744073709551615, []⟩,
  ⟨0x3100, 4, 0x0B, 0x0B, .u64, .rc, 0, 0, 18446744073709551615, []⟩,
  ⟨0x3100, 4, 0x0C, 0x0C, .u64, .rc, 0, 0, 18446744073709551615, []⟩,
  ⟨0x3100, 4, 0x0D, 0x0D, .u64, .rc, 0, 0, 18446744073709551615, []⟩,
  ⟨0x3100, 4, 0x0E, 0x0E, .u32, .ro, 0, 0, 4294967295, []⟩,
  ⟨0x3108, 1, 0x01, 0x01, .u32, .rws, 1048576, 4096, 4294967295, []⟩,
  ⟨0x3110, 1, 0x01, 0x04, .enum16, .ro, 0, 0, 65535, []⟩]

/-- The entries of chapter 04. -/
def rowsChains : List DictRow := [
  ⟨0x3120, 4, 0x01, 0x01, .u64, .rc, 0, 0, 18446744073709551615, []⟩,
  ⟨0x3120, 4, 0x02, 0x02, .u64, .rc, 0, 0, 18446744073709551615, []⟩,
  ⟨0x3120, 4, 0x03, 0x03, .u64, .rc, 0, 0, 18446744073709551615, []⟩,
  ⟨0x3120, 4, 0x04, 0x04, .u64, .rc, 0, 0, 18446744073709551615, []⟩,
  ⟨0x3120, 4, 0x05, 0x05, .u64, .rc, 0, 0, 18446744073709551615, []⟩,
  ⟨0x3120, 4, 0x06, 0x06, .u64, .rc, 0, 0, 18446744073709551615, []⟩,
  ⟨0x3120, 4, 0x07, 0x07, .u64, .rc, 0, 0, 18446744073709551615, []⟩,
  ⟨0x3120, 4, 0x08, 0x08, .u64, .rc, 0, 0, 18446744073709551615, []⟩]

/-- The entries of chapter 05. -/
def rowsSequencers : List DictRow := [
  ⟨0x7100, 1, 0x01, 0x01, .u32, .rws, 1000, 10, 4294967295, []⟩,
  ⟨0x7200, 64, 0x01, 0x01, .enum16, .ro, 0, 0, 65535, []⟩,
  ⟨0x7200, 64, 0x02, 0x02, .u8, .ro, 0, 0, 255, []⟩,
  ⟨0x7200, 64, 0x03, 0x03, .u8, .ro, 0, 0, 255, []⟩,
  ⟨0x7200, 64, 0x04, 0x04, .u64, .ro, 0, 0, 18446744073709551615, []⟩,
  ⟨0x7200, 64, 0x05, 0x05, .time64, .ro, 0, 0, 18446744073709551615, []⟩,
  ⟨0x7200, 64, 0x06, 0x06, .u64, .rc, 0, 0, 18446744073709551615, []⟩,
  ⟨0x7200, 64, 0x07, 0x07, .u64, .rc, 0, 0, 18446744073709551615, []⟩,
  ⟨0x7200, 64, 0x08, 0x08, .u64, .rc, 0, 0, 18446744073709551615, []⟩,
  ⟨0x7200, 64, 0x09, 0x09, .u64, .rc, 0, 0, 18446744073709551615, []⟩,
  ⟨0x7200, 64, 0x0A, 0x0A, .u32, .ro, 0, 0, 4294967295, []⟩,
  ⟨0x7200, 64, 0x0B, 0x0B, .u64, .rc, 0, 0, 18446744073709551615, []⟩,
  ⟨0x7200, 64, 0x0C, 0x0F, .u64, .ro, 0, 0, 18446744073709551615, []⟩,
  ⟨0x3140, 16, 0x01, 0x01, .u64, .rc, 0, 0, 18446744073709551615, []⟩,
  ⟨0x3140, 16, 0x02, 0x02, .u64, .rc, 0, 0, 18446744073709551615, []⟩,
  ⟨0x3140, 16, 0x03, 0x03, .u64, .rc, 0, 0, 18446744073709551615, []⟩,
  ⟨0x3140, 16, 0x04, 0x04, .u64, .rc, 0, 0, 18446744073709551615, []⟩,
  ⟨0x3140, 16, 0x05, 0x05, .u64, .rc, 0, 0, 18446744073709551615, []⟩]

/-- The entries of chapter 06. -/
def rowsTraining : List DictRow := [
  ⟨0x3200, 1, 0x01, 0x01, .u16, .rws, 656, 1, 65535, []⟩,
  ⟨0x3200, 1, 0x02, 0x02, .u16, .rws, 256, 1, 65535, []⟩,
  ⟨0x3200, 1, 0x03, 0x03, .u16, .rws, 512, 257, 65535, []⟩,
  ⟨0x3200, 1, 0x04, 0x04, .u8, .rws, 4, 1, 15, []⟩,
  ⟨0x3200, 1, 0x05, 0x05, .u16, .rws, 16, 1, 65535, []⟩,
  ⟨0x3200, 1, 0x06, 0x06, .bool, .rws, 1, 0, 1, []⟩,
  ⟨0x3208, 1, 0x01, 0x01, .u64, .rc, 0, 0, 18446744073709551615, []⟩,
  ⟨0x3208, 1, 0x02, 0x02, .u64, .rc, 0, 0, 18446744073709551615, []⟩,
  ⟨0x3208, 1, 0x03, 0x03, .u64, .rc, 0, 0, 18446744073709551615, []⟩,
  ⟨0x3208, 1, 0x04, 0x04, .u64, .rc, 0, 0, 18446744073709551615, []⟩,
  ⟨0x3208, 1, 0x05, 0x05, .u64, .rc, 0, 0, 18446744073709551615, []⟩,
  ⟨0x3220, 64, 0x01, 0x02, .u64, .ro, 0, 0, 18446744073709551615, []⟩,
  ⟨0x3220, 64, 0x03, 0x03, .s32, .ro, 0, 0, 4294967295, []⟩,
  ⟨0x3220, 64, 0x04, 0x04, .u64, .ro, 0, 0, 18446744073709551615, []⟩,
  ⟨0x3220, 64, 0x05, 0x06, .u64, .rc, 0, 0, 18446744073709551615, []⟩,
  ⟨0x3220, 64, 0x07, 0x07, .u64, .ro, 0, 0, 18446744073709551615, []⟩]

/-- The entries of chapter 07. -/
def rowsMemory : List DictRow := [
  ⟨0x4100, 64, 0x01, 0x01, .u64, .rws, 0, 0, 18446744073709551615, []⟩,
  ⟨0x4100, 64, 0x02, 0x02, .u64, .rws, 0, 0, 18446744073709551615, []⟩,
  ⟨0x4100, 64, 0x03, 0x03, .u16, .rws, 0, 0, 4095, []⟩,
  ⟨0x4100, 64, 0x04, 0x04, .u32, .rws, 0, 0, 4294967295, []⟩,
  ⟨0x4100, 64, 0x05, 0x05, .enum16, .rws, 0, 0, 2, []⟩,
  ⟨0x4100, 64, 0x06, 0x06, .enum16, .rws, 0, 0, 3, []⟩,
  ⟨0x4100, 64, 0x07, 0x07, .u8, .rws, 0, 0, 3, []⟩,
  ⟨0x4100, 64, 0x08, 0x08, .bool, .rws, 0, 0, 1, []⟩,
  ⟨0x4100, 64, 0x09, 0x09, .u16, .rws, 0, 0, 65535, []⟩,
  ⟨0x4100, 64, 0x0A, 0x0A, .enum16, .ro, 0, 0, 65535, []⟩,
  ⟨0x4100, 64, 0x0B, 0x0B, .u16, .ro, 0, 0, 65535, []⟩,
  ⟨0x4100, 64, 0x0C, 0x0C, .u32, .ro, 0, 0, 4294967295, []⟩,
  ⟨0x4000, 1, 0x01, 0x01, .u16, .ro, 4095, 0, 65535, []⟩,
  ⟨0x4000, 1, 0x02, 0x02, .u16, .ro, 384, 0, 65535, []⟩,
  ⟨0x4000, 1, 0x03, 0x03, .u64, .ro, 566995451904, 0, 18446744073709551615, []⟩,
  ⟨0x4010, 1, 0x01, 0x01, .bool, .rws, 1, 0, 1, []⟩,
  ⟨0x4010, 1, 0x02, 0x02, .u16, .rws, 50, 10, 1000, []⟩,
  ⟨0x4010, 1, 0x03, 0x03, .u8, .rws, 8, 1, 64, []⟩,
  ⟨0x4010, 1, 0x04, 0x04, .u8, .rws, 2, 1, 15, []⟩,
  ⟨0x4020, 12, 0x01, 0x01, .enum16, .ro, 0, 0, 65535, []⟩,
  ⟨0x4020, 12, 0x02, 0x02, .s32, .ro, 0, 0, 4294967295, []⟩,
  ⟨0x4020, 12, 0x03, 0x03, .u32, .ro, 0, 0, 4294967295, []⟩,
  ⟨0x4020, 12, 0x04, 0x04, .u32, .ro, 0, 0, 4294967295, []⟩,
  ⟨0x4020, 12, 0x05, 0x05, .u32, .ro, 0, 0, 4294967295, []⟩,
  ⟨0x4020, 12, 0x06, 0x06, .u64, .rc, 0, 0, 18446744073709551615, []⟩,
  ⟨0x4020, 12, 0x07, 0x07, .u64, .rc, 0, 0, 18446744073709551615, []⟩,
  ⟨0x4020, 12, 0x08, 0x08, .u64, .rc, 0, 0, 18446744073709551615, []⟩,
  ⟨0x4020, 12, 0x09, 0x09, .u64, .rc, 0, 0, 18446744073709551615, []⟩,
  ⟨0x4020, 12, 0x0A, 0x0A, .u64, .rc, 0, 0, 18446744073709551615, []⟩,
  ⟨0x4020, 12, 0x0B, 0x0B, .u64, .rc, 0, 0, 18446744073709551615, []⟩,
  ⟨0x4200, 2, 0x01, 0x04, .u64, .rws, 0, 0, 18446744073709551615, []⟩,
  ⟨0x4200, 2, 0x05, 0x05, .u16, .rws, 0, 0, 65535, []⟩,
  ⟨0x4200, 2, 0x10, 0x10, .u64, .rc, 0, 0, 18446744073709551615, []⟩,
  ⟨0x4200, 2, 0x11, 0x11, .u64, .rc, 0, 0, 18446744073709551615, []⟩,
  ⟨0x4200, 2, 0x12, 0x12, .u64, .rc, 0, 0, 18446744073709551615, []⟩,
  ⟨0x4200, 2, 0x13, 0x13, .u64, .rc, 0, 0, 18446744073709551615, []⟩,
  ⟨0x4200, 2, 0x14, 0x14, .u64, .rc, 0, 0, 18446744073709551615, []⟩,
  ⟨0x4200, 2, 0x15, 0x15, .u64, .rc, 0, 0, 18446744073709551615, []⟩,
  ⟨0x4200, 2, 0x16, 0x16, .u64, .rc, 0, 0, 18446744073709551615, []⟩,
  ⟨0x4200, 2, 0x17, 0x17, .u16, .ro, 0, 0, 65535, []⟩,
  ⟨0x4300, 4, 0x01, 0x01, .u8, .rws, 2, 1, 16, []⟩,
  ⟨0x4300, 4, 0x02, 0x02, .u16, .rws, 256, 1, 256, []⟩,
  ⟨0x4300, 4, 0x03, 0x03, .u16, .rws, 256, 1, 256, []⟩,
  ⟨0x4300, 4, 0x04, 0x04, .u8, .rws, 16, 0, 64, []⟩,
  ⟨0x4300, 4, 0x10, 0x1B, .u64, .rc, 0, 0, 18446744073709551615, []⟩,
  ⟨0x4500, 16, 0x01, 0x01, .u64, .rc, 0, 0, 18446744073709551615, []⟩,
  ⟨0x4500, 16, 0x02, 0x02, .u64, .rc, 0, 0, 18446744073709551615, []⟩,
  ⟨0x4500, 16, 0x03, 0x03, .u64, .rc, 0, 0, 18446744073709551615, []⟩,
  ⟨0x4500, 16, 0x04, 0x04, .u64, .rc, 0, 0, 18446744073709551615, []⟩,
  ⟨0x4500, 16, 0x05, 0x05, .u64, .rc, 0, 0, 18446744073709551615, []⟩,
  ⟨0x4500, 16, 0x06, 0x06, .u64, .rc, 0, 0, 18446744073709551615, []⟩]

/-- The entries of chapter 08. -/
def rowsRelay : List DictRow := [
  ⟨0x6000, 1, 0x01, 0x01, .u8, .rws, 1, 0, 7, []⟩,
  ⟨0x6000, 1, 0x02, 0x02, .u8, .rws, 8, 1, 15, []⟩,
  ⟨0x6000, 1, 0x03, 0x03, .u16, .rws, 32, 8, 256, []⟩,
  ⟨0x6000, 1, 0x04, 0x04, .u16, .rws, 512, 32, 4096, []⟩,
  ⟨0x6000, 1, 0x05, 0x0A, .u8, .rws, 0, 0, 11, []⟩,
  ⟨0x6100, 4, 0x01, 0x03, .u8, .rws, 0, 0, 63, []⟩,
  ⟨0x6100, 4, 0x04, 0x06, .u8, .rws, 1, 1, 64, []⟩,
  ⟨0x6100, 4, 0x07, 0x07, .u16, .rws, 0, 0, 4095, []⟩,
  ⟨0x6100, 4, 0x08, 0x08, .u16, .rws, 0, 0, 4096, []⟩,
  ⟨0x6100, 4, 0x09, 0x09, .u64, .rws, 0, 0, 18446744073709551615, []⟩,
  ⟨0x6100, 4, 0x0A, 0x0A, .u32, .rws, 0, 0, 4294967295, []⟩,
  ⟨0x6100, 4, 0x0B, 0x0B, .u16, .rws, 0, 0, 65535, []⟩,
  ⟨0x6100, 4, 0x0C, 0x0C, .u16, .rws, 0, 0, 65535, []⟩,
  ⟨0x6200, 4, 0x01, 0x01, .u64, .rc, 0, 0, 18446744073709551615, []⟩,
  ⟨0x6200, 4, 0x02, 0x02, .u64, .rc, 0, 0, 18446744073709551615, []⟩,
  ⟨0x6200, 4, 0x03, 0x03, .u64, .rc, 0, 0, 18446744073709551615, []⟩,
  ⟨0x6200, 4, 0x04, 0x04, .u64, .rc, 0, 0, 18446744073709551615, []⟩,
  ⟨0x6200, 4, 0x05, 0x05, .u64, .rc, 0, 0, 18446744073709551615, []⟩,
  ⟨0x6200, 4, 0x06, 0x06, .u64, .rc, 0, 0, 18446744073709551615, []⟩,
  ⟨0x6200, 4, 0x07, 0x07, .u64, .rc, 0, 0, 18446744073709551615, []⟩,
  ⟨0x6200, 4, 0x08, 0x08, .u64, .rc, 0, 0, 18446744073709551615, []⟩,
  ⟨0x6200, 4, 0x09, 0x09, .u64, .rc, 0, 0, 18446744073709551615, []⟩,
  ⟨0x6200, 4, 0x0A, 0x0A, .u16, .ro, 0, 0, 65535, []⟩,
  ⟨0x6200, 4, 0x0B, 0x0B, .u32, .ro, 0, 0, 4294967295, []⟩,
  ⟨0x6300, 1, 0x01, 0x01, .blob, .ro, 0, 0, 16384, []⟩,
  ⟨0x6400, 64, 0x01, 0x01, .blob, .ro, 0, 0, 32, []⟩,
  ⟨0x6400, 64, 0x02, 0x02, .bool, .ro, 0, 0, 1, []⟩]

/-- The entries of chapter 09. -/
def rowsLinks : List DictRow := [
  ⟨0x1020, 1, 0x01, 0x01, .u32, .rws, 16777216, 0, 33554431, []⟩,
  ⟨0x5000, 1, 0x01, 0x01, .u16, .ro, 2, 0, 65535, []⟩,
  ⟨0x5000, 1, 0x02, 0x02, .u16, .ro, 1, 0, 65535, []⟩,
  ⟨0x5000, 1, 0x03, 0x03, .u16, .ro, 2, 0, 65535, []⟩,
  ⟨0x5000, 1, 0x04, 0x04, .u16, .ro, 1, 0, 65535, []⟩,
  ⟨0x5000, 1, 0x05, 0x07, .u8, .rws, 0, 0, 63, []⟩,
  ⟨0x5000, 1, 0x08, 0x0A, .u8, .rws, 4, 1, 64, []⟩,
  ⟨0x5000, 1, 0x0B, 0x0B, .u16, .rws, 64, 16, 1024, []⟩,
  ⟨0x5000, 1, 0x0C, 0x0C, .u16, .rws, 1024, 64, 4096, []⟩,
  ⟨0x5000, 1, 0x0D, 0x0D, .u32, .rws, 2000, 500, 10000, []⟩,
  ⟨0x5000, 1, 0x0E, 0x0E, .u32, .rws, 20000, 2000, 100000, []⟩,
  ⟨0x5000, 1, 0x0F, 0x0F, .u8, .rws, 8, 2, 15, []⟩,
  ⟨0x5000, 1, 0x10, 0x10, .u16, .rws, 50, 1, 65535, []⟩,
  ⟨0x5000, 1, 0x11, 0x11, .u8, .rws, 4, 2, 255, []⟩,
  ⟨0x5000, 1, 0x12, 0x12, .u16, .rws, 1000, 1, 65535, []⟩,
  ⟨0x5100, 24, 0x01, 0x01, .enum16, .ro, 0, 0, 65535, []⟩,
  ⟨0x5100, 24, 0x02, 0x02, .bool, .rws, 1, 0, 1, []⟩,
  ⟨0x5100, 24, 0x03, 0x03, .u8, .rws, 0, 0, 11, [255]⟩,
  ⟨0x5100, 24, 0x04, 0x04, .u32, .rws, 16777216, 0, 33554431, []⟩,
  ⟨0x5100, 24, 0x05, 0x05, .u8, .rws, 255, 0, 23, [255]⟩,
  ⟨0x5100, 24, 0x06, 0x06, .u32, .ro, 16777216, 0, 4294967295, []⟩,
  ⟨0x5100, 24, 0x07, 0x07, .u8, .ro, 255, 0, 255, []⟩,
  ⟨0x5100, 24, 0x08, 0x08, .u16, .ro, 0, 0, 65535, []⟩,
  ⟨0x5100, 24, 0x09, 0x09, .u16, .ro, 0, 0, 65535, []⟩,
  ⟨0x5100, 24, 0x0A, 0x0A, .enum16, .ro, 0, 0, 65535, []⟩,
  ⟨0x5100, 24, 0x0B, 0x0B, .u32, .ro, 0, 0, 4294967295, []⟩,
  ⟨0x5100, 24, 0x0C, 0x0C, .u8, .ro, 0, 0, 255, []⟩,
  ⟨0x5100, 24, 0x0D, 0x0D, .bool, .ro, 0, 0, 1, []⟩,
  ⟨0x5100, 24, 0x10, 0x10, .u64, .rc, 0, 0, 18446744073709551615, []⟩,
  ⟨0x5100, 24, 0x11, 0x11, .u64, .rc, 0, 0, 18446744073709551615, []⟩,
  ⟨0x5100, 24, 0x12, 0x12, .u64, .rc, 0, 0, 18446744073709551615, []⟩,
  ⟨0x5100, 24, 0x13, 0x13, .u64, .rc, 0, 0, 18446744073709551615, []⟩,
  ⟨0x5100, 24, 0x14, 0x14, .u64, .rc, 0, 0, 18446744073709551615, []⟩,
  ⟨0x5100, 24, 0x15, 0x15, .u64, .rc, 0, 0, 18446744073709551615, []⟩,
  ⟨0x5100, 24, 0x16, 0x16, .u64, .rc, 0, 0, 18446744073709551615, []⟩,
  ⟨0x5100, 24, 0x17, 0x17, .u64, .rc, 0, 0, 18446744073709551615, []⟩,
  ⟨0x5100, 24, 0x18, 0x18, .u64, .rc, 0, 0, 18446744073709551615, []⟩,
  ⟨0x5200, 12, 0x01, 0x01, .enum16, .rws, 0, 0, 6, []⟩,
  ⟨0x5200, 12, 0x02, 0x02, .enum16, .ro, 0, 0, 65535, []⟩,
  ⟨0x5200, 12, 0x03, 0x03, .u32, .ro, 0, 0, 4294967295, []⟩,
  ⟨0x5200, 12, 0x04, 0x04, .u16, .ro, 0, 0, 65535, []⟩,
  ⟨0x5200, 12, 0x05, 0x05, .bool, .ro, 0, 0, 1, []⟩,
  ⟨0x5200, 12, 0x06, 0x06, .u64, .rc, 0, 0, 18446744073709551615, []⟩,
  ⟨0x5200, 12, 0x07, 0x07, .u64, .rc, 0, 0, 18446744073709551615, []⟩,
  ⟨0x5200, 12, 0x08, 0x08, .u64, .rc, 0, 0, 18446744073709551615, []⟩,
  ⟨0x5200, 12, 0x09, 0x09, .u64, .rc, 0, 0, 18446744073709551615, []⟩,
  ⟨0x5200, 12, 0x0A, 0x0A, .u64, .rc, 0, 0, 18446744073709551615, []⟩,
  ⟨0x5200, 12, 0x0B, 0x0B, .u64, .rc, 0, 0, 18446744073709551615, []⟩,
  ⟨0x5200, 12, 0x0C, 0x0C, .u64, .rc, 0, 0, 18446744073709551615, []⟩,
  ⟨0x5200, 12, 0x0D, 0x0D, .u64, .rc, 0, 0, 18446744073709551615, []⟩,
  ⟨0x5200, 12, 0x0E, 0x0E, .u64, .rc, 0, 0, 18446744073709551615, []⟩,
  ⟨0x5400, 1, 0x01, 0x01, .u16, .ro, 0, 0, 65535, []⟩,
  ⟨0x5400, 1, 0x02, 0x02, .u16, .ro, 0, 0, 65535, []⟩,
  ⟨0x5400, 1, 0x03, 0x03, .u64, .rc, 0, 0, 18446744073709551615, []⟩,
  ⟨0x5500, 12, 0x01, 0x01, .blob, .ro, 0, 0, 128, []⟩,
  ⟨0x5500, 12, 0x02, 0x02, .time64, .ro, 0, 0, 18446744073709551615, []⟩,
  ⟨0x5600, 1, 0x01, 0x01, .blob, .ro, 0, 0, 32, []⟩,
  ⟨0x5600, 1, 0x02, 0x02, .u64, .rc, 0, 0, 18446744073709551615, []⟩]

/-- The entries of chapter 10. -/
def rowsTime : List DictRow := [
  ⟨0x2000, 1, 0x01, 0x01, .u16, .rws, 20, 5, 500, []⟩,
  ⟨0x2000, 1, 0x02, 0x02, .u8, .rws, 2, 0, 10, []⟩,
  ⟨0x2000, 1, 0x03, 0x03, .u64, .rws, 0, 0, 18446744073709551615, []⟩,
  ⟨0x2000, 1, 0x04, 0x04, .u64, .rws, 0, 0, 1099511627775, []⟩,
  ⟨0x2000, 1, 0x05, 0x05, .time64, .ro, 0, 0, 18446744073709551615, []⟩,
  ⟨0x2000, 1, 0x06, 0x06, .u32, .ro, 400, 0, 4294967295, []⟩,
  ⟨0x2000, 1, 0x07, 0x07, .u64, .rws, 0, 0, 18446744073709551615, []⟩,
  ⟨0x2010, 1, 0x01, 0x01, .enum16, .rws, 0, 0, 3, []⟩,
  ⟨0x2010, 1, 0x02, 0x02, .u8, .rws, 255, 0, 11, [255]⟩,
  ⟨0x2010, 1, 0x03, 0x03, .u8, .rws, 0, 0, 127, []⟩,
  ⟨0x2010, 1, 0x04, 0x04, .u16, .rws, 20, 1, 1000, []⟩,
  ⟨0x2010, 1, 0x05, 0x05, .u16, .rws, 50, 5, 10000, []⟩,
  ⟨0x2010, 1, 0x06, 0x06, .u16, .rws, 2000, 250, 60000, []⟩,
  ⟨0x2010, 1, 0x07, 0x07, .enum16, .ro, 0, 0, 65535, []⟩,
  ⟨0x2010, 1, 0x08, 0x08, .s32, .ro, 0, 0, 4294967295, []⟩,
  ⟨0x2010, 1, 0x09, 0x09, .s32, .ro, 0, 0, 4294967295, []⟩,
  ⟨0x2010, 1, 0x0A, 0x0A, .enum16, .rws, 0, 0, 2, []⟩,
  ⟨0x2010, 1, 0x0B, 0x0B, .enum16, .rws, 0, 0, 2, []⟩,
  ⟨0x2010, 1, 0x0C, 0x0C, .u64, .rc, 0, 0, 18446744073709551615, []⟩,
  ⟨0x2020, 12, 0x01, 0x01, .s32, .ro, 0, 0, 4294967295, []⟩,
  ⟨0x2020, 12, 0x02, 0x02, .u64, .rc, 0, 0, 18446744073709551615, []⟩,
  ⟨0x2020, 12, 0x03, 0x03, .u64, .rc, 0, 0, 18446744073709551615, []⟩,
  ⟨0x2030, 1, 0x01, 0x01, .u64, .rc, 0, 0, 18446744073709551615, []⟩,
  ⟨0x2030, 1, 0x02, 0x02, .u32, .rws, 1000, 1, 4294967295, []⟩,
  ⟨0x2100, 64, 0x01, 0x01, .u64, .rc, 0, 0, 18446744073709551615, []⟩,
  ⟨0x2100, 64, 0x02, 0x02, .u64, .rc, 0, 0, 18446744073709551615, []⟩,
  ⟨0x2100, 64, 0x03, 0x03, .u32, .ro, 0, 0, 4294967295, []⟩,
  ⟨0x2100, 64, 0x04, 0x04, .u64, .rc, 0, 0, 18446744073709551615, []⟩,
  ⟨0x2100, 64, 0x05, 0x05, .u64, .rc, 0, 0, 18446744073709551615, []⟩,
  ⟨0x2100, 64, 0x06, 0x06, .s32, .ro, 0, 0, 4294967295, []⟩,
  ⟨0xA000, 1, 0x01, 0x01, .u8, .rws, 255, 0, 63, [255]⟩,
  ⟨0xA000, 1, 0x02, 0x02, .u64, .ro, 0, 0, 18446744073709551615, []⟩,
  ⟨0xA000, 1, 0x03, 0x03, .u64, .rc, 0, 0, 18446744073709551615, []⟩,
  ⟨0xA000, 1, 0x04, 0x04, .bool, .rws, 0, 0, 1, []⟩,
  ⟨0xA000, 1, 0x05, 0x05, .u32, .rws, 0, 0, 4294967295, []⟩,
  ⟨0xA000, 1, 0x06, 0x06, .u16, .rws, 0, 1, 65535, []⟩,
  ⟨0xA000, 1, 0x07, 0x07, .u16, .rws, 16382, 0, 65535, []⟩,
  ⟨0xA000, 1, 0x08, 0x08, .u64, .rc, 0, 0, 18446744073709551615, []⟩,
  ⟨0xA000, 1, 0x09, 0x09, .u32, .ro, 4096, 0, 4294967295, []⟩,
  ⟨0xA000, 1, 0x0A, 0x0A, .bool, .rws, 0, 0, 1, []⟩,
  ⟨0xA000, 1, 0x0B, 0x0B, .bool, .wo, 0, 0, 1, []⟩,
  ⟨0xA000, 1, 0x0C, 0x0C, .blob, .ro, 0, 0, 10248, []⟩,
  ⟨0xA010, 1, 0x01, 0x01, .blob, .ro, 0, 0, 0, []⟩,
  ⟨0xA100, 64, 0x01, 0x01, .enum16, .rws, 0, 0, 13, []⟩,
  ⟨0xA100, 64, 0x02, 0x02, .u16, .rws, 0, 0, 65535, []⟩,
  ⟨0xA100, 64, 0x03, 0x03, .s32, .rws, 0, 0, 4294967295, []⟩,
  ⟨0xA100, 64, 0x04, 0x04, .u8, .rws, 0, 0, 63, []⟩,
  ⟨0xA100, 64, 0x05, 0x05, .bool, .rws, 1, 0, 1, []⟩,
  ⟨0xA100, 64, 0x06, 0x06, .u32, .rws, 50000, 1, 4294967295, []⟩,
  ⟨0xA100, 64, 0x07, 0x07, .u64, .ro, 0, 0, 18446744073709551615, []⟩,
  ⟨0xA100, 64, 0x08, 0x08, .u64, .ro, 0, 0, 18446744073709551615, []⟩,
  ⟨0xA100, 64, 0x09, 0x09, .u64, .ro, 0, 0, 18446744073709551615, []⟩,
  ⟨0xA100, 64, 0x0A, 0x0A, .u64, .ro, 0, 0, 18446744073709551615, []⟩,
  ⟨0xA100, 64, 0x0B, 0x0B, .blob, .ro, 0, 0, 128, []⟩,
  ⟨0xA100, 64, 0x0C, 0x0C, .time64, .ro, 0, 0, 18446744073709551615, []⟩,
  ⟨0xD100, 64, 0x01, 0x01, .u64, .rc, 0, 0, 18446744073709551615, []⟩,
  ⟨0xD100, 64, 0x02, 0x02, .u64, .rc, 0, 0, 18446744073709551615, []⟩,
  ⟨0xD100, 64, 0x03, 0x03, .u32, .ro, 0, 0, 4294967295, []⟩]

/-- The entries of chapter 11. -/
def rowsCrews : List DictRow := [
  ⟨0x7100, 1, 0x02, 0x02, .u32, .rws, 100, 0, 1000000, []⟩,
  ⟨0x7100, 1, 0x03, 0x03, .u32, .rws, 1000, 10, 1000000, []⟩,
  ⟨0x7000, 4, 0x01, 0x01, .u8, .rws, 0, 0, 255, []⟩,
  ⟨0x7000, 4, 0x02, 0x02, .u16, .rws, 0, 0, 65535, []⟩,
  ⟨0x7000, 4, 0x03, 0x03, .u16, .rws, 0, 0, 65535, []⟩,
  ⟨0x7000, 4, 0x04, 0x04, .enum16, .ro, 0, 0, 65535, []⟩,
  ⟨0x7000, 4, 0x06, 0x06, .u16, .rws, 500, 1, 65535, []⟩,
  ⟨0x7000, 4, 0x07, 0x07, .u16, .ro, 0, 0, 65535, []⟩,
  ⟨0x7000, 4, 0x08, 0x08, .u16, .ro, 0, 0, 65535, []⟩,
  ⟨0x7000, 4, 0x10, 0x1B, .u16, .rws, 0, 0, 256, []⟩,
  ⟨0x7000, 4, 0x20, 0x20, .u64, .rc, 0, 0, 18446744073709551615, []⟩,
  ⟨0x7000, 4, 0x21, 0x21, .u64, .rc, 0, 0, 18446744073709551615, []⟩,
  ⟨0x7000, 4, 0x22, 0x22, .u64, .rc, 0, 0, 18446744073709551615, []⟩,
  ⟨0x7000, 4, 0x23, 0x23, .u64, .rc, 0, 0, 18446744073709551615, []⟩,
  ⟨0x7000, 4, 0x24, 0x24, .u64, .rc, 0, 0, 18446744073709551615, []⟩,
  ⟨0x7300, 64, 0x01, 0x01, .u64, .rws, 0, 0, 18446744073709551615, []⟩,
  ⟨0x7300, 64, 0x02, 0x02, .u64, .rws, 0, 0, 18446744073709551615, []⟩,
  ⟨0x7300, 64, 0x03, 0x03, .u32, .rws, 0, 0, 4294967295, []⟩,
  ⟨0x7300, 64, 0x04, 0x04, .u64, .rws, 0, 0, 18446744073709551615, []⟩,
  ⟨0x7300, 64, 0x05, 0x05, .u8, .rws, 0, 0, 15, []⟩,
  ⟨0x7300, 64, 0x06, 0x06, .u8, .rws, 0, 0, 3, []⟩,
  ⟨0x7300, 64, 0x07, 0x07, .u16, .rws, 50, 1, 65535, []⟩,
  ⟨0x7300, 64, 0x08, 0x08, .enum16, .rws, 0, 0, 4, []⟩,
  ⟨0x7300, 64, 0x09, 0x09, .u32, .ro, 0, 0, 4294967295, []⟩,
  ⟨0x7300, 64, 0x0A, 0x0A, .u64, .rc, 0, 0, 18446744073709551615, []⟩,
  ⟨0x7300, 64, 0x0B, 0x0B, .u64, .rc, 0, 0, 18446744073709551615, []⟩,
  ⟨0x7300, 64, 0x0C, 0x0C, .u32, .ro, 0, 0, 4294967295, []⟩,
  ⟨0x7300, 64, 0x0D, 0x0D, .u32, .ro, 0, 0, 4294967295, []⟩,
  ⟨0x7300, 64, 0x0E, 0x0E, .u32, .ro, 0, 0, 4294967295, []⟩,
  ⟨0x7300, 64, 0x0F, 0x0F, .bool, .ro, 0, 0, 1, []⟩,
  ⟨0x7300, 64, 0x10, 0x10, .bool, .ro, 0, 0, 1, []⟩]

/-- The entries of chapter 12. -/
def rowsTrust : List DictRow := [
  ⟨0x8000, 1, 0x01, 0x01, .blob, .ro, 0, 0, 32, []⟩,
  ⟨0x8000, 1, 0x02, 0x02, .enum16, .ro, 0, 0, 65535, []⟩,
  ⟨0x8000, 1, 0x03, 0x03, .u64, .ro, 0, 0, 18446744073709551615, []⟩,
  ⟨0x8000, 1, 0x04, 0x04, .bool, .ro, 0, 0, 1, []⟩,
  ⟨0x8000, 1, 0x05, 0x05, .u32, .ro, 0, 0, 4294967295, []⟩,
  ⟨0x8000, 1, 0x06, 0x06, .u8, .ro, 0, 0, 255, []⟩,
  ⟨0x8000, 1, 0x07, 0x07, .blob, .ro, 0, 0, 128, []⟩,
  ⟨0x8000, 1, 0x08, 0x08, .u64, .rc, 0, 0, 18446744073709551615, []⟩,
  ⟨0x8000, 1, 0x09, 0x09, .u8, .ro, 3, 0, 255, []⟩,
  ⟨0x8011, 8, 0x01, 0x01, .enum16, .ro, 0, 0, 65535, []⟩,
  ⟨0x8011, 8, 0x02, 0x02, .enum16, .ro, 0, 0, 65535, []⟩,
  ⟨0x8011, 8, 0x03, 0x03, .u32, .ro, 0, 0, 4294967295, []⟩,
  ⟨0x8011, 8, 0x04, 0x04, .u16, .ro, 0, 0, 65535, []⟩,
  ⟨0x8011, 8, 0x05, 0x05, .u16, .ro, 0, 0, 65535, []⟩,
  ⟨0x8011, 8, 0x06, 0x06, .enum16, .ro, 0, 0, 65535, []⟩,
  ⟨0x8011, 8, 0x07, 0x07, .enum16, .ro, 0, 0, 65535, []⟩,
  ⟨0x8011, 8, 0x08, 0x08, .blob, .ro, 0, 0, 32, []⟩,
  ⟨0x8100, 1, 0x01, 0x01, .u32, .ro, 0, 0, 4294967295, []⟩,
  ⟨0x8100, 1, 0x02, 0x02, .u64, .rc, 0, 0, 18446744073709551615, []⟩,
  ⟨0x8100, 1, 0x03, 0x03, .u64, .rc, 0, 0, 18446744073709551615, []⟩,
  ⟨0x8200, 4, 0x01, 0x01, .enum16, .rws, 0, 0, 2, []⟩,
  ⟨0x8200, 4, 0x02, 0x02, .u8, .ro, 0, 0, 255, []⟩,
  ⟨0x8200, 4, 0x03, 0x03, .u8, .ro, 0, 0, 255, []⟩,
  ⟨0x8200, 4, 0x04, 0x04, .u64, .ro, 0, 0, 18446744073709551615, []⟩,
  ⟨0x8200, 4, 0x05, 0x05, .u64, .rc, 0, 0, 18446744073709551615, []⟩,
  ⟨0x8200, 4, 0x06, 0x06, .u64, .rc, 0, 0, 18446744073709551615, []⟩,
  ⟨0x8200, 4, 0x07, 0x07, .u64, .rc, 0, 0, 18446744073709551615, []⟩,
  ⟨0x8200, 4, 0x08, 0x08, .time64, .ro, 0, 0, 18446744073709551615, []⟩,
  ⟨0x8300, 64, 0x01, 0x01, .u8, .ro, 0, 0, 255, []⟩,
  ⟨0x8400, 4, 0x01, 0x01, .blob, .ro, 0, 0, 1184, []⟩,
  ⟨0x8400, 4, 0x02, 0x02, .u32, .ro, 0, 0, 4294967295, []⟩,
  ⟨0x8400, 4, 0x03, 0x03, .blob, .wo, 0, 0, 1129, []⟩,
  ⟨0x8400, 4, 0x04, 0x04, .u8, .ro, 0, 0, 255, []⟩,
  ⟨0x8400, 4, 0x05, 0x05, .blob, .rws, 0, 0, 32, []⟩,
  ⟨0x8400, 4, 0x06, 0x06, .enum16, .ro, 0, 0, 65535, []⟩,
  ⟨0x8400, 4, 0x07, 0x07, .u64, .ro, 0, 0, 18446744073709551615, []⟩,
  ⟨0x8500, 24, 0x01, 0x01, .blob, .rws, 0, 0, 32, []⟩,
  ⟨0x8500, 24, 0x02, 0x02, .blob, .ro, 0, 0, 32, []⟩,
  ⟨0x8500, 24, 0x03, 0x03, .u8, .ro, 0, 0, 255, []⟩,
  ⟨0x8500, 24, 0x04, 0x04, .u64, .rc, 0, 0, 18446744073709551615, []⟩,
  ⟨0x8500, 24, 0x05, 0x05, .u64, .ro, 0, 0, 18446744073709551615, []⟩]

/-- The entries of chapter 13. -/
def rowsPacer : List DictRow := [
  ⟨0x9000, 1, 0x01, 0x01, .u16, .rws, 1600, 600, 1600, []⟩,
  ⟨0x9000, 1, 0x02, 0x02, .u16, .ro, 0, 0, 65535, []⟩,
  ⟨0x9000, 1, 0x03, 0x03, .u16, .ro, 0, 0, 65535, []⟩,
  ⟨0x9000, 1, 0x04, 0x04, .u16, .ro, 0, 0, 65535, []⟩,
  ⟨0x9000, 1, 0x05, 0x05, .enum16, .ro, 0, 0, 65535, []⟩,
  ⟨0x9000, 1, 0x10, 0x10, .u64, .ro, 0, 0, 18446744073709551615, []⟩,
  ⟨0x9000, 1, 0x11, 0x11, .u64, .ro, 0, 0, 18446744073709551615, []⟩,
  ⟨0x9000, 1, 0x12, 0x12, .time64, .ro, 0, 0, 18446744073709551615, []⟩,
  ⟨0x9000, 1, 0x13, 0x13, .u64, .rc, 0, 0, 18446744073709551615, []⟩,
  ⟨0x9000, 1, 0x14, 0x14, .u64, .rc, 0, 0, 18446744073709551615, []⟩,
  ⟨0x9000, 1, 0x15, 0x15, .blob, .rws, 0, 0, 64, []⟩,
  ⟨0x9100, 4, 0x01, 0x01, .u16, .ro, 0, 0, 65535, []⟩,
  ⟨0x9100, 4, 0x02, 0x02, .u16, .ro, 0, 0, 65535, []⟩,
  ⟨0x9100, 4, 0x03, 0x03, .u16, .ro, 0, 0, 65535, []⟩,
  ⟨0x9100, 4, 0x04, 0x04, .u16, .ro, 0, 0, 65535, []⟩,
  ⟨0x9100, 4, 0x05, 0x05, .u16, .ro, 0, 0, 65535, []⟩,
  ⟨0x9100, 4, 0x06, 0x06, .s32, .ro, 0, 0, 4294967295, []⟩,
  ⟨0x9100, 4, 0x07, 0x07, .u64, .rc, 0, 0, 18446744073709551615, []⟩,
  ⟨0x9100, 4, 0x08, 0x08, .u64, .rc, 0, 0, 18446744073709551615, []⟩,
  ⟨0x9100, 4, 0x09, 0x09, .u64, .rc, 0, 0, 18446744073709551615, []⟩,
  ⟨0x9100, 4, 0x0A, 0x0A, .u64, .rc, 0, 0, 18446744073709551615, []⟩,
  ⟨0x9120, 2, 0x01, 0x01, .s32, .ro, 0, 0, 4294967295, []⟩,
  ⟨0x9120, 2, 0x02, 0x02, .u64, .rc, 0, 0, 18446744073709551615, []⟩,
  ⟨0x9200, 4, 0x01, 0x05, .u16, .rws, 3300, 1000, 3600, [65535]⟩,
  ⟨0xB000, 1, 0x01, 0x01, .bool, .rws, 1, 0, 1, []⟩,
  ⟨0xB000, 1, 0x02, 0x02, .bool, .rws, 1, 0, 1, []⟩,
  ⟨0xB000, 1, 0x03, 0x03, .bool, .rws, 0, 0, 1, []⟩,
  ⟨0xB000, 1, 0x04, 0x04, .u32, .rws, 3600, 60, 86400, []⟩,
  ⟨0xB000, 1, 0x05, 0x05, .bool, .rws, 0, 0, 1, []⟩,
  ⟨0xB000, 1, 0x06, 0x06, .u64, .rc, 0, 0, 18446744073709551615, []⟩,
  ⟨0xB000, 1, 0x07, 0x07, .u64, .rc, 0, 0, 18446744073709551615, []⟩,
  ⟨0xB000, 1, 0x08, 0x08, .u64, .rc, 0, 0, 18446744073709551615, []⟩,
  ⟨0xB000, 1, 0x09, 0x09, .u64, .rc, 0, 0, 18446744073709551615, []⟩,
  ⟨0xB000, 1, 0x0A, 0x0A, .blob, .ro, 0, 0, 8, []⟩,
  ⟨0xB000, 1, 0x0B, 0x0B, .u64, .rc, 0, 0, 18446744073709551615, []⟩,
  ⟨0xB000, 1, 0x0C, 0x0C, .u64, .rc, 0, 0, 18446744073709551615, []⟩,
  ⟨0xB000, 1, 0x0D, 0x0D, .u64, .rc, 0, 0, 18446744073709551615, []⟩,
  ⟨0xB010, 4, 0x01, 0x01, .enum16, .rws, 0, 0, 2, []⟩,
  ⟨0xB010, 4, 0x02, 0x02, .u16, .ro, 0, 0, 65535, []⟩,
  ⟨0xB100, 64, 0x01, 0x01, .u64, .rws, 0, 0, 18446744073709551615, []⟩]

/-- The entries of chapter 14. -/
def rowsXefin : List DictRow := [
  ⟨0x1000, 1, 0x01, 0x01, .str32, .ro, 0, 0, 32, []⟩,
  ⟨0x1000, 1, 0x02, 0x02, .str32, .ro, 0, 0, 32, []⟩,
  ⟨0x1000, 1, 0x03, 0x03, .str32, .ro, 0, 0, 32, []⟩,
  ⟨0x1000, 1, 0x04, 0x04, .str32, .ro, 0, 0, 32, []⟩,
  ⟨0x1000, 1, 0x05, 0x05, .u16, .ro, 1, 0, 65535, []⟩,
  ⟨0x1000, 1, 0x06, 0x06, .u16, .ro, 0, 0, 65535, []⟩,
  ⟨0x1030, 1, 0x01, 0x01, .enum16, .rws, 0, 0, 1, []⟩,
  ⟨0x1030, 1, 0x02, 0x02, .u32, .rws, 0, 0, 4294967295, []⟩,
  ⟨0x1030, 1, 0x03, 0x03, .u8, .rws, 24, 8, 30, []⟩,
  ⟨0x1030, 1, 0x04, 0x04, .u32, .rws, 0, 0, 4294967295, []⟩,
  ⟨0x1030, 1, 0x05, 0x05, .u32, .ro, 0, 0, 4294967295, []⟩,
  ⟨0x1030, 1, 0x06, 0x06, .u64, .ro, 0, 0, 18446744073709551615, []⟩,
  ⟨0xC000, 1, 0x01, 0x01, .u16, .ro, 0, 0, 65535, []⟩,
  ⟨0xC000, 1, 0x02, 0x02, .u32, .ro, 0, 0, 4294967295, []⟩,
  ⟨0xC000, 1, 0x03, 0x03, .u32, .rws, 2000, 500, 1000000, []⟩,
  ⟨0xC000, 1, 0x04, 0x04, .u8, .ro, 0, 0, 255, []⟩,
  ⟨0xC000, 1, 0x05, 0x05, .u64, .ro, 0, 0, 18446744073709551615, []⟩,
  ⟨0xC000, 1, 0x06, 0x06, .blob, .ro, 0, 0, 32, []⟩,
  ⟨0xC000, 1, 0x07, 0x07, .u64, .rc, 0, 0, 18446744073709551615, []⟩,
  ⟨0xC000, 1, 0x08, 0x08, .u64, .rc, 0, 0, 18446744073709551615, []⟩,
  ⟨0xC000, 1, 0x09, 0x09, .u64, .rc, 0, 0, 18446744073709551615, []⟩,
  ⟨0xC000, 1, 0x0A, 0x0A, .u64, .rc, 0, 0, 18446744073709551615, []⟩,
  ⟨0xC010, 1, 0x01, 0x01, .blob, .ro, 0, 0, 1184, []⟩,
  ⟨0xC010, 1, 0x02, 0x02, .u8, .ro, 0, 0, 255, []⟩,
  ⟨0xC010, 1, 0x03, 0x03, .enum16, .rws, 2, 0, 2, []⟩,
  ⟨0xC010, 1, 0x04, 0x04, .bool, .rws, 0, 0, 1, []⟩,
  ⟨0xC010, 1, 0x05, 0x05, .u16, .rws, 60, 5, 3600, []⟩,
  ⟨0xC010, 1, 0x06, 0x06, .u64, .rc, 0, 0, 18446744073709551615, []⟩,
  ⟨0xC010, 1, 0x07, 0x07, .u64, .rc, 0, 0, 18446744073709551615, []⟩,
  ⟨0xC010, 1, 0x08, 0x08, .u64, .rc, 0, 0, 18446744073709551615, []⟩,
  ⟨0xC100, 8, 0x01, 0x01, .u64, .ro, 0, 0, 18446744073709551615, []⟩,
  ⟨0xC100, 8, 0x02, 0x02, .u64, .ro, 0, 0, 18446744073709551615, []⟩,
  ⟨0xC100, 8, 0x03, 0x03, .u16, .ro, 0, 0, 65535, []⟩,
  ⟨0xC100, 8, 0x04, 0x04, .u32, .ro, 0, 0, 4294967295, []⟩,
  ⟨0xC200, 1, 0x01, 0x01, .blob, .ro, 0, 0, 0, []⟩,
  ⟨0xC200, 1, 0x02, 0x02, .u16, .ro, 0, 0, 65535, []⟩,
  ⟨0xC301, 7, 0x01, 0x01, .enum16, .ro, 0, 0, 65535, []⟩,
  ⟨0xC301, 7, 0x02, 0x02, .u32, .ro, 0, 0, 4294967295, []⟩,
  ⟨0xC301, 7, 0x03, 0x03, .blob, .wo, 0, 0, 0, []⟩,
  ⟨0xC301, 7, 0x04, 0x04, .enum16, .rws, 0, 0, 2, []⟩,
  ⟨0xC301, 7, 0x05, 0x05, .u64, .ro, 0, 0, 18446744073709551615, []⟩,
  ⟨0xC301, 7, 0x06, 0x06, .u32, .ro, 0, 0, 4294967295, []⟩,
  ⟨0xC301, 7, 0x07, 0x07, .time64, .ro, 0, 0, 18446744073709551615, []⟩]

/-- The entries of chapter 15. -/
def rowsPower : List DictRow := [
  ⟨0xD000, 1, 0x01, 0x01, .enum16, .ro, 0, 0, 65535, []⟩,
  ⟨0xD000, 1, 0x02, 0x02, .enum16, .wo, 0, 1, 1, []⟩,
  ⟨0xD000, 1, 0x03, 0x03, .enum16, .ro, 1, 0, 65535, []⟩,
  ⟨0xD000, 1, 0x04, 0x04, .u32, .ro, 0, 0, 4294967295, []⟩,
  ⟨0xD200, 4, 0x01, 0x01, .enum16, .rws, 0, 0, 5, []⟩,
  ⟨0xD200, 4, 0x02, 0x02, .u32, .rws, 0, 0, 4294967295, []⟩,
  ⟨0xD200, 4, 0x03, 0x03, .u32, .rws, 15000, 1, 4294967295, []⟩,
  ⟨0xD200, 4, 0x04, 0x04, .u8, .rws, 255, 0, 63, [255]⟩,
  ⟨0xD200, 4, 0x05, 0x05, .blob, .rws, 0, 0, 1024, []⟩,
  ⟨0xD200, 4, 0x06, 0x06, .enum16, .rws, 1, 1, 6, []⟩,
  ⟨0xD200, 4, 0x07, 0x07, .u8, .rws, 1, 1, 63, []⟩,
  ⟨0xD200, 4, 0x08, 0x08, .u64, .rws, 0, 0, 18446744073709551615, []⟩,
  ⟨0xD200, 4, 0x09, 0x09, .u32, .rws, 16777216, 0, 33554431, []⟩,
  ⟨0xD200, 4, 0x0A, 0x0A, .blob, .ro, 0, 0, 192, []⟩,
  ⟨0xD200, 4, 0x0B, 0x0B, .u64, .ro, 0, 0, 18446744073709551615, []⟩,
  ⟨0xD200, 4, 0x0C, 0x0C, .enum16, .ro, 0, 0, 65535, []⟩,
  ⟨0xD200, 4, 0x0D, 0x0D, .u64, .rc, 0, 0, 18446744073709551615, []⟩,
  ⟨0xD200, 4, 0x0E, 0x0E, .u64, .rc, 0, 0, 18446744073709551615, []⟩,
  ⟨0xD200, 4, 0x10, 0x10, .u64, .rc, 0, 0, 18446744073709551615, []⟩,
  ⟨0xD200, 4, 0x11, 0x11, .u16, .rws, 100, 1, 800, []⟩]

/-- The entries of chapter 00. -/
def rowsScope : List DictRow := [
  ⟨0x1010, 1, 0x01, 0x01, .u8, .ro, 0, 0, 255, []⟩]

/-- The dictionary, schema 0x0002 (R614): the rows among which those stand whose indices begin with the hexadecimal digit `k`. -/
def dictionary (k : Nat) : List DictRow :=
  if k = 3 then rowsNumerics ++ rowsBlades ++ rowsChains ++ rowsSequencers ++ rowsTraining
  else if k = 7 then rowsCrews ++ rowsSequencers
  else if k = 4 then rowsMemory
  else if k = 5 then rowsLinks
  else if k = 6 then rowsRelay
  else if k = 2 then rowsTime
  else if k = 8 then rowsTrust
  else if k = 9 ∨ k = 0xB then rowsPacer
  else if k = 0xA then rowsTime
  else if k = 0xC then rowsXefin
  else if k = 0xD then rowsPower ++ rowsTime
  else if k = 1 then rowsXefin ++ rowsLinks ++ rowsScope
  else []

/-- The highest sub-index in use of an index; 0 where the index has no entry. -/
def highestSub (idx : Nat) : Nat :=
  (((dictionary (idx / 4096)).filter fun r => r.index ≤ idx && idx < r.index + r.n).map (·.sub1)).foldl max 0

/-- The row of index.sub; `none` is ST-04 NO_ENTRY (R582). Sub-index 0 holds the highest sub-index in use (R21). -/
def dictRow (idx sub : Nat) : Option DictRow :=
  if sub = 0 then
    if highestSub idx = 0 then none
    else some { index := idx, n := 1, sub0 := 0, sub1 := 0, type := .u8, access := .ro, reset := highestSub idx, lo := 0, hi := 255, extra := [] }
  else (dictionary (idx / 4096)).find? (·.holds idx sub)

/-- The reset value of index.sub. Three families have a reset value that depends on the index: the Sweep of Oarlock o
(0x51oo.03), the role of Sweep s (0x52ss.01), the Sweeps of the six directions (0x6000.05 to .0A). -/
def resetOf (idx sub : Nat) : Nat :=
  if 0x5100 ≤ idx ∧ idx ≤ 0x5117 ∧ sub = 3 then (idx - 0x5100) / 4
  else if 0x5200 ≤ idx ∧ idx ≤ 0x520B ∧ sub = 1 then (if idx - 0x5200 < 6 then idx - 0x5200 + 1 else 0)
  else if idx = 0x6000 ∧ 5 ≤ sub ∧ sub ≤ 10 then sub - 5
  else match dictRow idx sub with
    | some r => r.reset
    | none => 0

/-- The key of index.sub in the register file. -/
def entryKey (idx sub : Nat) : Nat := idx * 256 + sub

end Sys2Proof.Machine
end

