-- ==== Sys2Proof/Machine/Sparse.lean ====
section
/-! DEFINITION. Sparse data: a list of (key, value) pairs, keys strictly rising, with no entry equal to what an unlisted
key reads as. Equal contents are equal lists. The memory, the register file and the semaphores are held this way. -/
namespace Sys2Proof.Machine

/-- The value at a key; `d` is what an unlisted key reads as. -/
def sparseGet {β : Type} (d : β) : List (Nat × β) → Nat → β
  | [], _ => d
  | (k, v) :: rest, a => if k = a then v else sparseGet d rest a

/-- Write `v` at key `a`. Writing the value `d` that an unlisted key reads as removes the entry. -/
def sparseSet {β : Type} [DecidableEq β] (d : β) : List (Nat × β) → Nat → β → List (Nat × β)
  | [], a, v => if v = d then [] else [(a, v)]
  | (k, w) :: rest, a, v =>
    if k = a then (if v = d then rest.filter (·.1 != a) else (k, v) :: rest)
    else if a < k then (if v = d then (k, w) :: rest.filter (·.1 != a) else (a, v) :: (k, w) :: rest)
    else (k, w) :: sparseSet d rest a v

/-- Every key of the list lies above `lo`, the keys rise strictly, and no value is the default of its key. -/
def sparseWfFrom {β : Type} [DecidableEq β] (d : Nat → β) : Nat → List (Nat × β) → Bool
  | _, [] => true
  | lo, (k, v) :: rest => lo ≤ k && v != d k && sparseWfFrom d (k + 1) rest

/-- The canonical form. -/
def sparseWf {β : Type} [DecidableEq β] (d : Nat → β) (m : List (Nat × β)) : Bool := sparseWfFrom d 0 m

end Sys2Proof.Machine
end

