-- ==== Sys2Proof/Machine/State.lean ====
section
/-! DEFINITION. The state of the block: every register, queue, buffer, counter, mode and pin that the spec gives the
module, as plain data, and the queue of the commands that are waiting. -/
namespace Sys2Proof.Machine

/-! ## What a step can stop with -/

/-- A closed list of machine faults. No command of this block ends in one: every plan fault of Table 05-17 is an effect
on the state (R251), and every refusal of a request is a response with a status code (Table 14-13). -/
inductive Fault where
  /-- Raised by nobody; safe. -/
  | none
deriving DecidableEq, Repr

/-- Why a command has no meaning. -/
inductive Refusal where
  /-- Raised by an arm of `exec` whose command has no meaning yet; safe. -/
  | notModelled (mnemonic : String)
deriving DecidableEq, Repr

/-! ## Lanes and unit queues (R200 to R202) -/

/-- A unit that holds a queue (Table 05-2); a Relay queue belongs to a Heat. -/
inductive UnitId where
  | blade (n : Fin 4)
  | scull (s : Fin 16)
  | engine (e : Fin 16)
  | relay (h : Fin 64)
deriving DecidableEq, Repr

/-- What an instruction in a unit queue asks for, its handles already indexed (R205). -/
inductive QOp where
  | blRun (pd : Nat) (chain : Option Nat) (acc : Nat) (ramp : Bool)
  | chOpen (ledger : Nat)
  | chDrop (slot : Fin 4)
  | chBind (rslot : Fin 64) (tag : Nat)
  | chUnbind (rslot : Fin 64)
  | scull (opcode handle : Nat)
  | launch (opcode handle : Nat)
deriving DecidableEq, Repr

/-- An instruction in a unit queue: the Heat and lane that issued it, its address, its completion semaphore (511: none), the
reference time of a ramp (R571). -/
structure QItem where
  heat : Fin 64
  lane : Fin 4
  pc : Nat
  op : QOp
  csem : Nat
  tref : Nat := 0
deriving DecidableEq, Repr

/-- A unit queue: the instructions that wait, oldest first, and those that have started and not completed. -/
structure UnitQueue where
  waiting : List QItem := []
  started : List QItem := []
deriving DecidableEq, Repr

/-- Why a lane does not issue. -/
inductive LaneStop where
  /-- It issues. -/
  | running
  /-- Frame `next` opens at the next stroke edge (R240). -/
  | unopened (next : Nat)
  /-- At an SY_WAIT or SY_ACQ since `since` ns; `warned`: EV-7030 was raised (R239). -/
  | waiting (sem n : Nat) (consume xwin acquire : Bool) (since : Nat) (warned : Bool)
  /-- At an SY_FENCE. -/
  | fenced (mask since : Nat)
  /-- At an SY_FRAME or CT_STEP that closes the frame (R240, R247). -/
  | closing (join step : Bool)
  /-- At a CT_PMARK while a pre-emption request is pending (R246). -/
  | atPmark
  /-- Its target queue is full (R202). -/
  | stalled (u : UnitId) (q : QItem) (since : Nat)
  /-- Halted, or beyond the lane count. -/
  | halted
deriving DecidableEq, Repr

/-- One lane's sequencer (R200, R242). `lc` holds LC1 to LC15; `leftAt` is the time
at which it last left an SY_WAIT, SY_FRAME or CT_STEP (R571); `waited` is how long the present stop lasted before the saves that
it has met (R239); `pmark` the live-range handle of the last CT_PMARK, `live` its ranges and its fin as they were read where a
request was pending (R208, R246). -/
structure Lane where
  start : Nat := 0
  length : Nat := 0
  blades : Nat := 0
  budget : Nat := 0
  pc : Nat := 0
  lc : List (Nat × Nat) := []
  frame : Nat := 0
  openedAt : Nat := 0
  leftAt : Nat := 0
  stop : LaneStop := .halted
  waited : Nat := 0
  pmark : Option Nat := none
  live : Option (List (Nat × Nat) × Bool) := none
deriving DecidableEq, Repr

/-- A retain slot of a Blade (R217); EMPTY when `held` is false. `region` counts 16 KiB units. -/
structure RetainSlot where
  held : Bool := false
  rows : Nat := 0
  ncol : Nat := 0
  anchors : List Int := []
  region : Nat := 0
deriving DecidableEq, Repr


/-! ## Blades, Catch and Finish (chapters 3 and 4) -/

/-- A receive slot of a Catch buffer (R184 to R188, R223): the Heat and frame tag it is bound to, the blocks that have
landed with their place in the tile, whether a BLADE consumes it, the Sweeps of the frames whose credits it holds, how many
blocks its arrival semaphore has counted. -/
structure RecvSlot where
  bound : Option (Fin 64 × Nat) := none
  landed : List (Nat × List Byte × Byte) := []
  busy : Bool := false
  credits : List Nat := []
  posted : Nat := 0
  releasing : Bool := false
deriving DecidableEq, Repr

/-- An epilogue or prologue stage with its operands read: `vals` holds one row of (element, exponent) per output row, or
a single row for a bias vector; `ledger` is the address of a ledger and `handle` its descriptor handle. -/
structure RStage where
  code : Nat
  sel : Nat
  param : Nat
  vals : List (List (Elem × Int)) := []
  ledger : Nat := 0
  handle : Nat := 0
deriving DecidableEq, Repr

/-- A tile of a BLADE in flight (R127): its attempt (R73), whether it overflowed and waits for a redo, whether it is
final. -/
structure TileSt where
  attempt : Nat := 0
  overflow : Bool := false
  final : Bool := false
deriving DecidableEq, Repr

/-- A stage with the descriptor that its handle names, as read at the check (R208): a tensor, or the address of a ledger. -/
structure StageRef where
  stage : Stage
  tensor : Option Tensor := none
  ledger : Nat := 0
deriving DecidableEq, Repr

/-- A BLADE that has passed its check: its descriptors as read there (R208), those of its stages in `refs`, the anchors of
R108 and the ceilings in force of its operands. -/
structure BladeJob where
  item : QItem
  acc : Nat
  prod : Product
  chain : Option Chain
  refs : List StageRef := []
  hs : Tensor
  hw : Tensor
  out : Tensor
  ceilT : Int
  ceilS : Int
  anchors : List Int
deriving DecidableEq, Repr

/-- A BLADE in flight: its WL48 sums, its stages, its tiles, what it will write into the status word (R153). `stopped` holds the
ledgers at which a contribution of it has faulted (R193). -/
structure BladeRun extends BladeJob where
  sums : List (List Elem)
  stages : List RStage
  tiles : List TileSt
  redone : Bool := false
  wceil : Int := -128
  top : Int := -32768
  marks : Nat := 0
  zeros : Nat := 0
  blocks : Nat := 0
  stopped : List Nat := []
  markSeen : Bool := false
  recv : Option (Fin 64) := none
deriving DecidableEq, Repr

/-- A weight register set (R100): the 8-bit registers of the 512 × 512 cells by 512 × column + row, the 3-bit octet shifts and
the octet exponents by 64 × logical column + octet (R114). What is not listed holds 0; a zero octet has no exponent. -/
structure PanelSet where
  cells : List (Nat × Byte) := []
  shifts : List (Nat × Nat) := []
  exps : List (Nat × Int) := []
deriving DecidableEq, Repr

/-- One Blade with its Catch and Finish (R98 to R100, R217). `active` and `shadow` are the weight register sets; `rampWait` is the instant at which a flagged BLADE will open the soft-catch gate, `gate` the
instant at which it opened; `arrival` is a checked BLADE that waits for its receive slot (R185); `phase` is the operating
hint in force and `phaseNext` the one that the next edge brings (R245). -/
structure Blade where
  queue : UnitQueue := {}
  runs : List BladeRun := []
  slots : Vector RetainSlot 4 := .replicate 4 {}
  recv : Vector RecvSlot 64 := .replicate 64 {}
  active : PanelSet := {}
  shadow : PanelSet := {}
  gate : Option Nat := none
  rampWait : Option Nat := none
  phase : Nat := 0
  phaseNext : Option Nat := none
  arrival : Option BladeJob := none
  idleSince : Nat := 0
  seatTest : Bool := false
  scrubbing : Bool := false
deriving DecidableEq, Repr

/-! ## Memory (chapter 7) -/

/-- The states of a region (0x41rr.0A). -/
inductive RegionState where
  | off | filling | active | invalid
deriving DecidableEq, Repr

/-- The encoding of 0x41rr.0A. -/
def RegionState.code : RegionState → Nat
  | .off => 0 | .filling => 1 | .active => 2 | .invalid => 3

/-- A region as it is in force: its state, its channel list (R295), the geometry fixed when it entered FILLING, and the
epoch byte of its pages: `fillEpoch`, but for the pages listed (R527). -/
structure Region where
  state : RegionState := .off
  base : Nat := 0
  size : Nat := 0
  chbase : Nat := 0
  pack : Bool := false
  fmt : Nat := 0
  owner : Nat := 0
  salt : Nat := 0
  cacheable : Bool := false
  list : List Nat := []
  fillEpoch : Nat := 0
  pageEpoch : List (Nat × Nat) := []
  domain : Nat := 0
  loggedOut : Bool := false
deriving DecidableEq, Repr

/-- A unit that waits for the rest of its bytes (R290): the offsets that have come, the address of the first of them, the Crew, since
when it waits. -/
structure PartialUnit where
  unit : Nat
  offs : List Nat
  addr : Nat
  crew : Nat
  since : Nat
deriving DecidableEq, Repr

/-- One HBM channel (R287, R290, R327 to R334). `buffer` holds the 16 units read most recently; `partials`
the units that wait for the rest of their bytes. -/
structure Channel where
  present : Bool := true
  healthy : Bool := false
  failed : Bool := false
  mappedOut : Bool := false
  lastRetrain : Nat := 0
  retraining : Option Nat := none
  marginFails : Nat := 0
  integrity : Nat := 0
  buffer : List Nat := []
  partials : List PartialUnit := []
  newTable : Bool := false
deriving DecidableEq, Repr

/-- The operation of a stack by temperature (R331). -/
structure Stack where
  ready : Bool := false
  halfRefresh : Bool := false
  throttled : Bool := false
  tripped : Bool := false
  refreshed : List (Nat × Nat) := []
deriving DecidableEq, Repr

/-- A line of the cache ways (R305): its line address, its key domain, its Crew, its way, its order of use, whether it was
prefetched and not yet used. -/
structure CacheLine where
  line : Nat
  domain : Nat
  crew : Nat
  way : Nat
  used : Nat
  prefetched : Bool := false
deriving DecidableEq, Repr

/-- A stream tracker (R308). -/
structure Tracker where
  line : Nat
  crew : Nat
  up : Option Bool := none
  used : Nat
deriving DecidableEq, Repr

/-- An entry of a pin table (R309); `out` are the lines of its range that it does not pin (R310). -/
structure PinEntry where
  line : Nat
  lines : Nat
  domain : Nat
  crew : Nat
  shared : Bool
  claims : List Nat
  resident : Bool := false
  out : List Nat := []
deriving DecidableEq, Repr

/-- A row of a move (R316): its source and its destination by kind, Blade and place (Table 07-7), its length, the engine that moves
it, whether the lines that it reads are allocated (R306). -/
structure MoveRow where
  skind : Nat
  sblade : Nat
  src : Nat
  dkind : Nat
  dblade : Nat
  dst : Nat
  len : Nat
  engine : Nat
  alloc : Bool := false
deriving DecidableEq, Repr

/-- A move in flight (R317): its span, its place in the order in which moves started, the rows that have not landed whole, the bytes
of the first of them that have landed; whether it is a layer of a window (R321). -/
structure MoveRun where
  item : QItem
  span : Nat
  order : Nat
  rows : List MoveRow
  off : Nat := 0
  layer : Bool := false
deriving DecidableEq, Repr

/-- A window stream of an engine (R319 to R322): its layer table as read, its position; `fetching` is the move that fetches a
layer. -/
structure WindowRun where
  item : QItem
  desc : WindowDesc
  layers : List ((Nat × Nat) × (Nat × Nat))
  slots : Nat
  next : Nat := 0
  landed : Nat := 0
  fetching : Option Nat := none
deriving DecidableEq, Repr

/-- One Launch engine: the moves that it has started and that are in flight, the window that it streams, how many moves use it and
since when some move does (0x45ee.06). -/
structure Engine where
  queue : UnitQueue := {}
  moves : List MoveRun := []
  window : Option WindowRun := none
  flights : Nat := 0
  busySince : Nat := 0
deriving DecidableEq, Repr

/-- What each die holds for itself: cache lines, trackers, pin table and pack-table cache of its Tank (R302 to R309),
the clock stretch of R568, the health of its TRNG (R505). -/
structure Die where
  lines : List CacheLine := []
  trackers : List Tracker := []
  pins : List PinEntry := []
  packLines : List Nat := []
  useClock : Nat := 0
  stretch : Option Nat := none
  trngBad : Bool := false
deriving DecidableEq, Repr

/-! ## Time, Logbook and Erg (chapter 10) -/

/-- A Logbook entry without its sequence number (Table 10-6): `payload` holds the record fields in the order named. -/
structure Event where
  ts : Nat
  code : Nat
  unit : Nat := 0
  index : Nat := 0
  crew : Nat := 0xFF
  heat : Nat := 0xFF
  payload : List Int := []
deriving DecidableEq, Repr

/-- The waiting entries of one die (R467): oldest first, the number lost and the time of the first loss. -/
structure LogQueue where
  waiting : List Event := []
  lost : Nat := 0
  firstLost : Nat := 0
  lastInsert : Option Nat := none
deriving DecidableEq, Repr

/-- The Logbook (R465 to R470): the entries held with their sequence numbers, oldest first; the mirror's queue and the
time of its first entry. -/
structure Logbook where
  queues : Vector LogQueue 2 := .replicate 2 {}
  next : Nat := 0
  held : List (Nat × Event) := []
  mirror : List (Nat × Event) := []
  mirrorSince : Nat := 0
deriving DecidableEq, Repr

/-- The live values of an Erg monitor (R472) and its last closed window (R473). -/
structure Erg where
  min : Int := 2 ^ 63 - 1
  max : Int := -(2 ^ 63)
  count : Nat := 0
  sum : Int := 0
  bins : List (Nat × Nat) := []
  strokes : Nat := 0
  lastMin : Int := 0
  lastMax : Int := 0
  lastCount : Nat := 0
  lastSum : Int := 0
  lastBins : List (Nat × Nat) := []
  lastClose : Nat := 0
deriving DecidableEq, Repr

/-- The states of module time (Table 10-3). -/
inductive TimeState where
  | free | acquiring | locked | holdover
deriving DecidableEq, Repr

/-- The encoding of 0x2010.07. -/
def TimeState.code : TimeState → Nat
  | .free => 0 | .acquiring => 1 | .locked => 2 | .holdover => 3

/-- Module time (R440): nanoseconds and a 32-bit binary fraction; the stroke whose edge was last taken and when
the present grid came into force (R442); the servo with its
frequency adjustment and estimate in units of 0.001 ppm (R447), its last offset, the samples in a row within the limit and the
time of the last (R448); the seconds value that the next 1PPS_IN edge takes (0x2000.07); the data set of the PTP master and the
time of its last Announce (R446), whether the parent Sweep's TICKs stand in for Sync (R449); the strokes in a row that each Sweep's TICK was within its limit (R452); when 1PPS_OUT last rose. -/
structure Clock where
  now : Nat := 0
  frac : Nat := 0
  stroke : Int := 0
  gridFrom : Option Nat := none
  slotOpen : Bool := false
  state : TimeState := .free
  adjust : Int := 0
  estimate : Int := 0
  offset : Int := 0
  good : Nat := 0
  lastSample : Nat := 0
  pinBase : Option Nat := none
  master : List Nat := []
  masterAt : Nat := 0
  parentTicks : Bool := false
  withinLimit : List (Nat × Nat) := []
  ppsHigh : Option Nat := none
deriving DecidableEq, Repr

/-! ## What the module sends -/

/-- What the module sends, drives or writes outside itself. -/
inductive OutKind where
  | response | notice | pending | mirror | arp | icmp | dhcp | ptpDelayReq
  | hostWrite | hostDone
  | word | frame | signal
  | pin | regulator | hbmCommand | delivered
deriving DecidableEq, Repr

/-- One output: its kind, the unit or port it leaves by, its fields in the order that its rule names, and bytes. -/
structure Output where
  kind : OutKind
  unit : Nat := 0
  fields : List Int := []
  bytes : List Byte := []
deriving DecidableEq, Repr

/-! ## Crews (chapter 11) -/

/-- The states of a Crew that telemetry bytes 12 to 15 tell apart (Table 09-13): `normal` reads 0 IDLE or 1 RUNNING by
whether a Heat of the Crew is RUNNING or PREEMPTED. -/
inductive CrewState where
  | normal | stopped | scrub | recovery
deriving DecidableEq, Repr

/-- A queued admission request (R497, R499): rid, prompt length, generated tokens, prompt address, host tag, time of
entry in ns. -/
structure AdmitReq where
  rid : Nat
  plen : Nat
  maxnew : Nat
  prompt : Nat
  tag : Nat
  at_ : Nat
  heat : Fin 64
deriving DecidableEq, Repr

/-- A Crew (R477): its shared semaphores with their holders (context + 1) and parked flags, its admission queue (R499), the job epoch whose first STOP was sent or
received (R436); the commit stroke edge of its scrub, and what that scrub holds: kinds and masks of R604 (R544); since when its
Relay waits for a peer (0x62cc.09). -/
structure Crew where
  state : CrewState := .normal
  sems : List (Nat × Nat) := []
  holders : List (Nat × Nat) := []
  parked : List (Nat × Nat) := []
  admission : List AdmitReq := []
  refusedStroke : Option Int := none
  stopSeen : Option Nat := none
  scrubFrom : Nat := 0
  scrubUnits : List (Nat × Nat) := []
  peerSince : Option Nat := none
deriving DecidableEq, Repr

/-! ## Sculls (R225 to R232) -/

/-- A carry-flag word (Table 08-4). -/
structure CarryFlags where
  aexp : Int
  spill : Bool := false
  mark : Bool := false
  fmv : Bool := false
  top : Int := -32768
  fmod : Nat := 0
  fts : Nat := 0
deriving DecidableEq, Repr

/-- What an SC_OPT in flight updates (R277): the parameter plane, the region (first row, rows, first column, columns), its
moments and its narrow copy. -/
structure OptRegion where
  plane : Nat
  row0 : Nat
  rows : Nat
  col0 : Nat
  ncol : Nat
  copies : List Tensor
deriving DecidableEq, Repr

/-- A run of bytes that an instruction reads or writes. -/
structure Span where
  at_ : Nat
  len : Nat
  write : Bool := false
deriving DecidableEq, Repr

/-- The instruction that a Scull has started: its vectors, its cost in Scull cycles, the marks that SC_MARK counted, what SC_OPT
updates, the carry-flag word that takes `flags` when the instruction completes (R354, R355), the bytes that it reads and writes. -/
structure ScullRun where
  item : QItem
  vectors : Nat
  cost : Nat
  marks : Nat := 0
  opt : Option OptRegion := none
  flags : Option (Nat × CarryFlags) := none
  spans : List Span := []
deriving DecidableEq, Repr


/-! ## Heats (R480 to R493) -/

/-- The states of a Heat (0x72hh.01). -/
inductive HeatStatus where
  | idle | running | preempted | faulted | done
deriving DecidableEq, Repr

/-- The encoding of 0x72hh.01. -/
def HeatStatus.code : HeatStatus → Nat
  | .idle => 0 | .running => 1 | .preempted => 2 | .faulted => 3 | .done => 4

/-- A pre-emption request (R482): when it was raised; when its last lane stopped (R484); the save that serves it, once that has begun: when the lanes had
stopped, and whether it is a full save (R484). -/
structure Preempt where
  at_ : Nat
  stopped : Option Nat := none
  save : Option (Nat × Bool) := none
deriving DecidableEq, Repr

/-- The arguments of the rings and pools of services (Tables 10-5 and 11-5). -/
structure IngestArg where
  ring : Nat
  k : Nat
  esize : Nat
  dst : Nat
  n : Nat
deriving DecidableEq, Repr

@[inherit_doc IngestArg] structure AdmitArg where
  rq : Nat
  cq : Nat
  krq : Nat
  kcq : Nat
  pool : Nat
  ptok : Nat
  npages : Nat
  psize : Nat
  stab : Nat
  ctxmax : Nat
deriving DecidableEq, Repr

/-- A service asked for by CT_SVC that has not yet acted (R249); a CHECKPOINT waits for the instructions `before` it.
`order` numbers the services in the order in which they issued (R462). -/
inductive ServiceOp where
  | ingest (a : IngestArg)
  | admission (a : AdmitArg)
  | checkpoint (before : List QItem)
deriving DecidableEq, Repr

@[inherit_doc ServiceOp] structure Service where
  op : ServiceOp
  lane : Fin 4
  pc : Nat
  csem : Nat
  order : Nat
deriving DecidableEq, Repr

/-- A receive-slot binding that a save keeps with what the slot holds (R491). -/
structure SavedRecv where
  blade : Fin 4
  rslot : Fin 64
  slot : RecvSlot
deriving DecidableEq, Repr

/-- What a save holds (R246, R485, R486, R489): bytes of the Crew's Tank scratch, Catch and Finish buffers; receive slots; the
Blades, Sculls and engines of the Crew as they stopped, with their queues; the Heat's Relay queue. The lanes, semaphores
and service positions stay in the Heat's own record. -/
structure Save where
  full : Bool := false
  sizeKiB : Nat := 0
  cells : List Host.Cell := []
  recv : List SavedRecv := []
  blades : List (Fin 4 × Blade) := []
  sculls : List (Fin 16 × UnitQueue × Option ScullRun) := []
  engines : List (Fin 16 × Engine) := []
  relay : UnitQueue := {}
  completedAt : Nat := 0
deriving DecidableEq, Repr

/-- The loss-spike monitor of a Heat (R283, R284). -/
structure LossMonitor where
  acc : Int := 0
  accExp : Int := 0
  mark : Bool := false
  fed : Bool := false
  mean : Int := 0
  meanExp : Int := 0
  steps : Nat := 0
  last : Int := 0
  lastMark : Bool := false
deriving DecidableEq, Repr

/-- A Heat context (R196, R480). `restoring` is the start of a restore, `restored` that it has completed and the Heat resumes at
the next edge (R490); `starved` the starved strokes of the present episode (R463); `pages` the page lists of the running
sequences by slot (R498, R500); `consensus` the word that Relay recorded last (R368); `joinedFrame` the last frame of which every
lane has reached a joining SY_FRAME or CT_STEP (R240). -/
structure Heat where
  status : HeatStatus := .idle
  header : PlanHeader := { dcount := 0, dtab := 0, kplane := 0, chist := 0, lanes := [] }
  lanes : Vector Lane 4 := .replicate 4 {}
  sems : List (Nat × Nat) := []
  faultCode : Nat := 0
  faultLane : Nat := 0
  faultPc : Nat := 0
  faultTs : Nat := 0
  held : Bool := false
  request : Option Preempt := none
  save : Option Save := none
  saveValid : Bool := false
  restoring : Option Nat := none
  restored : Bool := false
  strokesRun : Nat := 0
  services : List Service := []
  starved : Nat := 0
  admission : Option AdmitArg := none
  pages : List (Nat × List Nat) := []
  skip : Bool := false
  stepMark : Bool := false
  consensus : List Byte := []
  loss : LossMonitor := {}
  joinedFrame : Option Nat := none
deriving DecidableEq, Repr

/-! ## Links (chapters 9 and 12) -/

/-- The states of an Oarlock (Table 09-9). -/
inductive OarState where
  | down | detect | equalise | align | identify | hold | keying | readyWait | admitted
deriving DecidableEq, Repr

/-- The encoding of 0x51oo.01. -/
def OarState.code : OarState → Nat
  | .down => 0 | .detect => 1 | .equalise => 2 | .align => 3 | .identify => 4 | .hold => 5 | .keying => 6
  | .readyWait => 7 | .admitted => 8

/-- The payload of an identity frame (Table 09-10). -/
structure Identity where
  flags : Nat
  oar : Nat
  sweep : Nat
  role : Nat
  module : Nat
  proto : Nat
  oldProto : Nat
  schema : Nat
  oldSchema : Nat
  stamp : Nat
  echo : Nat
  digest : List Byte
deriving DecidableEq, Repr

/-- An authenticated frame in a replay buffer (R406): its counter, its FRAME_START word, its extension header, its
payload, the bytes that it was sent as, how often it has been resent, when it was last sent. -/
structure SentFrame where
  seq : Nat
  hdr : Nat
  ext : Nat
  payload : List Byte
  wire : List Byte
  resent : Nat := 0
  sentAt : Nat
deriving DecidableEq, Repr

/-- A frame that waits for a credit or for replay space at a Sweep: what the counter and the acknowledgement do not
determine (Table 09-4). A forwarded frame holds its buffer of the Sweep `held` that it came by until it leaves (R410). -/
structure WaitFrame where
  ftype : Nat
  vc : Nat
  crew : Nat
  hops : Nat
  origin : Nat
  dest : Nat
  ts : Nat
  ext : Nat
  payload : List Byte
  held : Option (Fin 12) := none
deriving DecidableEq, Repr

/-- An exchange of link keys (R537 to R540): the bodies sent and received, the parts of the peer's PROOF, the switch
counters of an in-place re-key. -/
structure KeyExchange where
  encaps : List Byte := []
  cipher : List Byte := []
  peerEncaps : Option (List Byte) := none
  peerCipher : Option (List Byte) := none
  proof : List (Nat × List Byte) := []
  starter : Bool := false
  sentSwitch : Option Nat := none
  peerSwitch : Option Nat := none
deriving DecidableEq, Repr

/-- The keys of one Crew on an Oarlock (R538, R542, R543): the generation, both random fields that entered it (none
before the first update), the switch counters, an update of this end that waits for CREW_ACK. -/
structure CrewKey where
  gen : Nat := 0
  random : List Byte := []
  sendSwitch : Nat := 0
  recvSwitch : Nat := 0
  unkeyed : Bool := false
  proposed : Option (Nat × List Byte × Nat) := none
deriving DecidableEq, Repr

/-- One Oarlock. `since` is the entry into its state; `fails` the f of R418; `engine` the equalisation engine it
holds; `own` and `peerId` the identity frames of both ends as they enter the transcript (R537); `txNext` and `rxNext` the frame counters; `sealed` and `opened` the frames under the link secret; `gap` the last
nak while a gap is open; `badTag` the counter of the last tag failure; `idle` the status and the Crew mask of the IDLE words that fill
its wire (R392). -/
structure Oarlock where
  state : OarState := .down
  since : Nat := 0
  fails : Nat := 0
  signal : Bool := false
  engine : Option Nat := none
  trained : Bool := false
  peer : Option Identity := none
  peerId : List Byte := []
  own : Option (List Byte) := none
  proofOk : Bool := false
  readySeen : Bool := false
  key : Option KeyExchange := none
  secret : List Byte := []
  oldSecret : List Byte := []
  crewKeys : Vector CrewKey 4 := .replicate 4 {}
  txNext : Nat := 0
  rxNext : Nat := 0
  sealed : Nat := 0
  opened : Nat := 0
  replay : List SentFrame := []
  gap : Option Nat := none
  badTag : Option Nat := none
  sinceAck : Nat := 0
  lastAck : Nat := 0
  lastTs : Nat := 0
  lastValid : Nat := 0
  lastSent : Nat := 0
  tick : Option (Nat × Nat) := none
  peerStatus : Nat := 0
  peerScrub : Nat := 0
  idle : Option (Nat × Nat) := none
deriving DecidableEq, Repr

/-- One direction pair of a Sweep (R409): cumulative credits by 4 × Crew + virtual channel, granted by the peer and spent,
granted to the peer, used by its frames and freed here; the frames that wait, and since when one waits for credit (0x52ss.0A); the
telemetry of R437. -/
structure Sweep where
  peerGrant : List (Nat × Nat) := []
  spent : List (Nat × Nat) := []
  granted : List (Nat × Nat) := []
  used : List (Nat × Nat) := []
  freed : List (Nat × Nat) := []
  egress : List WaitFrame := []
  creditSince : Option Nat := none
  telemAt : Option Nat := none
  telemMissing : Bool := false
  state : Nat := 0
deriving DecidableEq, Repr

/-- A peer record (R402): origin, Crew, the stroke of its last frame. -/
structure PeerRecord where
  origin : Nat
  crew : Nat
  stroke : Int
deriving DecidableEq, Repr

/-- What a telemetry period collects for Table 09-13. -/
structure TelemPeriod where
  maxTj : Int := -32768
  slack : Int := 2 ^ 31 - 1
  overruns : Nat := 0
  corrected : Nat := 0
  replayed : Nat := 0
  bad : Nat := 0
  last : Option Int := none
deriving DecidableEq, Repr

/-! ## Relay (chapter 8) -/

/-- A Relay descriptor (Table 08-1). -/
structure RelayDesc where
  op : Nat
  tag : Nat
  axes : Nat
  rdst : Bool
  rblade : Nat
  rslot : Nat
  aexp0 : Int
  hs : Nat
  hd : Nat
  hw : Nat
  hp : Nat
  split : Bool
  b0 : Nat
  nb : Nat
deriving DecidableEq, Repr

/-- How a stage runs: a ring of an axis that is not split, the line inside a Boat or the ring across Boats of a split axis
(R339, R376). -/
inductive StageKind where
  | ring | inner | outer
deriving DecidableEq, Repr

/-- A stage: axis, kind, extent n, position p. -/
structure RelayStage where
  axis : Nat
  kind : StageKind
  n : Nat
  p : Nat
deriving DecidableEq, Repr

/-- What a collective is doing. -/
inductive RelayPhase where
  | reduce | lap | decide | gather | permute | finished
deriving DecidableEq, Repr

/-- The consensus word as it travels (Table 08-5). -/
structure ConsensusWord where
  tag : Nat := 0
  attempt : Nat := 0
  spill : Bool := false
  bmark : Bool := false
  fmv : Bool := false
  mark : Bool := false
  aexp : Int := 0
  naexp : Int := 0
  top : Int := -32768
  fmod : Nat := 0
  fts : Nat := 0
  step : Nat := 0
deriving DecidableEq, Repr

/-- A segment or a word that waits in a Relay pool (R348): its ring header and payload, the Sweep and the origin. -/
structure HeldSegment where
  hdr : Nat
  payload : List Byte
  sweep : Nat
  origin : Nat
deriving DecidableEq, Repr

/-- A started collective (R343, R357 to R374). `word` is its own consensus word, that of the lap under way after each
combination; `got` the segments and words of the present stage that have been acted on, by direction, hop and seq; `left`
the parts of an inner stage's result that wait for their partner; `inter` what a stage leaves for the next where the
descriptor names no work tensor; `src`, `dst` and `work` its tensors as its check read them (R208). -/
structure Collective where
  item : QItem
  d : RelayDesc
  src : Tensor
  dst : Tensor
  work : Tensor
  step : Nat
  seed : Nat
  stages : List RelayStage
  size : Nat
  shard : Nat
  perm : List Nat := []
  attempt : Nat := 0
  aexp : Int := 0
  first : Int := 0
  phase : RelayPhase
  stage : Nat := 0
  word : ConsensusWord := {}
  lapWord : ConsensusWord := {}
  marked : Bool := false
  got : List (Bool × Nat × Nat) := []
  left : List (Nat × List Elem) := []
  inter : List Elem := []
  marks : Nat := 0
deriving DecidableEq, Repr

/-! ## Slipway (chapter 15) -/

/-- The states of a slot (0xD2cc.0A). -/
inductive SlotState where
  | empty | writing | local_ | sealed | receiving | complete
deriving DecidableEq, Repr

/-- The encoding of a slot's state. -/
def SlotState.code : SlotState → Nat
  | .empty => 0 | .writing => 1 | .local_ => 2 | .sealed => 3 | .receiving => 4 | .complete => 5

/-- A Slipway slot (0xD2cc.0A): `blocks` are the 4,096-byte blocks that have landed; `early` those that landed before the
header block of their generation; `asked` the payload of a SEAL_REQ that waits for the last block. -/
structure Slot where
  state : SlotState := .empty
  step : Nat := 0
  origin : Nat := 0
  stamp : Nat := 0
  size : Nat := 0
  blocks : List Nat := []
  early : List Nat := []
  asked : Option (List Byte) := none
deriving DecidableEq, Repr

/-- A transfer of a slot to another module (R633, R637): slots 0 to 2 are local, 3 to 5 ward slots; `sealAsked` once
SEAL_REQ has been sent. -/
structure Transfer where
  slot : Fin 6
  dest : Nat
  restore : Bool
  sealAsked : Bool := false
deriving DecidableEq, Repr

/-- A recovery command that runs (Table 15-6): the module that RECEIVE takes from; whether RESTORE copies. -/
inductive RestoreOp where
  | restore (slot : Fin 3)
  | sendWard
  | receive (from_ : Nat)
deriving DecidableEq, Repr

/-- The Slipway of a Crew. `restore` is the encoding of 0xD2cc.0C. -/
structure Slipway where
  slots : Vector Slot 6 := .replicate 6 {}
  transfers : List Transfer := []
  op : Option RestoreOp := none
  restore : Nat := 0
  discarding : Bool := false
  waited : Bool := false
deriving DecidableEq, Repr

/-! ## Marshal (R427 to R429) -/

/-- One instance of Marshal (R427): the requesters that have won, the latest winner last; for each requester that has lost since its
last win, how often and the cycle until which it backs off; the cycle of the next decision. -/
structure MarshalPort where
  key : Nat
  won : List Nat := []
  losses : List (Nat × Nat × Nat) := []
  free : Nat := 0
deriving DecidableEq, Repr

/-! ## Trust (chapter 12) -/

/-- The signing engine (R521, R522): the attestation counter in the flash (blocks of 1,024 leaf indices reserved so far),
the indices of the present block that are used, whether this power-up has reserved a block, whether the present and the
next lower-level tree are built, whether EV-8012 was raised. -/
structure Signer where
  blocks : Nat := 0
  used : Nat := 1024
  tree : Option Nat := none
  nextBuilt : Bool := false
  warned : Bool := false
deriving DecidableEq, Repr

/-- The trust state of a Crew (R529, R533 to R536): the memory roots of the current and of the previous epoch, its receipt key and
its generation, the weight keys by slot, an UNSEAL that runs: its request, the next segment. -/
structure CrewTrust where
  root : Option (List Byte) := none
  oldRoot : Option (List Byte) := none
  receipt : Option (List Byte) := none
  generation : Nat := 0
  weights : List (Nat × List Byte) := []
  unsealing : Option (Nat × Nat) := none
deriving DecidableEq, Repr

/-- The keys of the module (Table 12-1): the device secret, until the boot ROM erases it (R507); the flash key and the attestation
seed derived from it; the module memory root. -/
structure KeyStore where
  deviceSecret : Option (List Byte) := none
  flash : Option (List Byte) := none
  attest : Option (List Byte) := none
  moduleRoot : Option (List Byte) := none
deriving DecidableEq, Repr

/-- The states of a flash slot (0x80ii.06). -/
inductive FlashState where
  | empty | valid | invalid | rolledBack
deriving DecidableEq, Repr

/-- The encoding of 0x80ii.06. -/
def FlashState.code : FlashState → Nat
  | .empty => 0 | .valid => 1 | .invalid => 2 | .rolledBack => 3

/-- A flash slot (R508, R509): its state and the bytes of the image written, header first. -/
structure FlashSlot where
  state : FlashState := .empty
  image : List Byte := []
deriving DecidableEq, Repr

/-- The states of a part (Table 14-11). -/
inductive PartState where
  | idle | staging | armed | active
deriving DecidableEq, Repr

/-- The encoding of 0xC3ii.01. -/
def PartState.code : PartState → Nat
  | .idle => 0 | .staging => 1 | .armed => 2 | .active => 3

/-- A flash component (Table 12-2) and the part that updates it (R608): slot selection, rollback counter, and
for OWNER the owner sequence counter; owner session and units still to change. `preferred` is the slot-select record, `running` the slot that this power-up booted. -/
structure Part where
  slots : Vector FlashSlot 2 := .replicate 2 {}
  preferred : Fin 2 := 0
  running : Option (Fin 2) := none
  rollback : Nat := 0
  seq : Nat := 0
  state : PartState := .idle
  owner : Nat := 0
  left : Nat := 0
  changed : Nat := 0
deriving DecidableEq, Repr

/-- The boot states (0x8000.02). -/
inductive BootState where
  | rom | stage1 | running | recovery | failed
deriving DecidableEq, Repr

/-- The encoding of 0x8000.02. -/
def BootState.code : BootState → Nat
  | .rom => 0 | .stage1 => 1 | .running => 2 | .recovery => 3 | .failed => 4

/-- What a requester has negotiated on an SPDM transport (R523): its version, then its capabilities, then its algorithms. -/
inductive SpdmState where
  | fresh | version
  | capabilities (version : Nat)
  | negotiated (version : Nat)
deriving DecidableEq, Repr

/-! ## Pacer and seat test (chapter 13) -/

/-- A rail as read (R566, R567): voltage, power, power at the last 1 ms average, failed reads in a row, since when reads
have succeeded, whether it is counted as failed. -/
structure Rail where
  mv : Nat := 0
  mw : Nat := 0
  before : Nat := 0
  fails : Nat := 0
  goodSince : Option Nat := none
  down : Bool := false
deriving DecidableEq, Repr

/-- The clock of a Blade (R551 to R563): a frequency whose rail is being raised, whether it rises by 25 MHz an edge, the
frequency at the last edge at which both powers agreed, its own thermal step-down and the time of the last step. -/
structure BladeClock where
  rising : Option Nat := none
  slow : Bool := false
  agreed : Nat := 0
  thermal : Bool := false
  stepAt : Nat := 0
deriving DecidableEq, Repr

/-- The Pacer (R558 to R572), powers in mW: the values of P since the last power-cap step with the sums of both powers; the
sums of the stroke and of the 1 ms average; averages in a row that disagreed and that agreed; the averages since HOLD began;
since when the package stays above the cap at the lowest clock; energy below 1 mJ; junction sensors by 32 × die + sensor; the body of the CAL image that booted, which holds the rated ceilings, the
voltage curves and the expected signatures until the next power-up (R550, R551, R577, R610). -/
structure Pacer where
  cal : List Byte := []
  blades : Vector BladeClock 4 := .replicate 4 {}
  rails : Vector Rail 10 := .replicate 10 {}
  sensors : List (Nat × Int) := []
  window : List Nat := []
  stepMeas : Nat := 0
  stepEst : Nat := 0
  strokeSum : Nat := 0
  strokeCount : Nat := 0
  msMeas : Nat := 0
  msEst : Nat := 0
  msCount : Nat := 0
  apart : Nat := 0
  agree : Nat := 0
  capped : Bool := false
  hold : Bool := false
  holdMs : Nat := 0
  floorSince : Option Nat := none
  restMeas : Nat := 0
  restEst : Nat := 0
  dieThermal : Vector Bool 2 := .replicate 2 false
  hot : Bool := false
deriving DecidableEq, Repr

/-- A unit under seat test (R573 to R579), numbered as in the grant word: its next slice, the slice under way (true: a
droop stretch has discarded it), the SUSPECT mark, the end of its last campaign, since when an instruction waits for it,
whether a RETURN ends its rotation. -/
structure SeatUnit where
  next : Nat := 0
  run : Option Bool := none
  suspect : Bool := false
  doneAt : Nat := 0
  waitSince : Option Nat := none
  returning : Bool := false
deriving DecidableEq, Repr

/-! ## Xefin (chapter 14) -/

/-- An open session, or the mailbox (R589 to R594): its id, its key (R591; none for the mailbox), the last source, the highest seq processed, the last 16 responses
(seq and frames), the time of the last valid request. -/
structure Session where
  id : Nat
  key : List Byte := []
  port : Port
  high : Nat := 0
  kept : List (Nat × List Output) := []
  lastAt : Nat := 0
deriving DecidableEq, Repr

/-- A value of a dictionary item: a number, or the bytes of a STR32 or a BLOB. -/
inductive ItemValue where
  | num (n : Nat)
  | bytes (bs : List Byte)
deriving DecidableEq, Repr

/-- A staged item (R598). -/
structure Item where
  index : Nat
  sub : Nat
  value : ItemValue
deriving DecidableEq, Repr

/-- A pending commit (R601), with the source of its COMMIT. -/
structure Commit where
  id : Nat
  stroke : Nat
  items : List Item
  session : Nat
  port : Port
deriving DecidableEq, Repr

/-- A request whose fragments are being assembled (R588): the frames by index. -/
structure Assembly where
  port : Port
  session : Nat
  seq : Nat
  opcode : Nat
  nfrag : Nat
  parts : List (Nat × List Byte)
  since : Nat
deriving DecidableEq, Repr

/-- The module as a DHCPv4 client (R586, RFC 2131): `requesting` and `bound` with the address. -/
inductive DhcpState where
  | init | selecting | requesting (address : Nat) | bound (address : Nat)
deriving DecidableEq, Repr

/-- Xefin: its phase (R606), open sessions, the last session id, the mailbox, the staging area with its owner, the pending
commits, the assemblies, the last time that EV-C022 was raised for an address. -/
structure Xefin where
  phase : Nat := 0
  sessions : List Session := []
  lastSession : Nat := 0
  mailbox : Session := { id := 0xFFFFFFFF, port := .mailbox }
  staged : List Item := []
  stager : Nat := 0
  commits : List Commit := []
  assemblies : List Assembly := []
  authWarned : List (Nat × Nat) := []
  spdmMgmt : SpdmState := .fresh
  spdmDoe : SpdmState := .fresh
  dhcp : DhcpState := .init
deriving DecidableEq, Repr

/-! ## Power-up (chapter 15) -/

/-- The inputs and the progress of power-up (R617 to R626): the levels of the reset pins, when PERST_N rose, the trip and its
record in the flash, whether a RESET waits, the mailbox, the ends of HBM training and of boot; the part of the flash that R514
finds missing; the instruction of the test access port (R661). -/
structure Power where
  pwrOkLow : Bool := false
  sysRstLow : Bool := false
  perstLow : Bool := false
  perstRose : Nat := 0
  tripped : Bool := false
  tripRecord : Bool := false
  resetAt : Option Nat := none
  mailboxOpen : Bool := false
  hbmTrained : Bool := false
  incomplete : Bool := false
  bootSlots : Bool := false
  tap : JtagInstr := .bypass
  scanCells : BitVec 430 := 0
deriving DecidableEq, Repr

/-! ## The whole state -/

/-- The state of the module. `dict` holds the dictionary entries whose value differs from the reset value, `blobs` the
BLOB entries that have been written, `mem` every memory: HBM by channel and device byte, Tank, Catch and Finish (see
`hbmKey` and its neighbours); `unsent` the Relay segments that wait for the window of their direction, with their Sweep (R348); `flashWrites` is the write counter of the flash (R506). `draws` counts the free values used: the model's own field. -/
structure State where
  pending : List Instr
  dict : List (Nat × Nat)
  blobs : List (Nat × List Byte)
  mem : List Host.Cell
  draws : Nat
  out : List Output
  bladeMap : Nat
  clock : Clock
  log : Logbook
  ergs : Vector Erg 64
  capture : List (Nat × Erg)
  heats : Vector Heat 64
  crews : Vector Crew 4
  blades : Vector Blade 4
  sculls : Vector UnitQueue 16
  engines : Vector Engine 16
  relayQueues : Vector UnitQueue 64
  marshal : List MarshalPort
  regions : Vector Region 64
  channels : Vector Channel 384
  hbmStacks : Vector Stack 12
  dies : Vector Die 2
  retrainNext : Nat
  scullRuns : Vector (Option ScullRun) 16
  oarlocks : Vector Oarlock 24
  sweeps : Vector Sweep 12
  telem : TelemPeriod
  peers : List PeerRecord
  peersFull : Bool
  heldFrames : List (Nat × RxFrame)
  linkTraining : Bool
  tags : List (Nat × Nat)
  collectives : List Collective
  pools : Vector (List HeldSegment) 4
  unsent : List (Fin 12 × WaitFrame)
  slipways : Vector Slipway 4
  signer : Signer
  keys : KeyStore
  flashWrites : Nat
  retrainLeft : Nat
  rings : List (Nat × Nat)
  serviceCount : Nat
  moveCount : Nat
  trust : Vector CrewTrust 4
  parts : Vector Part 9
  boot : BootState
  pacer : Pacer
  seat : Vector SeatUnit 36
  sigDump : List (Nat × Nat × Nat)
  xefin : Xefin
  power : Power
deriving DecidableEq, Repr

/-- A signature with one level, LMS_SHA256_M32_H5 and LMOTS_SHA256_N32_W8 (RFC 8554), that holds nothing else. -/
def factorySignature : List Byte :=
  beBytes 4 0 ++ beBytes 4 0 ++ beBytes 4 4 ++ List.replicate (32 + 34 * 32) 0 ++ beBytes 4 5 ++ List.replicate 160 0

/-- A factory image of a component (Table 12-3): magic, component, header version, signer 0, a signature, and nothing else. -/
def factoryImage (comp : Nat) : List Byte :=
  leBytes 128 (0x554C494D + comp * 2 ^ 32 + 2 ^ 40 + factorySignature.length * 2 ^ 448) ++ factorySignature

/-- The flash as it leaves the factory: every component but OWNER stands in slot A. -/
def factoryPart (comp : Nat) : Part :=
  if comp = 0 ∨ comp = 7 then {} else { slots := .ofFn fun i => if i = 0 then { state := .valid, image := factoryImage comp } else {} }

/-- The module right after reset (R617): every register at the value that its entry table gives, memory with nothing
listed, no command waiting. -/
def State.reset : State where
  pending := []
  dict := []
  blobs := []
  mem := []
  draws := 0
  out := []
  bladeMap := 0xF
  clock := {}
  log := {}
  ergs := .replicate 64 {}
  capture := []
  heats := .replicate 64 {}
  crews := .replicate 4 {}
  blades := .replicate 4 {}
  sculls := .replicate 16 {}
  engines := .replicate 16 {}
  relayQueues := .replicate 64 {}
  marshal := []
  regions := .replicate 64 {}
  channels := .replicate 384 {}
  hbmStacks := .replicate 12 {}
  dies := .replicate 2 {}
  retrainNext := 0
  scullRuns := .replicate 16 none
  oarlocks := .replicate 24 {}
  sweeps := .replicate 12 {}
  telem := {}
  peers := []
  peersFull := false
  heldFrames := []
  linkTraining := false
  tags := []
  collectives := []
  pools := .replicate 4 []
  unsent := []
  slipways := .replicate 4 {}
  signer := {}
  keys := {}
  flashWrites := 0
  retrainLeft := 0
  rings := []
  serviceCount := 0
  moveCount := 0
  trust := .replicate 4 {}
  parts := .ofFn fun i => factoryPart i.val
  boot := .rom
  pacer := {}
  seat := .replicate 36 {}
  sigDump := []
  xefin := {}
  power := {}

end Sys2Proof.Machine
end

