-- ==== Sys2Proof/Machine/Ops.lean ====
section
/-! DEFINITION. The named operations over the registers, the time base, the Logbook queues, the memories, the
semaphores and the unit queues. -/
namespace Sys2Proof.Machine

/-- Change one element of a fixed table. -/
def updAt {α : Type} {n : Nat} (v : Vector α n) (i : Fin n) (f : α → α) : Vector α n := v.set i (f v[i])

/-! ## Entries of the dictionary -/

/-- The value of an entry held in the register file. -/
def State.entry (s : State) (idx sub : Nat) : Nat := sparseGet (resetOf idx sub) s.dict (entryKey idx sub)

/-- Write an entry of the register file. -/
def State.setEntry (s : State) (idx sub v : Nat) : State :=
  { s with dict := sparseSet (resetOf idx sub) s.dict (entryKey idx sub) v }

/-- Add to a counter; U64 counters wrap. -/
def State.bump (s : State) (idx sub n : Nat) : State :=
  if n = 0 then s else s.setEntry idx sub (wrap64 (s.entry idx sub + n))

/-- The bytes of a BLOB entry; one never written reads as `len` zeros. -/
def State.blob (s : State) (idx sub len : Nat) : List Byte :=
  match s.blobs.find? (·.1 == entryKey idx sub) with
  | some p => p.2
  | none => List.replicate len 0

/-- Write a BLOB entry whole. -/
def State.setBlob (s : State) (idx sub : Nat) (bs : List Byte) : State :=
  { s with blobs := (entryKey idx sub, bs) :: s.blobs.filter (·.1 != entryKey idx sub) }

/-- Draw a free value: a number that nothing constrains (the field `draws` counts the uses). -/
def State.draw (s : State) : Nat × State := (Config.freeNat s.draws, { s with draws := s.draws + 1 })

/-- Draw `n` free bytes. -/
def State.drawBytes (s : State) (n : Nat) : List Byte × State :=
  ((List.range n).map (Config.freeByte s.draws), { s with draws := s.draws + 1 })

/-- Send something. -/
def State.emit (s : State) (o : Output) : State := { s with out := s.out ++ [o] }

/-! ## Time (R440 to R442) -/

/-- The stroke period P in ns. -/
def State.period (s : State) : Nat := s.entry 0x2000 1 * 1000

/-- The edge of stroke `n`: t0 + (n − S0) × P. -/
def State.edgeTime (s : State) (n : Int) : Int :=
  (s.entry 0x2000 3 : Int) + (n - s.entry 0x2000 4) * s.period

/-- The stroke at module time `t`. -/
def State.strokeAt (s : State) (t : Nat) : Int :=
  (s.entry 0x2000 4 : Int) + ((t : Int) - s.entry 0x2000 3) / s.period

/-- The timestamp of module time `t` (R24, R441): stroke modulo 2⁴⁰, then the nanoseconds since its edge. -/
def State.stampAt (s : State) (t : Nat) : Nat :=
  let n := s.strokeAt t
  (n % 2 ^ 40).toNat * 2 ^ 24 + (((t : Int) - s.entry 0x2000 3) % s.period).toNat

/-- The current timestamp (0x2000.05). -/
def State.stamp (s : State) : Nat := s.stampAt s.clock.now

/-- The first stroke edge strictly after `t` (R455). -/
def State.edgeAfter (s : State) (t : Nat) : Nat := (s.edgeTime (s.strokeAt t + 1)).toNat

/-- The length of the maintenance slot in ns (R458). -/
def State.slotLength (s : State) : Nat := s.period * s.entry 0x2000 2 / 100

/-- Module time moves on to `t` when it has not reached it. It is a u64 (R440). -/
def State.advanceTo (s : State) (t : Nat) : State :=
  if s.clock.now < t then { s with clock := { s.clock with now := t % 2 ^ 64, frac := 0 } } else s

/-- Slots of the die control clock, 1.65 GHz, in a span of ns (R200). -/
def issueSlots (ns : Nat) : Nat := ns * 165 / 100

/-- The module id (R26, R424): bits [23:0] of 0x1020.01. -/
def State.moduleId (s : State) : Nat := s.entry 0x1020 1 % 2 ^ 24

/-- The seed of the present step (R82). -/
def State.seed (s : State) : Nat := stepSeed (s.entry 0x3020 3) (s.entry 0x3020 5)

/-- Whether the module is held in reset, or tripped (R618, R660). -/
def State.inReset (s : State) : Bool := s.power.pwrOkLow || s.power.sysRstLow || s.power.tripped

/-! ## Events (R465 to R467) -/

/-- An event of die `d` joins the die's queue of 256 entries, or is lost and counted (R467). -/
def State.raiseOn (s : State) (d : Fin 2) (e : Event) : State :=
  let q := s.log.queues[d]
  if q.waiting.length < 256 then
    { s with log := { s.log with queues := s.log.queues.set d { q with waiting := q.waiting ++ [e] } } }
  else
    let q' := { q with lost := q.lost + 1, firstLost := if q.lost = 0 then e.ts else q.firstLost }
    ({ s with log := { s.log with queues := s.log.queues.set d q' } }).bump 0xA000 3 1

/-- The die of a Blade, of a Scull, of an engine, of an Oarlock, of a stack (Table 01-1). -/
def dieOf (half n : Nat) : Fin 2 := if n < half then 0 else 1

/-- Raise a module event: code and record fields. -/
def State.raise (s : State) (code : Nat) (payload : List Int) : State :=
  s.raiseOn 0 { ts := s.stamp, code := code, payload := payload }

/-- Raise an event of a unit: class and number (Table 10-6). -/
def State.raiseUnit (s : State) (d : Fin 2) (code unit index : Nat) (payload : List Int) : State :=
  s.raiseOn d { ts := s.stamp, code := code, unit := unit, index := index, payload := payload }

/-- Raise an event of a region, for the Crew that owns it. -/
def State.raiseRegion (s : State) (r : Fin 64) (code : Nat) (payload : List Int) : State :=
  s.raiseOn 0 { ts := s.stamp, code := code, crew := s.regions[r].owner, payload := payload }

/-- The Crew of a Heat context: h = 16 × Crew + Heat (R253). -/
def crewOf (h : Fin 64) : Fin 4 := ⟨h.val / 16, by omega⟩

/-- Raise an event of a Heat. -/
def State.raiseHeat (s : State) (h : Fin 64) (code : Nat) (payload : List Int) : State :=
  s.raiseOn 0 { ts := s.stamp, code := code, unit := 4, crew := (crewOf h).val, heat := h.val, payload := payload }

/-- The same event `n` times. -/
def State.raiseTimes : Nat → State → (State → State) → State
  | 0, s, _ => s
  | n + 1, s, f => State.raiseTimes n (f s) f

/-! ## Memories

One list of cells holds every memory. The key of a byte says which: a channel's device byte, a Tank byte, a byte of a
Catch or a Finish buffer. A byte that nothing has written reads as 0. -/

/-- The key of a device byte of an HBM channel (R288). -/
def hbmKey (ch dev : Nat) : Nat := ch * 2 ^ 31 + dev

/-- The key of a Tank byte, by its offset from 0xF0_0000_0000 (R33). -/
def tankKey (off : Nat) : Nat := 2 ^ 40 + off

/-- The key of a byte of a Catch buffer (8 MiB) and of a Finish buffer (4 MiB) (Table 01-1). -/
def catchKey (n off : Nat) : Nat := 2 ^ 41 + n * 2 ^ 24 + off
@[inherit_doc catchKey] def finishKey (n off : Nat) : Nat := 2 ^ 42 + n * 2 ^ 24 + off

/-- Read and write one cell. -/
def State.cell (s : State) (key : Nat) : Byte := sparseGet 0 s.mem key
@[inherit_doc State.cell] def State.setCell (s : State) (key : Nat) (b : Byte) : State :=
  { s with mem := sparseSet 0 s.mem key b }

/-- Read and write consecutive cells. -/
def State.cells (s : State) (key n : Nat) : List Byte := (List.range n).map fun i => s.cell (key + i)

/-- The memory after a run of bytes is written at consecutive keys. -/
def memWrite : List Host.Cell → Nat → List Byte → List Host.Cell
  | m, _, [] => m
  | m, key, b :: bs => memWrite (sparseSet 0 m key b) (key + 1) bs

@[inherit_doc State.cells] def State.setCells (s : State) (key : Nat) (bs : List Byte) : State :=
  { s with mem := memWrite s.mem key bs }

/-- Device byte of byte `d` of a channel's data space (R288). -/
def deviceByte (d : Nat) : Nat := d / 258048 * 262144 + d % 258048

/-- Channel list entry, data page relative to chbase and byte in it of offset `off` of a region (R296); the unit is 256 in
a spread region, 4,096 in a pack region. A region with no channel places nothing. -/
def Region.spot (r : Region) (off : Nat) : Option (Nat × Nat × Nat) :=
  let c := r.list.length
  if c = 0 then none
  else
    let u := if r.pack then 4096 else 256
    let g := off / u
    let st := g / c
    let t0 := (st * 40503 + r.salt) % 65536
    let t := t0 ^^^ (t0 / 128)
    let d := st * u + off % u
    some ((g % c + t) % c, d / 4096, d % 4096)

/-- Channel and device byte of offset `off` of a region (R288, R296). -/
def Region.place (r : Region) (off : Nat) : Option (Nat × Nat) :=
  (r.spot off).map fun p => (r.list.getD p.1 0, deviceByte ((r.chbase + p.2.1) * 4096 + p.2.2))

/-- Data stripes of a pack region, and the channel and device byte of the table entry of page `p` (R301). -/
def Region.tableEntry (r : Region) (p : Nat) : Nat × Nat :=
  let c := r.list.length
  let st := r.size / 4096 / c
  let q := p / 4096
  (r.list.getD (q % c) 0, deviceByte ((r.chbase + st + q / c) * 4096 + p % 4096))

/-- Data pages that the region uses in each channel (R296, R301). -/
def Region.extent (r : Region) : Nat :=
  let c := r.list.length
  if c = 0 then 0 else r.size / (c * 4096) + (if r.pack then ceilDiv (r.size / 4096) (4096 * c) else 0)

/-- On whose behalf an access is made (R31, R480): the Crew, the Heat's region mask where a Heat issued it, whether a
Launch engine makes it (R298). -/
structure Acc where
  crew : Nat
  mask : Option Nat
  launch : Bool
deriving DecidableEq, Repr

/-- Whether the Heat's region mask names a region (R480). -/
def Acc.names (a : Acc) (r : Nat) : Bool :=
  match a.mask with
  | none => true
  | some m => bitOf m r

/-- Where an address leads: a cell, or a byte of a pack region. -/
inductive Loc where
  | cell (key : Nat)
  | pack (r : Fin 64) (off : Nat)
deriving DecidableEq, Repr

/-- Whether Tank bank `b` of die `d` is scratch of the Crew (R303, R304). -/
def State.ownsBank (s : State) (crew d b : Nat) : Bool :=
  bitOf (s.entry (0x4200 + d) (crew + 1)) b && !(48 ≤ b && bitOf (s.entry (0x4200 + d) 5) (b - 48))

/-- Whether a range lies in Tank scratch of the Crew (R303, R304). -/
def State.inScratch (s : State) (crew addr len : Nat) : Bool :=
  let lo := (addr - 0xF000000000) / 2 ^ 22
  len == 0 || (0xF000000000 ≤ addr && addr + len ≤ 0xF020000000 &&
    (List.range ((addr + len - 1 - 0xF000000000) / 2 ^ 22 + 1 - lo)).all fun i => s.ownsBank crew ((lo + i) / 64) ((lo + i) % 64))

/-- The ACTIVE region that holds an address (R291); one handed to the Logbook has left the decode (R468). -/
def State.regionAt (s : State) (addr : Nat) : Option (Fin 64) :=
  (List.finRange 64).find? fun r =>
    let g := s.regions[r]
    g.state == .active && !g.loggedOut && g.base ≤ addr && addr < g.base + g.size

/-- Decodes an address under the rules of access of R31, R33, R291, R298, R303, R304; `none` is an address fault. -/
def State.locate (s : State) (a : Acc) (addr : Nat) : Option Loc :=
  if 0xF000000000 ≤ addr ∧ addr < 0xF020000000 then
    let off := addr - 0xF000000000
    if s.ownsBank a.crew (off / 2 ^ 28) (off % 2 ^ 28 / 2 ^ 22) then some (.cell (tankKey off)) else none
  else if 0x8800000000 ≤ addr then none
  else match s.regionAt addr with
    | none => none
    | some r =>
      let g := s.regions[r]
      if g.owner ≠ a.crew ∨ a.names r.val = false then none
      else if g.pack then (if a.launch then some (.pack r (addr - g.base)) else none)
      else (g.place (addr - g.base)).map fun p => .cell (hbmKey p.1 p.2)

/-! ### Pack pages (R299, R300) -/

/-- Elements of block `i` of a page of `w`-bit elements. -/
def pageBlock (w : Nat) (page : List Byte) (i : Nat) : List Int :=
  let n := ofLeBytes ((page.drop (8 * w * i)).take (8 * w))
  (List.range 64).map fun k => toSigned w (bitsOf n (w * k) w)

/-- The least width that holds every element of a block, 0 for a block of zeros (R299). -/
def trimWidth (w : Nat) (es : List Int) : Nat :=
  if es.all (· == 0) then 0
  else ((List.range w).find? fun t => es.all fun e => decide (-(2 ^ t : Nat) ≤ e ∧ e ≤ (2 ^ t : Nat) - 1)).getD (w - 1) + 1

/-- The bytes of a block at `t` bits an element. -/
def packBits (t : Nat) (es : List Int) : List Byte :=
  leBytes (8 * t) ((es.map (ofSigned t)).foldr (fun e acc => e + 2 ^ t * acc) 0)

/-- `pack_page` of R299: the table entry and the bytes stored. -/
def packPage (w : Nat) (page : List Byte) : Nat × List Byte :=
  let n := 512 / w
  let blocks := (List.range n).map (pageBlock w page)
  let ts := blocks.map (trimWidth w)
  if ts.all (· == 0) then (0, [])
  else
    let body := ((blocks.zip ts).filter (·.2 != 0)).flatMap fun p => packBits p.2 p.1
    let out := ts.map (BitVec.ofNat 8) ++ body
    let z := (out.length + 31) / 32
    if 128 ≤ z then (128, page) else (z, out ++ List.replicate (32 * z - out.length) 0)

/-- Unpacks the blocks of a page in turn. -/
def unpackBlocks (w : Nat) : List Nat → List Byte → List Byte
  | [], _ => []
  | t :: ts, bs =>
    let n := ofLeBytes (bs.take (8 * t))
    let es := (List.range 64).map fun k => if t = 0 then 0 else ofSigned w (toSigned t (bitsOf n (t * k) t))
    leBytes (8 * w) (es.foldr (fun e acc => e + 2 ^ w * acc) 0) ++ unpackBlocks w ts (bs.drop (8 * t))

/-- The page that a table entry and stored bytes decode to (R299, Table 07-5). -/
def unpackPage (w z : Nat) (stored : List Byte) : List Byte :=
  if z = 0 then List.replicate 4096 0
  else if 128 ≤ z then stored.take 4096
  else unpackBlocks w ((stored.take (512 / w)).map (·.toNat)) (stored.drop (512 / w))

/-- Width of the pack formats of 0x41rr.06. -/
def packWidth : Nat → Nat
  | 0 => 4 | 1 => 8 | 2 => 16 | _ => 32

/-- The bytes of page `p` of a pack region. -/
def State.readPage (s : State) (g : Region) (p : Nat) : List Byte :=
  let (tc, td) := g.tableEntry p
  let z := (s.cell (hbmKey tc td)).toNat
  match g.place (4096 * p) with
  | none => []
  | some (ch, dev) => unpackPage (packWidth g.fmt) z (s.cells (hbmKey ch dev) (if 128 ≤ z then 4096 else 32 * z))

/-- Writes page `p` of a pack region, encoded. -/
def State.writePage (s : State) (g : Region) (p : Nat) (page : List Byte) : State :=
  let (z, bs) := packPage (packWidth g.fmt) page
  let (tc, td) := g.tableEntry p
  match g.place (4096 * p) with
  | none => s
  | some (ch, dev) => (s.setCell (hbmKey tc td) (BitVec.ofNat 8 z)).setCells (hbmKey ch dev) bs

/-! ### Access by address -/

/-- The byte at an address, 0 where it does not decode. -/
def State.load1 (s : State) (a : Acc) (addr : Nat) : Byte :=
  match s.locate a addr with
  | some (.cell k) => s.cell k
  | some (.pack r off) => (s.readPage s.regions[r] (off / 4096)).getD (off % 4096) 0
  | none => 0

/-- The bytes from an address on. -/
def State.load (s : State) (a : Acc) (addr n : Nat) : List Byte := (List.range n).map fun i => s.load1 a (addr + i)

/-- The little-endian number at an address. -/
def State.loadNat (s : State) (a : Acc) (addr n : Nat) : Nat := ofLeBytes (s.load a addr n)

/-- Whether every byte of a range decodes. -/
def State.decodes (s : State) (a : Acc) (addr n : Nat) : Bool :=
  (List.range n).all fun i => (s.locate a (addr + i)).isSome

/-- Whether an address lies in a lane stream of a RUNNING Heat (R199). -/
def State.inStream (s : State) (addr : Nat) : Bool :=
  s.heats.toList.any fun h =>
    h.status == .running && h.lanes.toList.any fun l => l.start ≤ addr && addr < l.start + 8 * l.length

/-- Whether an address lies in a range that a shared pin entry holds (R313). -/
def State.sharedPinned (s : State) (addr : Nat) : Bool :=
  s.dies.toList.any fun d => d.pins.any fun p => p.shared && p.line ≤ addr / 256 && addr / 256 < p.line + p.lines

/-- Whether every byte of a range may be written (R199, R313). -/
def State.writable (s : State) (a : Acc) (addr n : Nat) : Bool :=
  s.decodes a addr n && (List.range n).all fun i => !s.inStream (addr + i) && !s.sharedPinned (addr + i)

/-- The parts of a span in the granules of 256 B: each lies on one channel (R296). -/
def Span.parts (x : Span) : List (Nat × Nat) :=
  if x.len = 0 then []
  else (List.range ((x.at_ + x.len - 1) / 256 + 1 - x.at_ / 256)).map fun i =>
    let g := x.at_ / 256 + i
    let lo := max x.at_ (256 * g)
    (lo, min (x.at_ + x.len) (256 * g + 256) - lo)

/-- Whether every byte of the spans may be read, or written (Table 05-17, ADDR). -/
def State.reaches (s : State) (a : Acc) (xs : List Span) : Bool :=
  xs.all fun x => if x.write then s.writable a x.at_ x.len else s.decodes a x.at_ x.len

/-- The region, the channel and the device byte of an HBM address. -/
def State.hbmSpot (s : State) (addr : Nat) : Option (Fin 64 × Fin 384 × Nat) :=
  (s.regionAt addr).bind fun r => (s.regions[r].place (addr - s.regions[r].base)).map fun p => (r, Fin.ofNat 384 p.1, p.2)

/-- Whether no byte of the spans stands on a FAILED channel: such a request is not delivered (R332). -/
def State.delivers (s : State) (xs : List Span) : Bool :=
  xs.all fun x => x.parts.all fun p => match s.hbmSpot p.1 with
    | some (_, ch, _) => !s.channels[ch].failed
    | none => true

/-- The current epoch byte of a Crew's memory root (0x82cc.02). -/
def State.epochOf (s : State) (crew : Nat) : Nat := s.entry (0x8200 + crew) 2

/-- A device page of a region, numbered by its data page relative to chbase and its channel list entry. -/
def Region.pageNo (r : Region) (k page : Nat) : Nat := page * r.list.length + k

/-- A write to a page of an older epoch converts the whole page to the current one (R532). -/
def State.convertPageNo (s : State) (r : Fin 64) (p : Nat) : State :=
  let g := s.regions[r]
  let now := s.epochOf g.owner
  if sparseGet g.fillEpoch g.pageEpoch p = now then s
  else
    ({ s with regions := s.regions.set r { g with pageEpoch := sparseSet g.fillEpoch g.pageEpoch p now } }).bump
      (0x8200 + g.owner) 7 1

/-- A write at offset `off` of a region meets the page that holds it and, in a pack region, the table page of its entry
(R301, R532). -/
def State.convertPage (s : State) (r : Fin 64) (off : Nat) : State :=
  let g := s.regions[r]
  match g.spot off with
  | none => s
  | some (k, page, _) =>
    let s := s.convertPageNo r (g.pageNo k page)
    if g.pack then
      let c := g.list.length
      let q := off / 4096 / 4096
      s.convertPageNo r (g.pageNo (q % c) (g.size / 4096 / c + q / c))
    else s

/-- Write one byte at an address. -/
def State.store1 (s : State) (a : Acc) (addr : Nat) (b : Byte) : State :=
  match s.locate a addr with
  | some (.cell k) =>
    let s := s.setCell k b
    match s.regionAt addr with
    | some r => if addr < 0x8800000000 then s.convertPage r (addr - s.regions[r].base) else s
    | none => s
  | some (.pack r off) =>
    let g := s.regions[r]
    (s.writePage g (off / 4096) ((s.readPage g (off / 4096)).set (off % 4096) b)).convertPage r off
  | none => s

/-- Write bytes from an address on. -/
def State.store (s : State) (a : Acc) : Nat → List Byte → State
  | _, [] => s
  | addr, b :: bs => State.store (s.store1 a addr b) a (addr + 1) bs

/-- Write a little-endian number. -/
def State.storeNat (s : State) (a : Acc) (addr n v : Nat) : State := s.store a addr (leBytes n v)

/-- The access of a unit on behalf of a Heat (R480). -/
def State.accOf (s : State) (h : Fin 64) : Acc :=
  { crew := (crewOf h).val, mask := some (s.entry (0x7300 + h.val) 4), launch := false }

/-- The access of a Launch engine on behalf of a Heat (R298). -/
def State.accLaunch (s : State) (h : Fin 64) : Acc := { s.accOf h with launch := true }

/-! ## Marshal (R427) -/

/-- The rank of a requester: those that have not won yet come first, by index, then the winners in the order of their last win. -/
def MarshalPort.rank (p : MarshalPort) (r : Nat) : Nat := if p.won.contains r then 2 ^ 40 + p.won.idxOf r else r

/-- The first cycle, from `now` on, in which a requester is eligible for a decision. -/
def MarshalPort.eligibleAt (p : MarshalPort) (now r : Nat) : Nat :=
  max (max now p.free) (((p.losses.find? (·.1 == r)).map (·.2.2)).getD 0)

/-- Whether requester `a` goes before `b`: the decision falls in the first cycle in which one of them is eligible, for the higher rank. -/
def MarshalPort.before (p : MarshalPort) (now a b : Nat) : Bool :=
  p.eligibleAt now a < p.eligibleAt now b || (p.eligibleAt now a == p.eligibleAt now b && p.rank a ≤ p.rank b)

/-- Requester `r` wins among `rs` a transfer of `len` cycles: its rank becomes the lowest; every other eligible requester loses, and
after its L-th loss in a row backs off for 2^min(L − 1, 10) cycles. -/
def MarshalPort.win (p : MarshalPort) (now r : Nat) (rs : List Nat) (len : Nat) : MarshalPort :=
  let t := p.eligibleAt now r
  let lost := fun x => ((p.losses.find? (·.1 == x)).map (·.2.1)).getD 0
  let losers := rs.filter fun x => x != r && p.eligibleAt now x == t
  { p with
    won := p.won.filter (· != r) ++ [r], free := t + len
    losses := (losers.map fun x => (x, lost x + 1, t + 2 ^ min (lost x) 10 + 1)) ++ p.losses.filter fun y => y.1 != r && !losers.contains y.1 }

/-- The instance of a key. -/
def State.port (s : State) (key : Nat) : MarshalPort := (s.marshal.find? (·.key == key)).getD { key := key }

/-- Marshal notes that requester `r` has won the instance `key` among `rs`. -/
def State.noteWin (s : State) (key now r : Nat) (rs : List Nat) (len : Nat) : State :=
  { s with marshal := (s.port key).win now r rs len :: s.marshal.filter (·.key != key) }

/-! ## Heats and lanes -/

/-- Change one Heat, one lane, one Blade, one Crew. -/
def State.onHeat (s : State) (h : Fin 64) (f : Heat → Heat) : State := { s with heats := updAt s.heats h f }
@[inherit_doc State.onHeat] def State.onLane (s : State) (h : Fin 64) (l : Fin 4) (f : Lane → Lane) : State :=
  s.onHeat h fun x => { x with lanes := updAt x.lanes l f }
@[inherit_doc State.onHeat] def State.onBlade (s : State) (n : Fin 4) (f : Blade → Blade) : State :=
  { s with blades := updAt s.blades n f }
@[inherit_doc State.onHeat] def State.onCrew (s : State) (c : Fin 4) (f : Crew → Crew) : State :=
  { s with crews := updAt s.crews c f }
@[inherit_doc State.onHeat] def State.onDie (s : State) (d : Fin 2) (f : Die → Die) : State :=
  { s with dies := updAt s.dies d f }
@[inherit_doc State.onHeat] def State.onRegion (s : State) (r : Fin 64) (f : Region → Region) : State :=
  { s with regions := updAt s.regions r f }
@[inherit_doc State.onHeat] def State.onChannel (s : State) (c : Fin 384) (f : Channel → Channel) : State :=
  { s with channels := updAt s.channels c f }
@[inherit_doc State.onHeat] def State.onEngine (s : State) (e : Fin 16) (f : Engine → Engine) : State :=
  { s with engines := updAt s.engines e f }

/-- A lane of a Heat. -/
def State.lane (s : State) (h : Fin 64) (l : Fin 4) : Lane := s.heats[h].lanes[l]

/-- LC[i]; LC0 reads 0 (R242). -/
def Lane.counter (l : Lane) (i : Nat) : Nat := if i = 0 then 0 else sparseGet 0 l.lc i

/-- Write LC[i], modulo 2³²; a write to LC0 is discarded (R242). -/
def Lane.setCounter (l : Lane) (i v : Nat) : Lane :=
  if i = 0 then l else { l with lc := sparseSet 0 l.lc i (v % 2 ^ 32) }

/-- The effective handle of R205. -/
def Lane.handle (l : Lane) (handle xi : Nat) : Nat := (handle + l.counter xi) % 65536

/-- The kind byte and the 32 bytes of a descriptor (R206). -/
def State.kindOf (s : State) (h : Fin 64) (d : Nat) : Nat :=
  (s.load1 (s.accOf h) (s.heats[h].header.kplane + d)).toNat
@[inherit_doc State.kindOf] def State.descOf (s : State) (h : Fin 64) (d : Nat) : Nat :=
  s.loadNat (s.accOf h) (s.heats[h].header.dtab + 32 * d) 32

/-- The tensor that a handle names: `none` when its kind is wrong or it is reserved. -/
def State.tensor? (s : State) (h : Fin 64) (d : Nat) : Option Tensor :=
  if s.kindOf h d = 1 ∧ d < s.heats[h].header.dcount then Tensor.parse (s.descOf h d) else none

/-! ## Units under seat test (R574, R575) -/

/-- The numbers of the units under seat test, as the grant word orders them: Sculls, Launch engines, Blades. -/
def scullUnit (k : Fin 16) : Fin 36 := ⟨k.val, by omega⟩
@[inherit_doc scullUnit] def engineUnit (e : Fin 16) : Fin 36 := ⟨16 + e.val, by omega⟩
@[inherit_doc scullUnit] def bladeUnit (n : Fin 4) : Fin 36 := ⟨32 + n.val, by omega⟩

/-- Whether a slice runs on a unit. -/
def State.slicing (s : State) (u : Fin 36) : Bool := (s.seat[u]).run.isSome

/-- An instruction that reaches a unit under a slice waits from now on (R575). -/
def State.awaitSlice (s : State) (u : Fin 36) : State :=
  { s with seat := updAt s.seat u fun x => { x with waitSince := some (x.waitSince.getD s.clock.now) } }

/-! ## Unit queues -/

/-- The queue of a unit. -/
def State.queue (s : State) : UnitId → UnitQueue
  | .blade n => s.blades[n].queue
  | .scull k => s.sculls[k]
  | .engine e => s.engines[e].queue
  | .relay h => s.relayQueues[h]

/-- Replace the queue of a unit. -/
def State.setQueue (s : State) (u : UnitId) (q : UnitQueue) : State :=
  match u with
  | .blade n => s.onBlade n fun b => { b with queue := q }
  | .scull k => { s with sculls := s.sculls.set k q }
  | .engine e => s.onEngine e fun x => { x with queue := q }
  | .relay h => { s with relayQueues := s.relayQueues.set h q }

/-- The depth of Table 05-2. -/
def UnitId.depth : UnitId → Nat
  | .blade _ => 4
  | _ => 8

/-- Every unit. -/
def allUnits : List UnitId :=
  (List.finRange 4).map .blade ++ (List.finRange 16).map .scull ++ (List.finRange 16).map .engine
    ++ (List.finRange 64).map .relay

/-- Whether a queue still holds an instruction that satisfies `p`, waiting or started. -/
def UnitQueue.holds (q : UnitQueue) (p : QItem → Bool) : Bool := q.waiting.any p || q.started.any p

/-- Drop the waiting instructions of a Heat (R251). -/
def UnitQueue.discard (q : UnitQueue) (h : Fin 64) : UnitQueue := { q with waiting := q.waiting.filter (·.heat != h) }

/-- The waiting instructions of a Heat leave every queue (R251). -/
def State.discardQueued (s : State) (h : Fin 64) : State :=
  { s with
    blades := s.blades.map fun b => { b with queue := b.queue.discard h }
    sculls := s.sculls.map (·.discard h)
    engines := s.engines.map fun e => { e with queue := e.queue.discard h }
    relayQueues := s.relayQueues.map (·.discard h) }

/-! ## Images in the flash (R508, R509) -/

/-- The header of an image (Table 12-3), as a number. -/
def FlashSlot.header (f : FlashSlot) : Nat := ofLeBytes (f.image.take 128)

/-- Header fields. -/
def FlashSlot.signer (f : FlashSlot) : Nat := bitsOf f.header 48 2
@[inherit_doc FlashSlot.signer] def FlashSlot.version (f : FlashSlot) : Nat := bitsOf f.header 64 32
@[inherit_doc FlashSlot.signer] def FlashSlot.svn (f : FlashSlot) : Nat := bitsOf f.header 96 16
@[inherit_doc FlashSlot.signer] def FlashSlot.blen (f : FlashSlot) : Nat := bitsOf f.header 128 64

/-- The signature of an image (R509). -/
def FlashSlot.signature (f : FlashSlot) : List Byte := (f.image.drop 128).take (bitsOf f.header 448 32)

/-- Where the body starts, and the length of the whole image (R509, R609). -/
def FlashSlot.bodyAt (f : FlashSlot) : Nat := 4096 * ceilDiv (128 + bitsOf f.header 448 32) 4096
@[inherit_doc FlashSlot.bodyAt] def FlashSlot.total (f : FlashSlot) : Nat := f.bodyAt + f.blen
@[inherit_doc FlashSlot.bodyAt] def FlashSlot.body (f : FlashSlot) : List Byte := f.image.drop f.bodyAt

/-- The slot that a component runs from, or that its slot-select record names (0x80ii.01). -/
def Part.active (p : Part) : Fin 2 := p.running.getD p.preferred

end Sys2Proof.Machine
end

