-- ==== Sys2Proof/Machine/Attest.lean ====
section
/-! DEFINITION. The signing engine of the device attestation key (R521, R522). -/
namespace Sys2Proof.Machine

/-- Leaf indices that remain (0x8000.03): those in no reserved block and those left in the present one. -/
def Signer.remaining (g : Signer) : Nat := 2 ^ 30 - 1024 * g.blocks + (1024 - g.used)

/-- The index that the next signature takes, after reserving a block where the present one is used up. -/
def Signer.reserve (g : Signer) : Signer :=
  if g.used < 1024 then g else { g with blocks := g.blocks + 1, used := 0 }

/-- The lower-level tree, of 2¹⁵ leaves, that holds the next index. -/
def Signer.treeOf (g : Signer) : Nat := (1024 * (g.blocks - 1) + g.used) / 2 ^ 15

/-- The engine can sign: an index remains and its lower-level tree is built. -/
def Signer.ready (g : Signer) : Bool :=
  0 < g.remaining && (match g.tree with
    | some t => g.reserve.treeOf == t || (g.reserve.treeOf == t + 1 && g.nextBuilt)
    | none => false)

/-- A signature of 5,396 bytes (R521): the counter in the flash is advanced before the first of a block (R506), the
indices are used in order, the signature counted; EV-8012 once when fewer than 2²⁴ indices remain. Its bytes are free. `none`: no signature. -/
def State.sign (s : State) : Option (List Byte × State) :=
  if s.signer.ready then
    let g := s.signer.reserve
    let t := g.treeOf
    let g := { g with
      used := g.used + 1, tree := some t, nextBuilt := g.nextBuilt && g.tree == some t }
    let new := if g.blocks = s.signer.blocks then 0 else 1
    let s := ({ s with signer := g, flashWrites := s.flashWrites + new }).bump 0x8000 8 1
    let s := if g.remaining < 2 ^ 24 ∧ g.warned = false then
      ({ s with signer := { g with warned := true } }).raise 0x8012 [g.remaining] else s
    some (s.drawBytes 5396)
  else none

/-- SIGNING_TREE_BUILT (R521): the first lower-level tree after a power-up, or the next one in the background. -/
def execSigningTreeBuilt (s : State) : Host.Outcome State Fault Refusal :=
  .next (if s.inReset then s else match s.signer.tree with
    | none => { s with signer := { s.signer with tree := some s.signer.reserve.treeOf } }
    | some _ => { s with signer := { s.signer with nextBuilt := true } })

end Sys2Proof.Machine
end

