-- ==== Sys2Proof/Machine/Erg.lean ====
section
/-! DEFINITION. Erg monitors (R471 to R474). -/
namespace Sys2Proof.Machine

/-- `erg_bin` of R472. -/
def ergBin (v base : Int) (shift : Nat) (logm : Bool) : Nat :=
  if v < base then 0
  else
    let d := (asr (v - base) shift).toNat
    min (1 + if logm then bitlen d else d) 31

/-- A monitor takes a sample (R472). The sum saturates at 2⁶⁴ − 1, a bin count at 2³² − 1; the samples are s64. -/
def Erg.take (e : Erg) (v : Int) (bin : Nat) : Erg :=
  { e with
    min := Min.min e.min v
    max := Max.max e.max v
    count := e.count + 1
    sum := Min.min (2 ^ 64 - 1) (e.sum + v)
    bins := sparseSet 0 e.bins bin (Min.min (2 ^ 32 - 1) (sparseGet 0 e.bins bin + 1)) }

/-- A source produces a sample; every monitor of the source and index takes it (R471). -/
def State.feed (s : State) (source index : Nat) (v : Int) : State :=
  { s with ergs := Vector.ofFn fun m : Fin 64 =>
      if s.entry (0xA100 + m.val) 1 = source ∧ s.entry (0xA100 + m.val) 2 = index then
        s.ergs[m].take v (ergBin v (s32 (s.entry (0xA100 + m.val) 3)) (s.entry (0xA100 + m.val) 4)
          (s.entry (0xA100 + m.val) 5 == 1))
      else s.ergs[m] }

/-- Closes the window of a monitor (R473): its values are copied and cleared. -/
def Erg.close (e : Erg) (stamp : Nat) : Erg :=
  { lastMin := e.min, lastMax := e.max, lastCount := e.count, lastSum := e.sum, lastBins := e.bins, lastClose := stamp }

/-- An Erg snapshot (R474): the live values of all monitors, with one timestamp, while 0xA000.0A is set. A TICK_OUT set to
capture trigger out gives a 1 µs pulse (R454). -/
def State.snapshot (s : State) : State :=
  if s.entry 0xA000 0xA = 1 then
    let s := { s with sigDump := [], capture := s.ergs.toList.map fun e => (s.stamp, e) }
    if s.entry 0x2010 0xA = 2 then s.emit { kind := .pin, unit := 1, fields := [1, 1000] } else s
  else s

/-- ERG_SNAPSHOT (R474): a write of 1 to 0xA000.0B. -/
def execErgSnapshot (s : State) : Host.Outcome State Fault Refusal := .next s.snapshot

/-- ERG_WINDOW_CLOSE (R473): at a stroke edge that completes the window of monitor `m`, its values are copied and
cleared. -/
def execErgWindowClose (m : Fin 64) (s : State) : Host.Outcome State Fault Refusal :=
  .next (if s.entry (0xA100 + m.val) 6 ≤ s.ergs[m].strokes then
    { s with ergs := updAt s.ergs m (·.close s.stamp) } else s)

end Sys2Proof.Machine
end

