-- ==== Sys2Proof/Machine/HeatOps.lean ====
section
/-! DEFINITION. What the sequencers share: faults of a plan (R250, R251, R666), the end of a Heat (R248, R481, R483, R492,
R501), semaphores with their Marshal order (R235 to R238), the issue of an instruction (R201, R202). -/
namespace Sys2Proof.Machine

/-! ## Plan fault codes (Table 05-17) -/

/-- The plan faults. -/
inductive Plan where
  | illegal | insnReserved | descReserved | descRange | descKind | addr | semRange | semOverflow | waitOnParked | semHold
  | unitAbsent | scullFormat | scullShape | scullLedger | launchDesc | relayDesc | svc | pmark
  | bladeFormat | bladeLift | bladeShape | bladeAnchor | bladeAbsent | bladeLane
  | chainReserved | chainOrder | chainLedger | chainBuffer | chainShape | chainSource
deriving DecidableEq, Repr

/-- The codes of Table 05-17. -/
def Plan.code : Plan → Nat
  | .illegal => 0x01 | .insnReserved => 0x02 | .descReserved => 0x03 | .descRange => 0x04 | .descKind => 0x05
  | .addr => 0x06 | .semRange => 0x07 | .semOverflow => 0x08 | .waitOnParked => 0x09 | .semHold => 0x0A
  | .unitAbsent => 0x0B | .scullFormat => 0x0C | .scullShape => 0x0D | .scullLedger => 0x0E | .launchDesc => 0x0F
  | .relayDesc => 0x10 | .svc => 0x11 | .pmark => 0x12 | .bladeFormat => 0x20 | .bladeLift => 0x21
  | .bladeShape => 0x22 | .bladeAnchor => 0x23 | .bladeAbsent => 0x24 | .bladeLane => 0x25 | .chainReserved => 0x30
  | .chainOrder => 0x31 | .chainLedger => 0x32 | .chainBuffer => 0x33 | .chainShape => 0x34 | .chainSource => 0x35

/-- The fault with the lowest code among those whose condition holds (R666). -/
def lowestFault (cs : List (Plan × Bool)) : Option Plan :=
  cs.foldl (fun best c =>
    if c.2 then match best with
      | none => some c.1
      | some b => if c.1.code < b.code then some c.1 else some b
    else best) none

/-- The fault that a unit reports: the lowest that the check finds, else the lowest that the execution finds (R666). -/
def checkFault (check run : List (Plan × Bool)) : Option Plan :=
  match lowestFault check with
  | some p => some p
  | none => lowestFault run

/-! ## Admission completions (R497, R501) -/

/-- Completion kinds of Table 11-5's completion entry. -/
inductive AdmitKind where
  | joined | left | refused
deriving DecidableEq, Repr

/-- The encoding of byte 16 of a completion. -/
def AdmitKind.code : AdmitKind → Nat
  | .joined => 1 | .left => 2 | .refused => 3

/-- The index that the module owns of a ring in host memory (R460, R497): the consumer index of a sample or request ring,
the producer index of a completion ring. It is 0 before the first use. -/
def State.ringIndex (s : State) (ring : Nat) : Nat := sparseGet 0 s.rings ring

/-- The module writes its index of a ring: at byte 0 of the control block where it produces, at byte 64 where it consumes. -/
def State.setRingIndex (s : State) (ring off v : Nat) : State :=
  { s with rings := sparseSet 0 s.rings ring (wrap64 v) }.emit
    { kind := .hostWrite, fields := [(ring + off : Nat)], bytes := leBytes 8 (wrap64 v) }

/-- The module writes a completion entry into the completion ring and advances its producer index (R460, R497). -/
def State.complete (s : State) (a : AdmitArg) (rid : Nat) (k : AdmitKind) (status slot ageUs : Nat) : State :=
  let i := s.ringIndex a.cq
  let bytes := leBytes 8 rid ++ leBytes 8 s.stamp ++ leBytes 1 k.code ++ leBytes 1 status ++ leBytes 1 slot ++ [0]
    ++ leBytes 4 ageUs ++ leBytes 8 0
  (s.emit { kind := .hostWrite, fields := [(a.cq + 4096 + 32 * (i % 2 ^ a.kcq) : Nat)], bytes := bytes }).setRingIndex a.cq 0 (i + 1)

/-- A Heat that ends completes every sequence LEFT with ST-75 and frees its slots and pages (R501). -/
def State.endSequences (s : State) (h : Fin 64) : State :=
  match s.heats[h].admission with
  | none => s
  | some a =>
    let acc := s.accOf h
    let s := (List.range 128).foldl (fun s k =>
      let at_ := a.stab + 64 * k
      if (s.load1 acc at_).toNat = 0 then s
      else
        let rid := s.loadNat acc (at_ + 8) 8
        (if s.writable acc at_ 1 then s.store1 acc at_ 0 else s).complete a rid .left 0x75 k 0) s
    s.onHeat h fun x => { x with admission := none, pages := [] }

/-! ## The end of a Heat -/

/-- A Heat that ends releases the shared semaphores it holds (R492): value plus 1, holder cleared, unparked, EV-7033
with the semaphore as a field names it (R204). A value of 2³² − 1 stays as it is, as a post leaves it (R235). -/
def State.releaseShared (s : State) (h : Fin 64) : State :=
  let c := crewOf h
  (List.range 64).foldl (fun s k =>
    if sparseGet 0 s.crews[c].holders k = h.val + 1 then
      (s.onCrew c fun x => { x with
        sems := sparseSet 0 x.sems k (min (2 ^ 32 - 1) (sparseGet 0 x.sems k + 1))
        holders := sparseSet 0 x.holders k 0
        parked := sparseSet 0 x.parked k 0 }).raiseHeat h 0x7033 [256 + k]
    else s) s

/-- The claims of a Heat on pin entries are dropped (R311, R312): an entry whose last claim goes is freed, or, while it is
PROMOTING, is freed when its fetch ends. -/
def dropClaims (ps : List PinEntry) (crew heat : Nat) : List PinEntry :=
  (ps.map fun p => if p.crew = crew then { p with claims := p.claims.filter (· != heat) } else p).filter fun p =>
    !(p.claims.isEmpty && p.resident)

/-- The Heat of a Crew that the scheduler restores next (R483): highest priority, earliest save completion, lowest
context number. -/
def State.nextHeat (s : State) (c : Fin 4) : Option (Fin 64) :=
  (List.finRange 64).foldl (fun best h =>
    let x := s.heats[h]
    if crewOf h = c ∧ x.status = .preempted ∧ !x.held ∧ x.restoring.isNone then
      match best with
      | none => some h
      | some b =>
        let pb := s.entry (0x7300 + b.val) 6
        let ph := s.entry (0x7300 + h.val) 6
        let tb : Nat := (s.heats[b].save.map (·.completedAt)).getD 0
        let th : Nat := (x.save.map (·.completedAt)).getD 0
        if pb < ph ∨ (pb = ph ∧ th < tb) then some h else some b
    else best) none

/-- Whether a Heat of the Crew is RUNNING, or is being restored. -/
def State.crewBusy (s : State) (c : Fin 4) : Bool :=
  (List.finRange 64).any fun h => crewOf h == c && (s.heats[h].status == .running || s.heats[h].restoring.isSome)

/-- While no Heat of the Crew is RUNNING, the scheduler starts to restore the chosen Heat at once (R482, R483). -/
def State.schedule (s : State) (c : Fin 4) : State :=
  if s.crewBusy c ∨ s.crews[c].state = .stopped ∨ s.crews[c].state = .scrub then s
  else match s.nextHeat c with
    | none => s
    | some h => s.onHeat h fun x => { x with restoring := some s.clock.now }

/-- A window that ends with its Heat (R251): a layer that is being fetched lands as a plain move and posts nothing. -/
def Engine.dropWindow (e : Engine) (w : WindowRun) : Engine :=
  let rest := e.queue.started.filter (· != w.item)
  let q := { w.item with csem := 511 }
  let layer := fun (m : MoveRun) => w.fetching == some m.order
  { e with
    window := none
    moves := e.moves.map fun m => if layer m then { m with item := q, layer := false } else m
    queue := { e.queue with started := if e.moves.any layer then rest ++ [q] else rest } }

/-- An exchange window that waited longer than 0x2030.02 ns raises EV-2021 (R457). -/
def State.lateExchange (s : State) (h : Fin 64) (l : Fin 4) (sem since w : Nat) : State :=
  if s.entry 0x2030 2 < w then s.raiseHeat h 0x2021 [h.val, l.val, sem, s.stampAt since, w] else s

/-- What an exchange window that waited `w` ns is counted as (R457): the entries of the Heat, the Erg signal, EV-2021. -/
def State.countExchange (s : State) (h : Fin 64) (l : Fin 4) (sem since w : Nat) : State :=
  (((s.bump (0x2100 + h.val) 5 w).bump (0x2100 + h.val) 4 1).feed 4 h.val w).lateExchange h l sem since w

/-- How long the present stop of lane `l` has lasted: up to now, or up to the save that has stopped it, and before earlier saves
(R239, R241). -/
def State.stopTime (s : State) (h : Fin 64) (l : Fin 4) (since : Nat) : Nat :=
  let x := s.heats[h]
  (s.lane h l).waited + if x.status = .preempted then 0
    else match x.request.bind (·.save) with
      | some (t, _) => t - since
      | none => s.clock.now - since

/-- A stop that lasted `w` ns is counted: slots waiting (0x72hh.08) or stalled (0x72hh.07), and the slip of an exchange window. -/
def State.countStop (s : State) (h : Fin 64) (l : Fin 4) (w : Nat) : State :=
  match (s.lane h l).stop with
  | .waiting sem _ _ xwin _ since _ =>
    let s := s.bump (0x7200 + h.val) 8 (issueSlots w)
    if xwin ∧ 0 < w then s.countExchange h l sem since w else s
  | .fenced _ _ => s.bump (0x7200 + h.val) 8 (issueSlots w)
  | .stalled _ _ _ => s.bump (0x7200 + h.val) 7 (issueSlots w)
  | _ => s

/-- Since when a stopped lane waits or stalls. -/
def LaneStop.since : LaneStop → Nat
  | .waiting _ _ _ _ _ t _ => t
  | .fenced _ t => t
  | .stalled _ _ t => t
  | _ => 0

/-- The waits and stalls of a Heat that ends are counted up to its end (R253). -/
def State.settleLanes (s : State) (h : Fin 64) : State :=
  (List.finRange 4).foldl (fun s l => s.countStop h l (s.stopTime h l (s.lane h l).stop.since)) s

/-- A Heat enters DONE, FAULTED or IDLE: its waits are counted, its lanes stop, its waiting instructions are discarded, its windows end, its
shared semaphores, pin claims and sequences are released, and the Crew passes on (R251, R312, R322, R483, R492, R501). -/
def State.endHeat (s : State) (h : Fin 64) (st : HeatStatus) : State :=
  let c := crewOf h
  let s := ((s.settleLanes h).discardQueued h).releaseShared h
  let s := s.endSequences h
  let s := { s with
    dies := s.dies.map fun (d : Die) => { d with pins := dropClaims d.pins c.val (h.val % 16) }
    engines := s.engines.map fun (e : Engine) =>
      match e.window with
      | some w => if w.item.heat = h then e.dropWindow w else e
      | none => e }
  let s := s.onHeat h fun x => { x with
    status := st, request := none, services := [], restoring := none, restored := false
    lanes := x.lanes.map fun (l : Lane) => { l with stop := .halted, waited := 0 } }
  s.schedule c

/-- Raise an event of a Blade on behalf of a Heat. -/
def State.raiseBlade (s : State) (n : Fin 4) (h : Fin 64) (code : Nat) (payload : List Int) : State :=
  s.raiseOn (dieOf 2 n.val)
    { ts := s.stamp, code := code, unit := 1, index := n.val, crew := (crewOf h).val, heat := h.val, payload := payload }

/-- A plan fault (R251): the Heat enters FAULTED, its entries and the event take the code, lane, address and timestamp.
Codes 0x20 to 0x35 raise EV-3031, every other code EV-7031; a fault that Blade `n` finds names the Blade (R141). A Heat
that is not RUNNING or PREEMPTED is not faulted again. -/
def State.faultFrom (s : State) (n : Option (Fin 4)) (h : Fin 64) (l : Fin 4) (pc : Nat) (p : Plan) : State :=
  if s.heats[h].status = .running ∨ s.heats[h].status = .preempted then
    let s := s.onHeat h fun x => { x with faultCode := p.code, faultLane := l.val, faultPc := pc, faultTs := s.stamp }
    let code := if 0x20 ≤ p.code then 0x3031 else 0x7031
    let s := match n with
      | some n => s.raiseBlade n h code [p.code, h.val, l.val, pc]
      | none => s.raiseHeat h code [p.code, h.val, l.val, pc]
    s.endHeat h .faulted
  else s

@[inherit_doc State.faultFrom] def State.faultHeat (s : State) (h : Fin 64) (l : Fin 4) (pc : Nat) (p : Plan) : State :=
  s.faultFrom none h l pc p

/-! ## Semaphores (R204, R235 to R238) -/

/-- The number of a shared semaphore, from its field value 256 to 319. -/
def sharedOf (sem : Nat) : Option Nat := if 256 ≤ sem ∧ sem ≤ 319 then some (sem - 256) else none

/-- The value of a semaphore of a Heat or of its Crew. -/
def State.sem (s : State) (h : Fin 64) (sem : Nat) : Nat :=
  match sharedOf sem with
  | some k => sparseGet 0 s.crews[crewOf h].sems k
  | none => sparseGet 0 s.heats[h].sems sem

/-- Write a semaphore. -/
def State.setSem (s : State) (h : Fin 64) (sem v : Nat) : State :=
  match sharedOf sem with
  | some k => s.onCrew (crewOf h) fun x => { x with sems := sparseSet 0 x.sems k v }
  | none => s.onHeat h fun x => { x with sems := sparseSet 0 x.sems sem v }

/-- A post (R235): adds `n`; one that would pass 2³² − 1 faults the poster's Heat with SEM_OVERFLOW and changes nothing. -/
def State.post (s : State) (h : Fin 64) (l : Fin 4) (pc sem n : Nat) : State :=
  if s.sem h sem + n < 2 ^ 32 then s.setSem h sem (s.sem h sem + n) else s.faultHeat h l pc .semOverflow

/-- The completion post of an instruction: 511 means none (R204). -/
def State.postItem (s : State) (q : QItem) : State :=
  if q.csem = 511 then s else s.post q.heat q.lane q.pc q.csem 1

/-- Whether a semaphore field is out of range (R204). -/
def semBad (completion : Bool) (sem : Nat) : Bool := 320 ≤ sem && !(completion && sem == 511)

/-- Whether a shared semaphore is parked by a Heat other than `h` (R238). -/
def State.parkedForOther (s : State) (h : Fin 64) (sem : Nat) : Bool :=
  match sharedOf sem with
  | none => false
  | some k => sparseGet 0 s.crews[crewOf h].parked k != 0 && sparseGet 0 s.crews[crewOf h].holders k != h.val + 1

/-- The key of a semaphore among Marshal's instances, one per semaphore (R429). -/
def semKey (h : Fin 64) (sem : Nat) : Nat :=
  match sharedOf sem with
  | some k => 2 ^ 16 + 64 * (crewOf h).val + k
  | none => 256 * h.val + sem

/-- Whether a Heat's lanes may act: it is RUNNING, and no save has stopped them (R484). -/
def Heat.acting (x : Heat) : Bool := x.status == .running && x.request.all (·.save.isNone)

/-- Whether every lane has stopped at a CT_PMARK, SY_FRAME or CT_STEP for a pending request (R484). -/
def Heat.lanesStopped (x : Heat) : Bool :=
  x.lanes.toList.all fun l => match l.stop with
    | .atPmark | .halted | .closing _ _ => true
    | _ => false

/-- Whether a save holds back what the Heat has not started: its windows stop between layers (R322, R485) and its queued collectives
stay queued (R381). A request is pending and its lanes have stopped, or a save has begun. -/
def Heat.savesWork (x : Heat) : Bool := x.request.any fun r => r.save.isSome || x.lanesStopped

/-- When the last lane stops for a pending request, that time is kept: the time of the save runs from it (0x73hh.0D). -/
def Heat.noteStop (x : Heat) (t : Nat) : Heat :=
  if x.lanesStopped then { x with request := x.request.map fun r => { r with stopped := some (r.stopped.getD t) } } else x

/-- A lane stops where a pre-emption request may find it (R484). -/
def State.stopLane (s : State) (h : Fin 64) (l : Fin 4) (f : Lane → Lane) : State :=
  (s.onLane h l f).onHeat h (·.noteStop s.clock.now)

/-- Whether lane `l` of `h` waits on the semaphore and its wait can be satisfied. -/
def State.satisfiable (s : State) (h : Fin 64) (l : Fin 4) (key : Nat) : Bool :=
  match (s.lane h l).stop with
  | .waiting sem n _ _ _ _ _ => semKey h sem == key && n ≤ s.sem h sem && s.heats[h].acting
  | _ => false

/-- The number of a lane among the requesters of a semaphore. -/
def laneCode (h : Fin 64) (l : Fin 4) : Nat := 4 * h.val + l.val

/-- The cycle of the die control clock that decides now (Table 09-14). -/
def State.controlCycle (s : State) : Nat := issueSlots s.clock.now

/-- Whether Marshal grants the semaphore to lane `l` of `h`: no satisfiable wait on it goes before (R237, R427). -/
def State.marshalGrants (s : State) (h : Fin 64) (l : Fin 4) (key : Nat) : Bool :=
  (List.finRange 64).all fun g => (List.finRange 4).all fun m =>
    !s.satisfiable g m key || (s.port key).before s.controlCycle (laneCode h l) (laneCode g m)

/-- The lanes whose wait on a semaphore can be satisfied. -/
def State.waiters (s : State) (key : Nat) : List Nat :=
  (List.finRange 64).flatMap fun g => ((List.finRange 4).filter fun m => s.satisfiable g m key).map (laneCode g)

/-- The Heat becomes the holder of a shared semaphore (R236). -/
def State.setHolder (s : State) (h : Fin 64) (sem : Nat) : State :=
  match sharedOf sem with
  | some k => s.onCrew (crewOf h) fun x => { x with holders := sparseSet 0 x.holders k (h.val + 1) }
  | none => s

/-- A granted wait (R236, R237): it consumes its count, an acquisition records its holder, the wait is counted (0x72hh.08;
R457 for an exchange window), and the lane goes on. -/
def State.grant (s : State) (h : Fin 64) (l : Fin 4) : State :=
  match (s.lane h l).stop with
  | .waiting sem n consume xwin acquire since _ =>
    let w := s.stopTime h l since
    let s := s.noteWin (semKey h sem) s.controlCycle (laneCode h l) (s.waiters (semKey h sem)) 1
    let s := if consume ∨ acquire then s.setSem h sem (s.sem h sem - n) else s
    let s := if acquire then s.setHolder h sem else s
    let s := s.bump (0x7200 + h.val) 8 (issueSlots w)
    let s := if xwin ∧ 0 < w then s.countExchange h l sem since w else s
    s.onLane h l fun x =>
      { x with pc := x.pc + 8, stop := .running, waited := 0, leftAt := if acquire then x.leftAt else s.clock.now }
  | _ => s

/-! ## Issue (R200 to R202, R250) -/

/-- Whether a lane's sequencer issues the instruction at its program counter: the Heat RUNS and no restore is pending,
the lane is not stopped, and the program counter lies in the stream. -/
def State.canIssue (s : State) (h : Fin 64) (l : Fin 4) : Bool :=
  let x := s.lane h l
  s.heats[h].acting && x.stop == .running && x.start ≤ x.pc && x.pc < x.start + 8 * x.length

/-- An instruction issues: the lowest fault found at issue, or its effect. An instruction of a lane that cannot issue has
no effect. A fault of a BLADE names the Blade `n` (R141). -/
def State.issueOn (s : State) (n : Option (Fin 4)) (h : Fin 64) (l : Fin 4) (faults : List (Plan × Bool))
    (eff : State → State) : Host.Outcome State Fault Refusal :=
  .next (if s.canIssue h l then
    match lowestFault faults with
    | some p => s.faultFrom (if 0x20 ≤ p.code then n else none) h l (s.lane h l).pc p
    | none => eff (s.bump (0x7200 + h.val) 6 1)
  else s)

@[inherit_doc State.issueOn] def State.issue (s : State) (h : Fin 64) (l : Fin 4) (faults : List (Plan × Bool))
    (eff : State → State) : Host.Outcome State Fault Refusal := s.issueOn none h l faults eff

/-- The lane goes on to the next instruction. -/
def State.nextPc (s : State) (h : Fin 64) (l : Fin 4) : State := s.onLane h l fun x => { x with pc := x.pc + 8 }

/-- The faults of a named descriptor that are found at issue (R206): out of range, of the wrong kind. -/
def State.descFaults (s : State) (h : Fin 64) (d kind : Nat) : List (Plan × Bool) :=
  [(.descRange, decide (s.heats[h].header.dcount ≤ d)), (.descKind, s.kindOf h d != kind)]

/-- The faults of a handle inside a descriptor (R206, R212): range, kind, reserved bits. -/
def State.innerFaults (s : State) (h : Fin 64) (d kind : Nat) (ok : Nat → Bool) : List (Plan × Bool) :=
  let inRange := decide (d < s.heats[h].header.dcount)
  [(.descRange, !inRange), (.descKind, inRange && s.kindOf h d != kind),
   (.descReserved, inRange && s.kindOf h d == kind && !ok (s.descOf h d))]

/-- Whether unit `i` is in a unit mask entry of the Heat's Crew. -/
def State.crewHas (s : State) (h : Fin 64) (sub i : Nat) : Bool := bitOf (s.entry (0x7000 + (crewOf h).val) sub) i

/-- Whether a Heat reaches a Blade's buffers (R34): the Blade is enabled and of its Crew. -/
def State.reachesBlade (s : State) (h : Fin 64) (blade : Nat) : Bool := bitOf s.bladeMap blade && s.crewHas h 1 blade

/-- Bits `k` of the reserved part of a word are not all zero (R13). -/
def rsvBad {k : Nat} (r : BitVec k) : Plan × Bool := (.insnReserved, r != 0)

/-- Whether a lower-numbered lane of the Heat is stopped for a queue: it enters first (R202). -/
def State.yields (s : State) (h : Fin 64) (l : Fin 4) (u : UnitId) : Bool :=
  (List.finRange 4).any fun m => m < l && (match (s.lane h m).stop with
    | .stalled u' _ _ => u' == u
    | _ => false)

/-- An instruction enters its unit's queue and the lane goes on; a full queue, or a lane that enters first, stops the lane
(R202). -/
def State.enqueue (s : State) (h : Fin 64) (l : Fin 4) (u : UnitId) (op : QOp) (csem : Nat) : State :=
  let x := s.lane h l
  let q : QItem := { heat := h, lane := l, pc := x.pc, op := op, csem := csem, tref := max x.openedAt x.leftAt }
  let uq := s.queue u
  if uq.waiting.length < u.depth ∧ !s.yields h l u then (s.setQueue u { uq with waiting := uq.waiting ++ [q] }).nextPc h l
  else s.onLane h l fun x => { x with stop := .stalled u q s.clock.now }

end Sys2Proof.Machine
end

