-- ==== Sys2Proof/Machine/Operands.lean ====
section
/-! DEFINITION. Tensor operands: blocks and rows in memory (R48 to R56), the ceiling in force (R108), the entry of blocks
(R77), the expansion of R149, the writing of blocks and rows. -/
namespace Sys2Proof.Machine

/-! ## Scaled blocks in memory -/

/-- A stored block as read: padding reads 0 (R53); a zero block's elements are ignored (R54, `Block.isZero`). -/
def State.readBlock (s : State) (a : Acc) (t : Tensor) (p q : Nat) : Block :=
  let (ea, xa) := t.blockAddr p q
  let bytes := s.load a ea t.blockBytes
  { exp := expOfByte (s.load1 a xa).toNat
    elems := (List.range 64).map fun i =>
      let (r, c) := t.elemCoord p q i
      if r < t.rows ∧ c < t.cols then elemAt t.fmt.width bytes i else some 0 }

/-- Writes a block: a zero block stores zeros and the byte 0x80 (R54), padding is written 0 (R53). -/
def State.writeBlock (s : State) (a : Acc) (t : Tensor) (p q : Nat) (b : Block) : State :=
  let (ea, xa) := t.blockAddr p q
  let es : List Elem := b.elems.zipIdx.map fun x =>
    let (r, c) := t.elemCoord p q x.2
    if b.isZero ∨ t.rows ≤ r ∨ t.cols ≤ c then some 0 else x.1
  (s.store a ea (packElems t.fmt.width es)).store1 a xa (byteOfExp b.exp)

/-- The blocks that a range of rows and columns of a tensor touches, in block order. -/
def Tensor.blocksIn (t : Tensor) (r0 nr c0 nc : Nat) : List (Nat × Nat) :=
  let hr := if t.shape = 0 then 1 else if t.shape = 1 then 64 else 8
  let hc := if t.shape = 0 then 64 else if t.shape = 1 then 1 else 8
  let r1 := min (r0 + nr) t.rows
  let c1 := min (c0 + nc) t.cols
  if r1 ≤ r0 ∨ c1 ≤ c0 then []
  else
    (List.range ((r1 - 1) / hr + 1 - r0 / hr)).flatMap fun i =>
      (List.range ((c1 - 1) / hc + 1 - c0 / hc)).map fun j => (r0 / hr + i, c0 / hc + j)

/-- The bytes of the blocks of a range. -/
def Tensor.blockSpans (t : Tensor) (r0 nr c0 nc : Nat) (write : Bool) : List Span :=
  (t.blocksIn r0 nr c0 nc).flatMap fun b =>
    let (ea, xa) := t.blockAddr b.1 b.2
    [{ at_ := ea, len := t.blockBytes, write := write }, { at_ := xa, len := 1, write := write }]

/-- The ceiling in force (R108): the written ceiling of a producer that is done, else the descriptor's. -/
def State.ceilingOf (s : State) (a : Acc) (t : Tensor) : Int :=
  if t.swen then
    let w := s.loadNat a t.swaddr 32
    if bitOf w 24 then s8 (bitsOf w 16 8) else t.expo
  else t.expo

/-- An element as it enters (R77) with the exponent of its block after the trim, from blocks read by `read`; a zero block
or padding has exponent `zeroExp`. `adj` is the exponent correction of R183. -/
def Tensor.enteredBy (t : Tensor) (read : Nat → Nat → Block) (ceil adj : Int) (r c : Nat) : Elem × Int :=
  if t.rows ≤ r ∨ t.cols ≤ c then (some 0, zeroExp)
  else
    let (p, q, i) := t.blockOf r c
    let b := read p q
    let e := (enterBlock (if b.isZero then b else { b with exp := b.exp + adj }) ceil).block
    if e.isZero then (some 0, zeroExp) else (e.elems.getD i (some 0), e.exp)

@[inherit_doc Tensor.enteredBy]
def State.entered (s : State) (a : Acc) (t : Tensor) (ceil adj : Int) (r c : Nat) : Elem × Int :=
  t.enteredBy (s.readBlock a t) ceil adj r c

/-- An element as stored, without the trim, with its block's exponent. -/
def State.stored (s : State) (a : Acc) (t : Tensor) (r c : Nat) : Elem × Int :=
  if t.rows ≤ r ∨ t.cols ≤ c then (some 0, zeroExp)
  else
    let (p, q, i) := t.blockOf r c
    let b := s.readBlock a t p q
    if b.isZero then (some 0, zeroExp) else (b.elems.getD i (some 0), b.exp)

/-- The expansion of R149: a WL32 working value at exponent `c − 7`. One of an SB32 operand that passes WL32 stands unbounded (DESIGN
CHOICE, log 80). -/
def expandAt (ceil : Int) (x : Elem × Int) : Elem :=
  if x.2 = zeroExp then some 0 else x.1.map fun m => shl m (x.2 - (ceil - 7)).toNat

/-- The entry of a range of blocks is counted (0x3028.05, .06); a block above the ceiling raises EV-3021 (R77), which
`ev` raises. -/
def State.countEntryBy (s : State) (t : Tensor) (read : Nat → Nat → Block) (ceil : Int) (r0 nr c0 nc : Nat)
    (ev : State → State) : State :=
  let es := (t.blocksIn r0 nr c0 nc).map fun b => enterBlock (read b.1 b.2) ceil
  let above := es.countP (·.above)
  State.raiseTimes above ((s.bump 0x3028 5 (es.countP (·.trimmed))).bump 0x3028 6 above) ev

@[inherit_doc State.countEntryBy]
def State.countEntry (s : State) (a : Acc) (t : Tensor) (ceil : Int) (r0 nr c0 nc : Nat) (ev : State → State) : State :=
  s.countEntryBy t (s.readBlock a t) ceil r0 nr c0 nc ev

/-! ## WL32 rows, MW32 and CW32 elements (R55, R58) -/

/-- A lane of a WL32 row with its row exponent. -/
def State.wlElem (s : State) (a : Acc) (t : Tensor) (r c : Nat) : Elem × Int :=
  let (ea, xa) := t.wlAddr r c
  (elemOfCode 32 (s.loadNat a ea 4), s16 (s.loadNat a xa 2))

/-- Writes a lane of a WL32 row. -/
def State.putWlElem (s : State) (a : Acc) (t : Tensor) (r c : Nat) (x : Elem) : State :=
  s.storeNat a (t.wlAddr r c).1 4 (codeOfElem 32 x)

/-- Writes the row exponent of the WL32 row that holds (r, c). -/
def State.putWlExp (s : State) (a : Acc) (t : Tensor) (r c : Nat) (e : Int) : State :=
  s.storeNat a (t.wlAddr r c).2 2 (ofSigned 16 e)

/-- An element of an MW32 or CW32 tensor, at the exponent of its descriptor. -/
def State.flatElem (s : State) (a : Acc) (t : Tensor) (r c : Nat) : Elem :=
  elemOfCode 32 (s.loadNat a (t.flatAddr r c) 4)

/-- Writes an element of an MW32 or CW32 tensor. -/
def State.putFlat (s : State) (a : Acc) (t : Tensor) (r c : Nat) (x : Elem) : State :=
  s.storeNat a (t.flatAddr r c) 4 (codeOfElem 32 x)

/-- The bytes of rows and columns of a tensor of any format. -/
def Tensor.spans (t : Tensor) (r0 nr c0 nc : Nat) (write : Bool) : List Span :=
  if t.fmt.isSB then t.blockSpans r0 nr c0 nc write
  else (List.range nr).flatMap fun i => (List.range nc).flatMap fun j =>
    if t.fmt = .wl32 then
      [{ at_ := (t.wlAddr (r0 + i) (c0 + j)).1, len := 4, write := write },
        { at_ := (t.wlAddr (r0 + i) (c0 + j)).2, len := 2, write := write }]
    else [{ at_ := t.flatAddr (r0 + i) (c0 + j), len := 4, write := write }]

/-- The bytes of the status word of a tensor, where it has one. -/
def Tensor.statusSpans (t : Tensor) (write : Bool) : List Span :=
  if t.swen then [{ at_ := t.swaddr, len := 32, write := write }] else []

/-- The status word of a tensor may be written, where the tensor has one. -/
def State.statusReach (s : State) (a : Acc) (t : Tensor) : Bool := s.reaches a (t.statusSpans true)

/-- R667: a region covers whole blocks of the grid of `t`, or ends at the tensor's last row and column. -/
def Tensor.wholeBlocks (t : Tensor) (r0 nr c0 nc : Nat) : Bool :=
  let hr := if t.shape = 0 then 1 else if t.shape = 1 then 64 else 8
  let hc := if t.shape = 0 then 64 else if t.shape = 1 then 1 else 8
  r0 % hr == 0 && c0 % hc == 0 && ((r0 + nr) % hr == 0 || r0 + nr == t.rows)
    && ((c0 + nc) % hc == 0 || c0 + nc == t.cols)

/-- The elements of block (p, q) given a function's values over the tensor: re-expressed exactly at the smallest exponent
among the elements inside the tensor (R153, R230); padding is 0 and takes no part (R53). It counts as an element that is no mark, so a
padded block of marks is no all-mark block (DEDUCED, log 74). -/
def gatherBlock (t : Tensor) (p q : Nat) (value : Nat → Nat → Elem × Int) : List Elem × Int :=
  let xs := (List.range 64).map fun i =>
    let (r, c) := t.elemCoord p q i
    if r < t.rows ∧ c < t.cols then some (value r c) else none
  let es := xs.filterMap (·.map (·.2))
  let a := es.foldl min (es.headD 0)
  (xs.map fun x => match x with
    | none => some 0
    | some (v, e) => v.map fun y => shl y (e - a).toNat, a)

end Sys2Proof.Machine
end

