-- ==== Sys2Proof/Machine/Flags.lean ====
section
/-! DEFINITION. The status that units compute beside their results: tensor status words (Table 05-6, R211), the numeric
counters of Table 02-11, row ledgers (R169 to R176), carry-flag words (Table 08-4). -/
namespace Sys2Proof.Machine

/-! ## Tensor status words -/

/-- A tensor status word (Table 05-6). -/
structure StatusWord where
  top : Int
  wceil : Int
  done : Bool
  redone : Bool
  marks : Nat
  zeros : Nat
  blocks : Nat
deriving DecidableEq, Repr

/-- Reads the 32 bytes of a status word. -/
def StatusWord.parse (n : Nat) : StatusWord :=
  { top := s16 (bitsOf n 0 16), wceil := s8 (bitsOf n 16 8), done := bitOf n 24, redone := bitOf n 25
    marks := bitsOf n 64 64, zeros := bitsOf n 128 64, blocks := bitsOf n 192 64 }

/-- The number of a status word's bytes; reserved bits are 0. -/
def StatusWord.encode (w : StatusWord) : Nat :=
  ofSigned 16 w.top + ofSigned 8 w.wceil * 2 ^ 16 + (if w.done then 2 ^ 24 else 0) + (if w.redone then 2 ^ 25 else 0)
    + wrap64 w.marks * 2 ^ 64 + wrap64 w.zeros * 2 ^ 128 + wrap64 w.blocks * 2 ^ 192

/-- The status word that CH_TOPEN sets (Table 05-6, Reset column). -/
def StatusWord.opened (ceil : Int) : StatusWord :=
  { top := topNone, wceil := ceil, done := false, redone := false, marks := 0, zeros := 0, blocks := 0 }

/-- A producer's update (R211): top and written ceiling take the maximum, the counts add. -/
def StatusWord.update (w u : StatusWord) : StatusWord :=
  { top := max w.top u.top, wceil := max w.wceil u.wceil, done := w.done, redone := w.redone || u.redone
    marks := w.marks + u.marks, zeros := w.zeros + u.zeros, blocks := w.blocks + u.blocks }

/-- The status word of a tensor as it stands in memory. -/
def State.statusOf (s : State) (a : Acc) (t : Tensor) : StatusWord := StatusWord.parse (s.loadNat a t.swaddr 32)

/-- Writes a status word. -/
def State.putStatus (s : State) (a : Acc) (t : Tensor) (w : StatusWord) : State := s.storeNat a t.swaddr 32 w.encode

/-- A producer updates the status word of its tensor, where it has one. -/
def State.updateStatus (s : State) (a : Acc) (t : Tensor) (u : StatusWord) : State :=
  if t.swen then s.putStatus a t ((s.statusOf a t).update u) else s

/-! ## Row ledgers -/

/-- The header of the ledger at an address. -/
def State.ledgerAt (s : State) (a : Acc) (addr : Nat) : Ledger := Ledger.parse (s.loadNat a addr 64)

/-- Writes contrib, state and owner of a ledger header; every other field stays as the plan wrote it (R222). -/
def State.putLedgerState (s : State) (a : Acc) (addr contrib state owner : Nat) : State :=
  ((s.storeNat a (addr + 12) 4 contrib).storeNat a (addr + 21) 1 state).storeNat a (addr + 22) 1 owner

/-- The value of S that marks a statistics row (R171). -/
def ledgerMark : Int := -(2 ^ 63)

/-- S and Q of row `r` of a statistics ledger (R171). -/
def State.statRow (s : State) (a : Acc) (addr r : Nat) : Int × Int :=
  (toSigned 64 (s.loadNat a (addr + Ledger.rowOff r) 8), toSigned 64 (s.loadNat a (addr + Ledger.rowOff r + 8) 8))

/-- S as an element: a marked row is a mark. -/
def statElem (x : Int) : Elem := if x = ledgerMark then none else some x

/-- The soft-max row entry `r` (R171). -/
def State.smaxRow (s : State) (a : Acc) (addr r : Nat) : SmaxRow :=
  let w0 := s.loadNat a (addr + Ledger.rowOff r) 8
  { m := s16 (bitsOf w0 0 16), mark := bitOf w0 16, l := s32 (s.loadNat a (addr + Ledger.rowOff r + 8) 4) }

/-- Writes a soft-max row entry and its strip entry (R179). -/
def State.putSmaxRow (s : State) (a : Acc) (addr : Nat) (led : Ledger) (r k : Nat) (x : SmaxRow) (strip : Int) : State :=
  ((s.storeNat a (addr + Ledger.rowOff r) 8 (ofSigned 16 x.m + if x.mark then 2 ^ 16 else 0)).storeNat a
    (addr + Ledger.rowOff r + 8) 8 (ofSigned 32 x.l)).storeNat a (addr + led.stripOff r k) 2 (ofSigned 16 strip)

/-- What a tile row adds to a statistics row (R172): whether it marks it (a mark element, a block below λ), and the exact sum
and sum of squares of its other written elements. -/
structure StatTerm where
  marks : Bool := false
  sum : Int := 0
  squares : Int := 0
deriving DecidableEq, Repr

@[inherit_doc StatTerm] def statTerm (lam : Int) (xs : List (Elem × Int)) : StatTerm :=
  xs.foldl (fun acc x =>
    if x.2 = zeroExp then acc
    else match x.1 with
      | none => { acc with marks := true }
      | some m =>
        if x.2 < lam then { acc with marks := true }
        else
          let v := shl m (x.2 - lam).toNat
          { acc with sum := acc.sum + v, squares := acc.squares + v * v }) {}

/-- Adds a tile row to a statistics row. The flag says that the row is newly marked. Q goes on taking the squares of a marked
row, modulo 2⁶⁴, so that no order of the contributions shows in it (R176; DEDUCED, log 69). -/
def addStat (row : Int × Int) (t : StatTerm) : (Int × Int) × Bool :=
  let q := row.2 + t.squares
  let past := decide (2 ^ 63 - 1 < (row.1 + t.sum).natAbs) || decide (2 ^ 63 - 1 < q.natAbs)
  if row.1 = ledgerMark then ((ledgerMark, toSigned 64 (ofSigned 64 q)), false)
  else if t.marks || past then ((ledgerMark, toSigned 64 (ofSigned 64 q)), true)
  else ((row.1 + t.sum, q), false)

/-- The rows of one final tile are added to a statistics ledger (R172): `rows` holds (logical row, written elements with
their block exponents). Gives the newly marked rows. -/
def State.addStatRows (s : State) (a : Acc) (addr : Nat) (lam : Int) :
    List (Nat × List (Elem × Int)) → State × List Nat
  | [] => (s, [])
  | (r, xs) :: rest =>
    let (row, new) := addStat (s.statRow a addr r) (statTerm lam xs)
    let s := (s.storeNat a (addr + Ledger.rowOff r) 8 (ofSigned 64 row.1)).storeNat a (addr + Ledger.rowOff r + 8) 8
      (ofSigned 64 row.2)
    let (s, ms) := State.addStatRows s a addr lam rest
    (s, if new then r :: ms else ms)

/-- A contribution of `groups` tiles to a ledger: contrib advances, and the ledger closes at its full count (R173,
R174). -/
def State.contribute (s : State) (a : Acc) (addr groups owner : Nat) : State :=
  let led := s.ledgerAt a addr
  let n := led.contrib + groups
  s.putLedgerState a addr n (if led.fullCount ≤ n then 1 else led.state) owner

/-! ## Carry-flag words (Table 08-4, R354, R355) -/

/-- Reads Table 08-4. -/
def CarryFlags.parse (n : Nat) : CarryFlags :=
  { aexp := s8 (bitsOf n 0 8), spill := bitOf n 8, mark := bitOf n 9, fmv := bitOf n 10, top := s16 (bitsOf n 16 16)
    fmod := bitsOf n 64 24, fts := bitsOf n 128 64 }

/-- The number of a carry-flag word's bytes; reserved bits are 0. -/
def CarryFlags.encode (w : CarryFlags) : Nat :=
  ofSigned 8 w.aexp + (if w.spill then 2 ^ 8 else 0) + (if w.mark then 2 ^ 9 else 0) + (if w.fmv then 2 ^ 10 else 0)
    + ofSigned 16 w.top * 2 ^ 16 + w.fmod % 2 ^ 24 * 2 ^ 64 + w.fts % 2 ^ 64 * 2 ^ 128

/-- The first of two first-mark fields: the earlier timestamp stays (R355). -/
def CarryFlags.firstMark (w : CarryFlags) (mod ts : Nat) : CarryFlags :=
  if w.fmv ∧ w.fts ≤ ts then w else { w with fmv := true, fmod := mod, fts := ts }

/-- The atomic update of R355: flags are ORed, top takes the maximum, the earlier first mark stays. -/
def CarryFlags.merge (w u : CarryFlags) : CarryFlags :=
  let w := if u.fmv then w.firstMark u.fmod u.fts else w
  { w with spill := w.spill || u.spill, mark := w.mark || u.mark, top := max w.top u.top }

/-- One element converted under R355: the carry word, the flags after it, 1 when it saturated. -/
def CarryFlags.convert (w : CarryFlags) (x : Elem) (a : Int) (key mod ts : Nat) : Elem × CarryFlags × Nat :=
  let (y, t, sp) := carryElem x a w.aexp key
  match x with
  | none => (y, { w.firstMark mod ts with mark := true }, 0)
  | some _ => (y, { w with top := max w.top t, spill := w.spill || sp }, if sp then 1 else 0)

/-- Merges flags into the carry-flag word at an address. -/
def State.mergeFlags (s : State) (a : Acc) (addr : Nat) (u : CarryFlags) : State :=
  s.storeNat a addr 32 ((CarryFlags.parse (s.loadNat a addr 32)).merge u).encode

end Sys2Proof.Machine
end

