-- ==== Sys2Proof/Machine/Blade.lean ====
section
/-! DEFINITION. The BLADE instruction from its check to its completion (R98 to R141, R142 to R195, R213 to R219). -/
namespace Sys2Proof.Machine

/-! ## The descriptors of a BLADE -/

/-- What a BLADE names, as read at its check (R208). A tensor that cannot be read is `none`. -/
structure BladeNames where
  prod : Product
  chain : Option Chain
  badChain : Bool
  hs : Option Tensor
  hw : Option Tensor
  ho : Option Tensor
  ha : Option (Nat × Nat)
  faults : List (Plan × Bool)
deriving DecidableEq, Repr

/-- The kind that a stage's handle must name (Table 04-3). -/
def Stage.handleKind (g : Stage) : Option Nat :=
  match g.code with
  | 0x03 | 0x14 | 0x16 => some 4
  | 0x10 => some 1
  | 0x13 => if g.sel = 0 then some 1 else none
  | _ => none

/-- Reads the descriptors of a BLADE; `none` where the product descriptor is reserved. -/
def State.bladeNames (s : State) (q : QItem) (pd : Nat) (ch : Option Nat) : Option BladeNames :=
  let h := q.heat
  match Product.parse (s.descOf h pd) with
  | none => none
  | some p =>
    let chain := ch.map fun c => Chain.read (s.descOf h c)
    let tens := fun d => s.innerFaults h d 1 fun n => (Tensor.parse n).isSome
    let stages := (chain.map (·.stages)).getD []
    some
      { prod := p, chain := chain, badChain := ch.any fun c => Chain.reserved (s.descOf h c)
        hs := s.tensor? h p.hs, hw := s.tensor? h p.hw, ho := s.tensor? h p.ho
        ha := if s.kindOf h p.ha = 5 then parseTable (s.descOf h p.ha) else none
        faults := tens p.hs ++ tens p.hw ++ tens p.ho ++ s.innerFaults h p.ha 5 (fun n => (parseTable n).isSome)
          ++ stages.flatMap fun g => match g.handleKind with
            | some 4 => s.innerFaults h g.handle 4 fun n => (parseLedgerRef n).isSome
            | some 1 => tens g.handle
            | _ => [] }

/-- The format of the streamed operand as it meets the array (R103, R214): a stored SB4 is widened to SB8. -/
def streamedFormat (stored : Format) (chain : Option Chain) : Format :=
  match chain.map (·.entryFmt) with
  | some 1 => .sb8
  | some 2 => .sb16
  | _ => if stored = .sb4 then .sb8 else stored

/-- Table 03-1: stationary and streamed format of each mode. -/
def modeFormats (mode : Nat) (w t : Format) : Bool :=
  match mode with
  | 0 => w == .sb8 && t == .sb8
  | 1 => w == .sb8 && t == .sb16
  | 2 => w == .sb4 && t == .sb8
  | 3 => w == .sb4 && t == .sb16
  | 4 => w == .sb16 && t == .sb16
  | _ => w == .sb8 && (t == .sb8 || t == .sb16)

/-- Entry cycles that a streamed row occupies (Table 03-1). -/
def Product.cyclesPerRow (p : Product) : Nat := if p.mode = 4 then 2 else 1

/-- Logical columns of a column group: 64, or 128 in SB4 × SB8 mode (R127). -/
def Product.groupCols (p : Product) : Nat := if p.mode = 2 then 128 else 64

/-- Column groups and bands of a BLADE (R127). -/
def Product.groups (p : Product) : Nat := ceilDiv p.ncol p.groupCols
@[inherit_doc Product.groups] def Product.bands (p : Product) : Nat := ceilDiv p.rows 64

/-- Region rows that a streamed row takes (R166). -/
def Product.parts (p : Product) : Nat := ceilDiv p.ncol 512

/-- Bytes of a Finish region of the BLADE's rows (R165, R166), and of its retained sums (R217). -/
def Product.regionBytes (p : Product) : Nat := p.rows * p.parts * 2050
@[inherit_doc Product.regionBytes] def Product.retainBytes (p : Product) : Nat := p.rows * p.ncol * 6

/-- The size of the Finish buffer. -/
def finishSize : Nat := 2 ^ 22

/-- Whether two byte ranges overlap. -/
def overlaps (a n b m : Nat) : Bool := a < b + m && b < a + n && n != 0 && m != 0

/-- The retain region of a HELD slot: offset and bytes. -/
def RetainSlot.range (r : RetainSlot) : Nat × Nat := (r.region * 16384, r.rows * r.ncol * 6)

/-- A retain slot and a receive slot by number. -/
def Blade.slot (b : Blade) (i : Nat) : RetainSlot := b.slots.toList.getD i {}
@[inherit_doc Blade.slot] def Blade.recvSlot (b : Blade) (i : Nat) : RecvSlot := b.recv.toList.getD i {}

/-- Whether a FRESH BLADE retains its sums (Table 05-9). -/
def retains (acc : Nat) (chain : Option Chain) : Bool :=
  acc == 1 || acc == 0 && (match chain with | none => true | some c => c.outKind == 3)

/-- The lifts of the anchor table. -/
def State.lifts (s : State) (a : Acc) (ha : Nat × Nat) (n : Nat) : List Nat := (s.load a ha.1 n).map (·.toNat)

/-- The anchors of R108. -/
def anchorsOf (cs ct : Int) (lifts : List Nat) : List Int := lifts.map fun (l : Nat) => cs + ct + (l : Int)

/-- The ceiling of the streamed operand: the entry ceiling where the chain narrows it (R151), else the ceiling in
force. -/
def State.streamedCeiling (s : State) (a : Acc) (t : Tensor) (c : Option Chain) : Int :=
  match c with
  | some c => if c.entryFmt = 0 then s.ceilingOf a t else c.cIn
  | none => s.ceilingOf a t

/-- Ledger conditions of a stage at the check of a BLADE on Blade `n` (Table 04-8; R175, R178, R182): OPEN at a consumer,
wrong kind, too few rows, chunk outside the strip, another owner. -/
def ledgerStageBad (n : Fin 4) (g : Stage) (led : Ledger) (p : Product) : Bool :=
  led.rows < p.row0 + p.rows
    || (match g.code with
      | 0x03 => led.state != 1 || led.kind != (if g.sel < 2 then 0 else 1)
      | 0x14 => led.kind != 1 || led.stripLen ≤ p.col0 / 512 || (led.owner != 0 && led.owner != n.val + 1)
      | _ => led.kind != 0)

/-- The region conditions of R167. -/
def State.bufferBad (s : State) (n : Fin 4) (acc : Nat) (p : Product) (chain : Option Chain) : Bool :=
  let held := fun skip => (s.blades[n].slots.toList.zipIdx.filter fun x => x.1.held && x.2 != skip).map (·.1.range)
  let out : Option (Nat × Nat) :=
    if (chain.map (·.outKind)) = some 2 then some (p.oreg * 16384, p.regionBytes) else none
  let own : Option (Nat × Nat) :=
    if retains acc chain then
      (if acc = 0 then some (p.rreg * 16384, p.retainBytes) else some (s.blades[n].slot p.rslot).range) else none
  let partners := ((chain.map (·.stages)).getD []).filterMap fun g =>
    if g.code = 0x12 ∨ (g.code = 0x13 ∧ g.sel = 1) then some (g.handle * 16384, p.regionBytes) else none
  let meets := fun (r : Nat × Nat) (o : Option (Nat × Nat)) => match o with
    | none => false
    | some x => overlaps r.1 r.2 x.1 x.2
  (partners ++ out.toList).any (fun r => finishSize < r.1 + r.2 || meets r own || (held 4).any fun x => overlaps r.1 r.2 x.1 x.2)
    || partners.any (fun r => meets r out)
    || (acc == 0 && (match own with
      | some r => (held p.rslot).any fun x => overlaps r.1 r.2 x.1 x.2
      | none => false))

/-- Every condition of Tables 03-7 and 04-8, R206, R209, R212, R214, R217, R667 for a BLADE at the head of the queue of
Blade `n`. -/
def State.bladeFaults (s : State) (n : Fin 4) (q : QItem) (acc : Nat) (b : BladeNames) : List (Plan × Bool) :=
  let p := b.prod
  let a := s.accOf q.heat
  let slot := s.blades[n].slot p.rslot
  let stages := (b.chain.map (·.stages)).getD []
  let outKind := (b.chain.map (·.outKind)).getD 3
  let maxCols := if p.mode = 2 then 1024 else 512
  let lifts := (b.ha.map fun t => if s.decodes a t.1 (min p.ncol t.2) then s.lifts a t (min p.ncol t.2) else []).getD []
  let anchors := match b.hw, b.hs with
    | some w, some t => anchorsOf (s.ceilingOf a w) (s.streamedCeiling a t b.chain) lifts
    | _, _ => []
  let fmtOf := fun d => (s.tensor? q.heat d).map (·.fmt)
  b.faults ++
  [(.bladeFormat, match b.hw, b.hs with
      | some w, some t => !modeFormats p.mode w.fmt (streamedFormat t.fmt b.chain)
          || !t.fmt.isSB
      | _, _ => false),
   (.bladeLift, lifts.any fun l => 31 < l),
   (.bladeShape, p.rows == 0 || 2 ^ 24 < p.rows || p.kbase % 64 != 0 || p.kn == 0 || p.ncol == 0 || 512 < p.kn
      || maxCols < p.ncol || (p.mode == 5 && (p.kn != p.ncol || !p.kaxS))
      || (match b.ha with | some t => t.2 < p.ncol | none => false)
      || (retains acc b.chain && acc == 0 && finishSize < p.rreg * 16384 + p.retainBytes)
      || (acc != 0 && slot.held && (slot.rows != p.rows || slot.ncol != p.ncol))
      || (outKind == 0 && (match b.ho with
          | some o => o.fmt.isSB && !o.wholeBlocks p.row0 p.rows p.col0 p.ncol
          | none => false))),
   (.bladeAnchor, acc != 0 && (!slot.held || (lifts.length == p.ncol && slot.anchors != anchors))),
   (.bladeAbsent, !bitOf s.bladeMap n.val || !s.crewHas q.heat 1 n.val || s.blades[n].seatTest),
   (.chainReserved, b.badChain),
   (.chainOrder, (match b.chain with
      | none => acc == 2
      | some c => !c.orderOk || (acc == 1 && c.outKind != 3) || (acc == 2 && c.outKind == 3)
          || (c.outKind == 0 && (match b.ho with | some o => !o.fmt.isSB | none => false))
          || (c.outKind == 1 && (match b.ho with | some o => o.fmt != .wl32 | none => false))
          || stages.any (fun g => g.code == 0x10 && (match fmtOf g.handle with
              | some f => f != .sb8 && f != .sb16 && f != .sb32
              | none => false))
          || stages.any (fun g => g.code == 0x13 && g.sel == 0 && (match fmtOf g.handle with
              | some f => !f.isSB
              | none => false))
          || (stages.any (·.code == 0x16) && (match b.ho with
              | some o => o.fmt != .sb8 && o.fmt != .sb4
              | none => false)))),
   (.chainLedger, stages.any fun g => g.handleKind == some 4 && (match parseLedgerRef (s.descOf q.heat g.handle) with
      | some ad => s.decodes a ad 64 && ledgerStageBad n g (s.ledgerAt a ad) p
      | none => false)),
   (.chainBuffer, s.bufferBad n acc p b.chain),
   (.chainShape, stages.any fun g => g.code == 0x14 && (p.col0 % 512 != 0 || 512 < p.ncol)),
   (.chainSource, match b.chain with
      | some c => c.source == 1 && (match (s.blades[n].recvSlot c.rslot).bound with
          | some (h, _) => h != q.heat || (s.blades[n].recvSlot c.rslot).releasing
          | none => true)
      | none => false)]

/-! ## Operands at the array edge -/

/-- Coordinates of element `k` of streamed row `i` (Table 05-8). -/
def Product.streamCoord (p : Product) (i k : Nat) : Nat × Nat :=
  if p.kaxT then (p.kbase + k, p.row0 + i) else (p.row0 + i, p.kbase + k)

/-- Coordinates of element `k` of panel column `j`; in mode 5 the vector has one row (R214). -/
def Product.panelCoord (p : Product) (j k : Nat) : Nat × Nat :=
  if p.mode = 5 then (0, p.kbase + k) else if p.kaxS then (p.col0 + j, p.kbase + k) else (p.kbase + k, p.col0 + j)

/-- Whether Catch re-blocks a line-blocked operand (R106, R107): its blocked axis is not its reduction axis. -/
def reblocks (t : Tensor) (reduceCols : Bool) : Bool := t.shape != 2 && (t.shape == 0) != reduceCols

/-- Re-blocks a row of an operand in groups of 64 along the reduction axis (R107): the row, the groups, the
saturations. -/
def reblockRow (w : Nat) : Nat → List (Elem × Int) → List (Elem × Int) × Nat × Nat
  | 0, _ => ([], 0, 0)
  | fuel + 1, xs =>
    if xs.isEmpty then ([], 0, 0)
    else
      let g := xs.take 64
      let (b, sats) := reblock g w
      let (rest, n, m) := reblockRow w fuel (xs.drop 64)
      ((b.elems.map fun e => if b.isZero then (some 0, zeroExp) else (e, b.exp)) ++ rest, n + 1, sats + m)

/-- The exponent correction of R183 for element `k` of a row: the strip entry of its chunk less M. -/
def State.smaxAdjust (s : State) (a : Acc) (addr : Nat) (led : Ledger) (r k : Nat) : Int :=
  s16 (s.loadNat a (addr + led.stripOff r (k / 512)) 2) - (s.smaxRow a addr r).m

/-- One prologue stage on a working row (R157 to R161, R183): values at exponent `e` of logical row `r`; the new values
and exponent, saturations, domain errors. -/
def State.prologueStage (s : State) (a : Acc) (g : RStage) (r : Nat) (xs : List Elem) (e : Int) :
    List Elem × Int × Nat × Nat :=
  match g.code with
  | 0x01 => (xs, if g.sel = 1 then e + s8 g.param else e, 0, 0)
  | 0x02 => (xs.map (·.map fun v => (activation g.sel v e).1), activationExp g.sel, 0, 0)
  | _ =>
    let led := s.ledgerAt a g.ledger
    if g.sel < 2 then
      let (sm, sq) := s.statRow a g.ledger r
      let ys := xs.map fun x => ledgerNorm x e led.lam (statElem sm) sq led.n led.epsM led.epsE (g.sel == 0)
      (ys.map (·.1), -20, (ys.map (·.2.1)).sum, min 1 (ys.map (·.2.2)).sum)
    else if g.sel = 2 then
      let l := (s.smaxRow a g.ledger r).l
      let ys := xs.map fun x => smaxNorm x e l
      (ys.map (·.1), -30, (ys.map (·.2.1)).sum, min 1 (ys.map (·.2.2)).sum)
    else (xs, e, 0, 0)

/-- Narrows a working row into the entry format in segments of 64 (R150): the row and the saturations. -/
def narrowRow (e cIn : Int) (w : Nat) : Nat → List Elem → List (Elem × Int) × Nat
  | 0, _ => ([], 0)
  | fuel + 1, xs =>
    if xs.isEmpty then ([], 0)
    else
      let q := quantizeSat (xs.take 64) e cIn w
      let (rest, m) := narrowRow e cIn w fuel (xs.drop 64)
      ((q.block.elems.map fun x => if q.block.isZero then (some 0, zeroExp) else (x, q.block.exp)) ++ rest, q.sats + m)

/-- A row as it enters the array, with what its entry counts: re-blocked blocks, saturations, domain errors. -/
structure EnteredRow where
  row : List (Elem × Int)
  reblocked : Nat
  sats : Nat
  domain : Nat
deriving DecidableEq, Repr

/-- Elements that a panel's reduction extent takes from an operand: whole segments of 64 where Catch re-blocks or narrows
them (R107, R150), else its own extent (R106). -/
def Product.segElems (p : Product) (whole : Bool) : Nat := if whole then 64 * ceilDiv p.kn 64 else p.kn

/-- Whether Catch takes whole segments of the streamed operand: a prologue narrows it (R150), or its blocks lie across its
reduction axis (R107). -/
def Product.streamWhole (p : Product) (t : Tensor) (chain : Option Chain) : Bool :=
  chain.any (fun c => c.entryFmt != 0) || reblocks t (!p.kaxT)

/-- Streamed row `i` (R103 to R107, R149 to R151, R183), from blocks read by `read`. Padding passes no prologue stage: it reads 0
and takes no part in a block's maximum (R53). -/
def State.streamRow (s : State) (a : Acc) (t : Tensor) (read : Nat → Nat → Block) (ceil : Int) (p : Product)
    (chain : Option Chain) (pro : List RStage) (i : Nat) : EnteredRow :=
  let r := p.row0 + i
  let realign := pro.find? fun g => g.code == 3 && 2 ≤ g.sel
  let inside := fun (k : Nat) => decide ((p.streamCoord i k).1 < t.rows ∧ (p.streamCoord i k).2 < t.cols)
  let raw := (List.range (p.segElems (p.streamWhole t chain))).map fun k =>
    let (x, y) := p.streamCoord i k
    match realign with
    | none => t.enteredBy read ceil 0 x y
    | some g =>
      let led := s.ledgerAt a g.ledger
      if (s.smaxRow a g.ledger r).mark then (none, ceil)
      else t.enteredBy read ceil (s.smaxAdjust a g.ledger led r (p.kbase + k)) x y
  match chain with
  | some c =>
    if c.entryFmt ≠ 0 then
      let st := pro.foldl (fun (acc : List Elem × Int × Nat × Nat) g =>
        let (ys, e, m, d) := s.prologueStage a g r acc.1 acc.2.1
        (ys, e, acc.2.2.1 + m, acc.2.2.2 + d)) (raw.zipIdx.filterMap fun x => if inside x.2 then some (expandAt ceil x.1) else none,
          ceil - 7, 0, 0)
      let padded := st.1 ++ List.replicate (raw.length - st.1.length) (some 0)
      let (row, m) := narrowRow st.2.1 c.cIn (if c.entryFmt = 1 then 8 else 16) (p.kn + 1) padded
      { row := row.take p.kn, reblocked := 0, sats := st.2.2.1 + m, domain := st.2.2.2 }
    else if reblocks t (!p.kaxT) then
      let (row, n, m) := reblockRow t.fmt.width (p.kn + 1) raw
      { row := row.take p.kn, reblocked := n, sats := m, domain := 0 }
    else { row := raw.take p.kn, reblocked := 0, sats := 0, domain := 0 }
  | none =>
    if reblocks t (!p.kaxT) then
      let (row, n, m) := reblockRow t.fmt.width (p.kn + 1) raw
      { row := row.take p.kn, reblocked := n, sats := m, domain := 0 }
    else { row := raw.take p.kn, reblocked := 0, sats := 0, domain := 0 }

/-- Panel column `j` (R106, R107, R114, R133). -/
def State.panelColumn (s : State) (a : Acc) (t : Tensor) (ceil : Int) (p : Product) (j : Nat) : EnteredRow :=
  let raw := (List.range (p.segElems (reblocks t p.kaxS))).map fun k =>
    let (x, y) := p.panelCoord j k
    s.entered a t ceil 0 x y
  if reblocks t p.kaxS then
    let (row, n, m) := reblockRow t.fmt.width (p.kn + 1) raw
    { row := row.take p.kn, reblocked := n, sats := m, domain := 0 }
  else { row := raw.take p.kn, reblocked := 0, sats := 0, domain := 0 }

/-! ## The weight registers (R98 to R102, R114 to R116, R133) -/

/-- Element `k` of logical panel column `c`; nothing is placed beyond the panel (R116). -/
def panelAt (cols : List (List (Elem × Int))) (c k : Nat) : Elem × Int := (cols.getD c []).getD k (some 0, zeroExp)

/-- What the cell in array column `j` and array row `k` holds: two SB4 elements, the even column in the low half (R98); the high or
the low byte of an SB16 element (R102); in mode 5 the vector on the diagonal (R133). -/
def cellCode (mode : Nat) (low : Bool) (cols : List (List (Elem × Int))) (j k : Nat) : Nat :=
  match mode with
  | 2 => codeOfElem 4 (panelAt cols (2 * j) k).1 + 16 * codeOfElem 4 (panelAt cols (2 * j + 1) k).1
  | 4 => let n := codeOfElem 16 (panelAt cols j k).1; if low then n % 256 else n / 256
  | 5 => if j = k then codeOfElem 8 (panelAt cols 0 k).1 else 0
  | _ => codeOfElem 8 (panelAt cols j k).1

/-- The octet exponent of octet `o` of logical column `c`, `zeroExp` for a zero octet (R106). -/
def octetExp (mode : Nat) (cols : List (List (Elem × Int))) (c o : Nat) : Int :=
  if mode = 5 then (if c / 8 = o then (panelAt cols 0 c).2 else zeroExp) else (panelAt cols c (8 * o)).2

/-- The octet shift: the octet exponent above the least that a rung segment can hold, its largest less 7 (R100, R109). -/
def octetShift (mode : Nat) (cols : List (List (Elem × Int))) (c o : Nat) : Nat :=
  let top := (List.range 8).foldl (fun (t : Int) i => max t (octetExp mode cols c (8 * (o / 8) + i))) zeroExp
  (octetExp mode cols c o - (top - 7)).toNat

/-- The registers of a panel with `ncol` logical columns and `kn` rows; what is not listed is 0 (R114, R116). -/
def panelSet (mode : Nat) (low : Bool) (ncol kn : Nat) (cols : List (List (Elem × Int))) : PanelSet :=
  let octets := (List.range ncol).flatMap fun c => (List.range (ceilDiv kn 8)).filterMap fun o =>
    if octetExp mode cols c o = zeroExp then none else some (c, o)
  { cells := (List.range (if mode = 2 then ceilDiv ncol 2 else ncol)).flatMap fun j => (List.range kn).filterMap fun k =>
      if cellCode mode low cols j k = 0 then none else some (512 * j + k, BitVec.ofNat 8 (cellCode mode low cols j k))
    shifts := octets.filterMap fun x =>
      if octetShift mode cols x.1 x.2 = 0 then none else some (64 * x.1 + x.2, octetShift mode cols x.1 x.2)
    exps := octets.map fun x => (64 * x.1 + x.2, octetExp mode cols x.1 x.2) }

/-- What logical column `c` meets in array row `k`: the element with its octet exponent (R100, R102). -/
def panelElem (mode : Nat) (active shadow : PanelSet) (c k : Nat) : Elem × Int :=
  let cell := fun (t : PanelSet) (j : Nat) => (sparseGet 0 t.cells (512 * j + k)).toNat
  let e := sparseGet zeroExp active.exps (64 * c + k / 8)
  if e = zeroExp then (some 0, zeroExp)
  else match mode with
    | 2 => (elemOfCode 4 (cell active (c / 2) / 16 ^ (c % 2) % 16), e)
    | 4 => (elemOfCode 16 (256 * cell active c + cell shadow c), e)
    | _ => (elemOfCode 8 (cell active c), e)

/-- The register sets after the swap token has passed (R100, R102, R115): in SB16 × SB16 mode the active set holds the
high bytes and the shadow set the low bytes. -/
def loadPanel (b : Blade) (p : Product) (cols : List (List (Elem × Int))) : Blade :=
  { b with
    active := panelSet p.mode false p.ncol p.kn cols
    shadow := panelSet p.mode (p.mode == 4) p.ncol p.kn cols }

/-! ## The array (R108 to R113, R133) -/

/-- The sum of one output element: the rungs of the panel from the top, each aligned against the anchor (R109). In mode 5
the only pair of column `j` is its own element (R133). The second part counts accumulations that left the WL48 range. -/
def rungs (seed tid anchorRow anchorCol n0 : Nat) (anchor : Int) : Nat → Nat → List Pair → Elem → Nat → Elem × Nat
  | 0, _, _, acc, m => (acc, m)
  | fuel + 1, g, ps, acc, m =>
    if ps.isEmpty then (acc, m)
    else
      let part := rungPartial (ps.take 64)
      let y := align acc part anchor (keel seed 0 tid anchorRow anchorCol (n0 + g))
      let left := acc.isSome && y.isNone && part != .mark
      rungs seed tid anchorRow anchorCol n0 anchor fuel (g + 1) (ps.drop 64) y (if left then m + 1 else m)

/-- The keel coordinates of output element (r, j) (R215). -/
def Product.keelCoord (p : Product) (i j : Nat) : Nat × Nat :=
  if p.ti then (p.col0 + j, p.row0 + i) else (p.row0 + i, p.col0 + j)

/-- The WL48 sum of streamed row `i` and panel column `j`, from a running sum of 0. -/
def arraySum (seed tid : Nat) (p : Product) (anchor : Int) (xs ws : List (Elem × Int)) (i j : Nat) : Elem × Nat :=
  let (kr, kc) := p.keelCoord i j
  let pair := fun (x w : Elem × Int) => ({ xa := x.1, ea := x.2, xw := w.1, ew := w.2 } : Pair)
  if p.mode = 5 then
    match xs[j]?, ws[j]? with
    | some x, some w =>
      rungs seed tid kr kc (p.kbase / 64 + j / 64) anchor 1 0 [pair x w] (some 0) 0
    | _, _ => (some 0, 0)
  else rungs seed tid kr kc (p.kbase / 64) anchor (p.kn + 1) 0 (List.zipWith pair xs ws) (some 0) 0

/-! ## Retained sums (R113, R217) -/

/-- The key of a retained sum. -/
def retainKey (n : Fin 4) (region ncol i j : Nat) : Nat := finishKey n.val (region * 16384 + 6 * (i * ncol + j))

/-- Reads and writes the retained sum of (row i, column j). -/
def State.retained (s : State) (n : Fin 4) (region ncol i j : Nat) : Elem :=
  elemOfCode 48 (ofLeBytes (s.cells (retainKey n region ncol i j) 6))
@[inherit_doc State.retained] def State.putRetained (s : State) (n : Fin 4) (region ncol i j : Nat) (x : Elem) : State :=
  s.setCells (retainKey n region ncol i j) (leBytes 6 (codeOfElem 48 x))

/-- Writes all the sums of a BLADE. -/
def State.putSums (s : State) (n : Fin 4) (region ncol : Nat) (sums : List (List Elem)) : State :=
  sums.zipIdx.foldl (fun s row => row.1.zipIdx.foldl (fun s x => s.putRetained n region ncol row.2 x.2 x.1) s) s

/-! ## The epilogue (R152 to R168) -/

/-- The values of one output row as it passes Finish: (element, exponent) per logical column. -/
abbrev WorkRow := List (Elem × Int)

/-- What a row's passage counts: narrowing saturations; the soft-max row after it with its rescale and saturation of L. -/
structure RowResult where
  row : WorkRow
  sats : Nat
  smax : Option SmaxResult
deriving DecidableEq, Repr

/-- One epilogue stage on one row (Table 04-4). -/
def State.epilogueStage (s : State) (a : Acc) (g : RStage) (r i : Nat) (x : RowResult) : RowResult :=
  let zip := fun (vals : List (Elem × Int)) (f : Elem × Int → Elem × Int → (Elem × Nat) × Int) =>
    let ys := List.zipWith f x.row vals
    { x with row := ys.map fun y => (y.1.1, y.2), sats := x.sats + (ys.map (·.1.2)).sum }
  match g.code with
  | 0x10 => zip (g.vals.getD 0 []) fun u b => (addAt u.1 u.2 b.1 b.2, u.2)
  | 0x11 => { x with row := x.row.map fun u => (u.1.map fun v => (activation g.sel v u.2).1, activationExp g.sel) }
  | 0x12 => zip (g.vals.getD i []) fun u v => (gateMul u.1 v.1 g.param, u.2 + v.2 + g.param)
  | 0x13 => zip (g.vals.getD i []) fun u v => (addAt u.1 u.2 v.1 v.2, u.2)
  | 0x14 =>
    let e := (x.row.head?.map (·.2)).getD 0
    let res := smaxChunk (x.row.map (·.1)) e (s.smaxRow a g.ledger r)
    { row := res.p.map fun v => (v, -30), sats := x.sats + res.sats, smax := some res }
  | _ => x

/-- Streamed row `i` through the epilogue up to E_QUANT: the narrowing of R152 where it applies, then the stages. -/
def State.workRow (s : State) (b : BladeRun) (i : Nat) : RowResult :=
  let a := s.accOf b.item.heat
  let sums := b.sums.getD i []
  let narrows := (b.chain.map (·.narrows)).getD false
  let omega := (b.chain.map (·.omega)).getD 0
  let start : RowResult :=
    if narrows then
      let ys := List.zipWith (fun v (an : Int) => narrow32 v (an - 16) omega) sums b.anchors
      { row := ys.map fun y => (y.1, omega), sats := (ys.map (·.2)).sum, smax := none }
    else { row := List.zipWith (fun v (an : Int) => (v, an - 16)) sums b.anchors, sats := 0, smax := none }
  b.stages.foldl (fun x g => s.epilogueStage a g (b.prod.row0 + i) i x) start

/-! ## Finish regions (R165, R166) -/

/-- The key of lane `c` of region row `k`, and of its exponent, in a region of `n` rows. -/
def regionLane (b : Fin 4) (reg k c : Nat) : Nat := finishKey b.val (reg * 16384 + k * 2048 + 4 * c)
@[inherit_doc regionLane] def regionExp (b : Fin 4) (reg n k : Nat) : Nat := finishKey b.val (reg * 16384 + n * 2048 + 2 * k)

/-- Reads the partner row of streamed row `i`: one (element, exponent) per logical column. -/
def State.regionRow (s : State) (b : Fin 4) (reg : Nat) (p : Product) (i : Nat) : List (Elem × Int) :=
  let n := p.rows * p.parts
  (List.range p.ncol).map fun j =>
    let k := i * p.parts + j / 512
    (elemOfCode 32 (ofLeBytes (s.cells (regionLane b reg k (j % 512)) 4)), s16 (ofLeBytes (s.cells (regionExp b reg n k) 2)))

/-- Writes an output row of out_kind 2. -/
def State.putRegionRow (s : State) (b : Fin 4) (p : Product) (i : Nat) (row : WorkRow) : State :=
  let n := p.rows * p.parts
  row.zipIdx.foldl (fun s x =>
    let k := i * p.parts + x.2 / 512
    (s.setCells (regionLane b p.oreg k (x.2 % 512)) (leBytes 4 (codeOfElem 32 x.1.1))).setCells
      (regionExp b p.oreg n k) (leBytes 2 (ofSigned 16 x.1.2))) s

/-- Writes an output row of out_kind 1. -/
def State.putWlRow (s : State) (a : Acc) (o : Tensor) (p : Product) (i : Nat) (row : WorkRow) : State :=
  row.zipIdx.foldl (fun s x =>
    (s.putWlElem a o (p.row0 + i) (p.col0 + x.2) x.1.1).putWlExp a o (p.row0 + i) (p.col0 + x.2) x.1.2) s

/-- A stage with what its handle names, as the check reads it (R208). -/
def State.stageRef (s : State) (h : Fin 64) (g : Stage) : StageRef :=
  { stage := g
    tensor := if g.handleKind = some 1 then s.tensor? h g.handle else none
    ledger := if g.handleKind = some 4 then (parseLedgerRef (s.descOf h g.handle)).getD 0 else 0 }

/-- A stage with the operands that it reads (R162, R166); a later write does not change them. -/
def State.readStage (s : State) (n : Fin 4) (h : Fin 64) (p : Product) (x : StageRef) : RStage :=
  let a := s.accOf h
  let g := x.stage
  let base : RStage := { code := g.code, sel := g.sel, param := g.param, handle := g.handle }
  match g.code with
  | 0x10 => match x.tensor with
    | some t => { base with vals := [(List.range p.ncol).map fun j => s.stored a t 0 (p.col0 + j)] }
    | none => base
  | 0x12 => { base with vals := (List.range p.rows).map (s.regionRow n g.handle p) }
  | 0x13 =>
    if g.sel = 1 then { base with vals := (List.range p.rows).map (s.regionRow n g.handle p) }
    else match x.tensor with
      | some t => { base with vals := (List.range p.rows).map fun i =>
          (List.range p.ncol).map fun j => s.stored a t (p.row0 + i) (p.col0 + j) }
      | none => base
  | 0x03 | 0x14 | 0x16 => { base with ledger := x.ledger }
  | _ => base

end Sys2Proof.Machine
end

