-- ==== Sys2Proof/Machine/Sync.lean ====
section
/-! DEFINITION. The SYNC instructions and the events that end their waits (R235 to R241, R455 to R457). -/
namespace Sys2Proof.Machine

/-! ## Semaphores -/

/-- SY_POST (R235, R236): `sem += n`. n = 0 is a reserved value. -/
def execSyPost (h : Fin 64) (l : Fin 4) (sem : BitVec 9) (n : BitVec 16) (rsv : BitVec 27) (s : State) :
    Host.Outcome State Fault Refusal :=
  s.issue h l [rsvBad rsv, (.insnReserved, n == 0), (.semRange, semBad false sem.toNat)] fun s =>
    if s.sem h sem.toNat + n.toNat < 2 ^ 32 then (s.post h l (s.lane h l).pc sem.toNat n.toNat).nextPc h l
    else s.faultHeat h l (s.lane h l).pc .semOverflow

/-- A lane begins a wait (R236, R238): a semaphore parked by another Heat faults it; a wait that Marshal can grant is
granted at once. -/
def State.beginWait (s : State) (h : Fin 64) (l : Fin 4) (sem n : Nat) (consume xwin acquire : Bool) : State :=
  if s.parkedForOther h sem then s.faultHeat h l (s.lane h l).pc .waitOnParked
  else
    let s := s.onLane h l fun x => { x with stop := .waiting sem n consume xwin acquire s.clock.now false }
    if s.satisfiable h l (semKey h sem) && s.marshalGrants h l (semKey h sem) then s.grant h l else s

/-- SY_WAIT (R236): the lane stops until `sem ≥ n`; with consume, `sem −= n`. -/
def execSyWait (h : Fin 64) (l : Fin 4) (sem : BitVec 9) (n : BitVec 16) (consume xwin : Bool) (rsv : BitVec 25)
    (s : State) : Host.Outcome State Fault Refusal :=
  s.issue h l [rsvBad rsv, (.semRange, semBad false sem.toNat)] fun s =>
    s.beginWait h l sem.toNat n.toNat consume xwin false

/-- WAIT_SATISFIED (R237): a wait that can be satisfied, and that Marshal grants, is granted and wakes its lane. -/
def execWaitSatisfied (h : Fin 64) (l : Fin 4) (s : State) : Host.Outcome State Fault Refusal :=
  .next (match (s.lane h l).stop with
    | .waiting sem _ _ _ _ _ _ =>
      if s.satisfiable h l (semKey h sem) && s.marshalGrants h l (semKey h sem) then s.grant h l else s
    | _ => s)

/-- SY_SET (R236): a Heat semaphore takes a value; a shared one faults with SEM_RANGE. -/
def execSySet (h : Fin 64) (l : Fin 4) (sem : BitVec 9) (value : BitVec 32) (rsv : BitVec 11) (s : State) :
    Host.Outcome State Fault Refusal :=
  s.issue h l [rsvBad rsv, (.semRange, 256 ≤ sem.toNat)] fun s =>
    (s.setSem h sem.toNat value.toNat).nextPc h l

/-- SY_ACQ (R236): waits on a shared semaphore for 1, subtracts 1 and records the Heat as holder. -/
def execSyAcq (h : Fin 64) (l : Fin 4) (sem : BitVec 9) (rsv : BitVec 43) (s : State) :
    Host.Outcome State Fault Refusal :=
  s.issue h l [rsvBad rsv, (.semRange, (sharedOf sem.toNat).isNone)] fun s =>
    s.beginWait h l sem.toNat 1 true false true

/-- SY_REL (R236): adds 1 to a shared semaphore that the Heat holds and clears the holder; SEM_HOLD by another Heat,
SEM_OVERFLOW where the increment would pass 2³² − 1. -/
def execSyRel (h : Fin 64) (l : Fin 4) (sem : BitVec 9) (rsv : BitVec 43) (s : State) :
    Host.Outcome State Fault Refusal :=
  s.issue h l [rsvBad rsv, (.semRange, (sharedOf sem.toNat).isNone)] fun s =>
    let c := crewOf h
    let k := sem.toNat - 256
    match lowestFault [(.semOverflow, decide (2 ^ 32 ≤ s.sem h sem.toNat + 1)),
        (.semHold, sparseGet 0 s.crews[c].holders k != h.val + 1)] with
    | some p => s.faultHeat h l (s.lane h l).pc p
    | none =>
      ((s.setSem h sem.toNat (s.sem h sem.toNat + 1)).onCrew c fun x =>
        { x with holders := sparseSet 0 x.holders k 0 }).nextPc h l

/-- WAIT_WATCHDOG (R239): a wait longer than 0x7100.01 raises EV-7030 once and continues. The event happens at the
instant at which the limit passes; what the wait lasted before a save counts, and a saved wait does not go on. -/
def execWaitWatchdog (h : Fin 64) (l : Fin 4) (s : State) : Host.Outcome State Fault Refusal :=
  .next (match (s.lane h l).stop with
    | .waiting sem n consume xwin acquire since false =>
      if !s.heats[h].acting then s else
      let s := s.advanceTo (since + s.entry 0x7100 1 * 1000 + 1 - (s.lane h l).waited)
      (s.onLane h l fun x => { x with stop := .waiting sem n consume xwin acquire since true }).raiseHeat h 0x7030
        [h.val, l.val, sem]
    | _ => s)

/-! ## Fences -/

/-- Whether an instruction belongs to the units that a fence masks: bit 0 the lane's Blades, 1 Sculls, 2 Launch
engines, 3 Relay (Table 05-14). -/
def QItem.masked (q : QItem) (mask : Nat) : Bool :=
  match q.op with
  | .scull _ _ => bitOf mask 1
  | .launch 3 _ => bitOf mask 3
  | .launch _ _ => bitOf mask 2
  | _ => bitOf mask 0

/-- Whether some instruction that satisfies `p` is still in a queue. -/
def State.outstanding (s : State) (p : QItem → Bool) : Bool := allUnits.any fun u => (s.queue u).holds p

/-- Whether the fence of a lane holds: every instruction it issued to the masked units has completed (R236). -/
def State.fenceClear (s : State) (h : Fin 64) (l : Fin 4) (mask : Nat) : Bool :=
  !s.outstanding fun q => q.heat == h && q.lane == l && q.masked mask

/-- Lanes of a Heat whose fence holds go on; the slots that they waited are counted (0x72hh.08). -/
def State.wakeFences (s : State) (h : Fin 64) : State :=
  (List.finRange 4).foldl (fun s l =>
    match (s.lane h l).stop with
    | .fenced mask since =>
      if s.fenceClear h l mask then
        (s.bump (0x7200 + h.val) 8 (issueSlots (s.stopTime h l since))).onLane h l fun x =>
          { x with pc := x.pc + 8, stop := .running, waited := 0 }
      else s
    | _ => s) s

/-- SY_FENCE (R236): the lane stops until every instruction that it issued to the masked units has completed. -/
def execSyFence (h : Fin 64) (l : Fin 4) (mask : BitVec 4) (rsv : BitVec 48) (s : State) :
    Host.Outcome State Fault Refusal :=
  s.issue h l [rsvBad rsv] fun s =>
    (s.onLane h l fun x => { x with stop := .fenced mask.toNat s.clock.now }).wakeFences h

/-! ## Frames (R240, R241, R455, R456) -/

/-- SY_FRAME (R240): the lane closes its frame. Reached while another lane waits at CT_STEP, it faults with ILLEGAL
(R247). -/
def execSyFrame (h : Fin 64) (l : Fin 4) (join : Bool) (rsv : BitVec 51) (s : State) :
    Host.Outcome State Fault Refusal :=
  s.issue h l [rsvBad rsv,
      (.illegal, (List.finRange 4).any fun m => (s.lane h m).stop == .closing true true)] fun s =>
    s.stopLane h l fun x => { x with stop := .closing join false }

/-- Instructions that a frame waits for: all but LA_WINDOW, LA_RELAY and LA_HINT (R240). -/
def QItem.inFrame (q : QItem) : Bool :=
  match q.op with
  | .launch 1 _ => true
  | .launch _ _ => false
  | _ => true

/-- Every instruction that the lane issued in its frame has completed (R240, first condition). -/
def State.frameWorkDone (s : State) (h : Fin 64) (l : Fin 4) : Bool :=
  !s.outstanding fun q => q.heat == h && q.lane == l && q.inFrame

/-- A lane stands at a joining SY_FRAME or CT_STEP of frame `f`. -/
def Lane.atJoin (x : Lane) (f : Nat) : Bool :=
  match x.stop with
  | .closing join _ => join && x.frame == f
  | _ => false

/-- Every lane of the Heat has reached a joining SY_FRAME or CT_STEP of frame `f` (R240): now, or when another lane passed its
own. -/
def State.joined (s : State) (h : Fin 64) (f : Nat) : Bool :=
  s.heats[h].joinedFrame == some f ||
    (List.finRange 4).all fun m => s.heats[h].header.lanes.length ≤ m.val || (s.lane h m).atJoin f

/-- What a frame's close adds to the telemetry period (Table 09-13): the smallest slack, the overruns. -/
def State.noteSlack (s : State) (slack : Int) (overrun : Bool) : State :=
  { s with telem := { s.telem with slack := min s.telem.slack slack, overruns := s.telem.overruns + if overrun then 1 else 0 } }

/-- The measures at the close of a frame (R241, R455, R456): slack, overrun, budget miss. -/
def State.closeFrame (s : State) (h : Fin 64) (l : Fin 4) : State :=
  let x := s.lane h l
  let t := s.clock.now
  let due := s.edgeAfter x.openedAt
  let slack : Int := (due : Int) - s.slotLength - t
  let s := if x.budget * 10 < t - x.openedAt then s.bump (0x7200 + h.val) 0xB 1 else s
  let s := if l.val = 0 then s.setEntry (0x2100 + h.val) 6 (ofSigned 32 slack) else s
  let s := (s.feed 3 (4 * h.val + l.val) slack).noteSlack slack (due < t)
  if due < t then
    let excess := t - due
    let s := ((s.bump (0x2100 + h.val) 1 1).bump 0x2030 1 1).bump (0x2100 + h.val) 2 excess
    let s := if s.entry (0x2100 + h.val) 3 < excess then s.setEntry (0x2100 + h.val) 3 excess else s
    s.raiseHeat h 0x2020 [h.val, l.val, x.frame, s.strokeAt due, excess]
  else s

/-- FRAME_WORK_END (R240, R455): when the lane's closing SY_FRAME has its work done, and its join with it, the slack or
overrun is measured. The next frame opens at the next edge, or at once when the due edge has passed. A lane that a
pending pre-emption request holds at its SY_FRAME stays there (R484). -/
def execFrameWorkEnd (h : Fin 64) (l : Fin 4) (s : State) : Host.Outcome State Fault Refusal :=
  .next (match (s.lane h l).stop with
    | .closing join false =>
      let x := s.lane h l
      if s.heats[h].status = .running ∧ s.heats[h].request = none ∧ s.frameWorkDone h l
          ∧ (join = false ∨ s.joined h x.frame) then
        let late := decide (s.edgeAfter x.openedAt < s.clock.now)
        let s := s.closeFrame h l
        let s := if join then s.onHeat h fun y => { y with joinedFrame := some x.frame } else s
        s.onLane h l fun x =>
          if late then { x with pc := x.pc + 8, frame := x.frame + 1, openedAt := s.clock.now, stop := .running }
          else { x with pc := x.pc + 8, stop := .unopened (x.frame + 1) }
      else s
    | _ => s)

end Sys2Proof.Machine
end

