-- ==== Sys2Proof/Machine/Wire.lean ====
section
/-! DEFINITION. Sweeps, credits and the sending of words and frames (R396 to R415, R427 to R430). -/
namespace Sys2Proof.Machine

/-! ## Coordinates (R26, R27, R337) -/

/-- Coordinate on axis `a` (0 x, 1 y, 2 z) of a module id. -/
def coordOf (id a : Nat) : Nat := bitsOf id (12 - 6 * a) 6

/-- The Boat id of a module id. -/
def boatOf (id : Nat) : Nat := bitsOf id 18 6

/-- The module id with another coordinate on axis `a`. -/
def withCoord (id a v : Nat) : Nat := id - coordOf id a * 2 ^ (12 - 6 * a) + v % 64 * 2 ^ (12 - 6 * a)

/-- Coordinates identify a module; the Boat id is a tag (R27). -/
def sameModule (a b : Nat) : Bool := a % 2 ^ 18 == b % 2 ^ 18

/-- Origin, extent and position on axis `a` of the slice of Crew `c` (R337). -/
def State.sliceOrigin (s : State) (c a : Nat) : Nat := s.entry (0x6100 + c) (1 + a)
@[inherit_doc State.sliceOrigin] def State.sliceExtent (s : State) (c a : Nat) : Nat := s.entry (0x6100 + c) (4 + a)
@[inherit_doc State.sliceOrigin] def State.slicePos (s : State) (c a : Nat) (id : Nat) : Int :=
  (coordOf id a : Int) - s.sliceOrigin c a

/-- The module at signed distance `d` on axis `a` of the slice of Crew `c` (R340, R630). -/
def State.moduleAlong (s : State) (c a : Nat) (d : Int) : Nat :=
  let n := max 1 (s.sliceExtent c a)
  withCoord s.moduleId a (s.sliceOrigin c a + ((s.slicePos c a s.moduleId + d) % (n : Int)).toNat)

/-- Axis and sign of a role or buddy direction (0x52ss.01): 1 x+ … 6 z−. -/
def axisOfRole (r : Nat) : Nat := (r - 1) / 2
@[inherit_doc axisOfRole] def signOfRole (r : Nat) : Int := if r % 2 = 1 then 1 else -1

/-- The Sweep that serves a direction of an axis for Relay (0x6000.05 to .0A). -/
def State.axisSweep (s : State) (a : Nat) (minus : Bool) : Nat := s.entry 0x6000 (5 + 2 * a + if minus then 1 else 0)

/-! ## Sweeps (R412, R413) -/

/-- The Oarlocks of a Sweep. -/
def State.sweepOars (s : State) (w : Nat) : List (Fin 24) :=
  (List.finRange 24).filter fun o => s.entry (0x5100 + o.val) 3 == w

/-- The peer that the Oarlocks of a Sweep show. -/
def State.sweepPeer (s : State) (w : Nat) : Option Identity := (s.sweepOars w).head?.bind fun o => s.oarlocks[o].peer

/-- 0 DOWN, 1 PARTIAL, 2 ADMITTED (R413). -/
def State.sweepStateNow (s : State) (w : Nat) : Nat :=
  let os := s.sweepOars w
  let adm := os.filter fun o => s.oarlocks[o].state == .admitted
  let same := match s.sweepPeer w with
    | none => false
    | some p => os.all fun o => s.oarlocks[o].peer.any fun q => q.module == p.module && q.sweep == p.sweep
  if !os.isEmpty && adm.length == os.length && same then 2 else if adm.isEmpty then 0 else 1

/-- Change one Oarlock, one Sweep. -/
def State.onOar (s : State) (o : Fin 24) (f : Oarlock → Oarlock) : State := { s with oarlocks := updAt s.oarlocks o f }
@[inherit_doc State.onOar] def State.onSweep (s : State) (w : Fin 12) (f : Sweep → Sweep) : State :=
  { s with sweeps := updAt s.sweeps w f }

/-- Whether the Sweep's hop is a Fleet hop (R375). -/
def State.fleetHop (s : State) (w : Nat) : Bool := (s.sweepPeer w).any fun p => boatOf p.module != boatOf s.moduleId

/-- Whether a Crew has a share of a Sweep (R494). -/
def State.hasShare (s : State) (c w : Nat) : Bool := s.entry (0x7000 + c) (0x10 + w) != 0

/-- Raise an event of an Oarlock (unit class 5) or of a Sweep (6). -/
def State.raiseOar (s : State) (o : Fin 24) (code : Nat) (payload : List Int) : State :=
  s.raiseUnit (dieOf 12 o.val) code 5 o.val payload
@[inherit_doc State.raiseOar] def State.raiseSweep (s : State) (w : Nat) (code : Nat) (payload : List Int) : State :=
  s.raiseUnit (match (s.sweepOars w).head? with
    | some o => dieOf 12 o.val
    | none => 0) code 6 w payload

/-! ## Words -/

/-- One bit of a CRC-32 with the IEEE 802.3 polynomial, least significant bit first. -/
def crcBit (c : Nat) : Nat := if c % 2 = 1 then (c / 2) ^^^ 0xEDB88320 else c / 2

/-- The CRC-32 of bytes (IEEE 802.3). -/
def crc32 (bs : List Byte) : Nat :=
  bs.foldl (fun c b => (List.range 8).foldl (fun c _ => crcBit c) (c ^^^ b.toNat)) 0xFFFFFFFF ^^^ 0xFFFFFFFF

/-- A control word other than FRAME_START (Table 09-6). A CREDIT entry holds Crew, virtual channel and count. -/
inductive CtlWord where
  | idle (status mask : Nat)
  | credit (entries : List (Nat × Nat × Nat))
  | ack (seq : Nat) (nak : Bool) (echo : Nat)
  | tick (stroke delay : Nat)
  | ready
  | notReady (ftype : Nat)
  | align
deriving DecidableEq, Repr

/-- The type of a control word. -/
def CtlWord.ctype : CtlWord → Nat
  | .idle _ _ => 2 | .credit _ => 3 | .ack _ _ _ => 4 | .tick _ _ => 5 | .ready => 6 | .notReady _ => 7 | .align => 8

/-- The content bits of a control word. -/
def CtlWord.content : CtlWord → Nat
  | .idle status mask => status % 256 * 2 ^ 240 + mask % 16 * 2 ^ 236
  | .credit es => (es.zipIdx.map fun e =>
      (2 ^ 31 + e.1.1 % 4 * 2 ^ 28 + e.1.2.1 % 4 * 2 ^ 26 + e.1.2.2 % 2 ^ 16) * 2 ^ (192 - 32 * e.2)).sum
  | .ack seq nak echo => seq % 2 ^ 32 * 2 ^ 216 + (if nak then 2 ^ 215 else 0) + echo % 2 ^ 32 * 2 ^ 176
  | .tick stroke delay => stroke % 2 ^ 40 * 2 ^ 208 + delay % 2 ^ 16 * 2 ^ 192
  | .ready => 0
  | .notReady ftype => ftype % 16 * 2 ^ 244
  | .align => 0

/-- A word with its CRC in bytes 28 to 31 (R399). -/
def withCrc (n : Nat) : Nat := n / 2 ^ 32 * 2 ^ 32 + crc32 ((beBytes 32 n).take 28)

/-- The 256 bits of a control word. -/
def CtlWord.bits (w : CtlWord) : Nat := withCrc (w.ctype * 2 ^ 248 + w.content)

/-- A control word leaves on an Oarlock: its type, its bytes. -/
def State.sendWord (s : State) (o : Fin 24) (w : CtlWord) : State :=
  s.emit { kind := .word, unit := o.val, fields := [w.ctype], bytes := beBytes 32 w.bits }

/-- The IDLE words of an Oarlock (R392, R411, Table 09-9): TRAINING in the training states, HOLD, and in ADMITTED NORMAL, or SCRUB with
the Crews of its Sweep that are in their scrub. -/
def State.idleOf (s : State) (o : Fin 24) : Option (Nat × Nat) :=
  let w := s.entry (0x5100 + o.val) 3
  let mask := ((List.finRange 4).map fun c => if s.crews[c].state == .scrub && s.hasShare c.val w then 2 ^ c.val else 0).sum
  match s.oarlocks[o].state with
  | .down | .detect | .equalise => none
  | .hold => some (2, 0)
  | .admitted => some (if mask = 0 then 0 else 3, mask)
  | _ => some (1, 0)

/-- From here on the gaps of an Oarlock's wire carry the IDLE words of its state: the first of them leaves. -/
def State.fillIdle (s : State) (o : Fin 24) : State :=
  if s.oarlocks[o].idle = s.idleOf o then s
  else
    let i := s.idleOf o
    let s := s.onOar o fun x => { x with idle := i }
    match i with
    | some (status, mask) => s.sendWord o (.idle status mask)
    | none => s

/-- The IDLE SCRUB words of the scrub of a Crew that lasted `us` µs (R411): the wire of an Oarlock of its Sweeps repeats the word at
least once per µs. One output stands for all of them; its second field is how many. -/
def State.repeatIdle (s : State) (o : Fin 24) (us : Nat) : State :=
  match s.oarlocks[o].idle with
  | some (status, mask) =>
    let w := CtlWord.idle status mask
    s.emit { kind := .word, unit := o.val, fields := [w.ctype, us], bytes := beBytes 32 w.bits }
  | none => s

/-- The sequence number that an acknowledgement names: that of the last frame accepted (R404). -/
def Oarlock.acked (x : Oarlock) : Nat := (x.rxNext + 2 ^ 32 - 1) % 2 ^ 32

/-- An ACK word leaves (R404, R405). With nak it names the expected seq. -/
def State.sendAck (s : State) (o : Fin 24) (nak : Bool) : State :=
  let x := s.oarlocks[o]
  let s := s.sendWord o (.ack (if nak then x.rxNext else x.acked) nak x.lastTs)
  s.onOar o fun x => { x with sinceAck := 0, lastAck := s.clock.now, gap := if nak then some s.clock.now else x.gap }

/-! ## Credits (R408 to R410) -/

/-- The key of a Crew's virtual channel. -/
def vcKey (crew vc : Nat) : Nat := 4 * crew + vc

/-- Whether a Sweep is one of the Crew's Sweeps that carry a role, and how many there are (R410). -/
def State.servesCrew (s : State) (crew w : Nat) : Bool := s.entry (0x5200 + w) 1 != 0 && s.hasShare crew w
@[inherit_doc State.servesCrew] def State.roleSweeps (s : State) (crew : Nat) : Nat := (List.range 12).countP (s.servesCrew crew)

/-- The credits that the buffers of a Sweep back (Table 09-7, R410): the Relay pool of the Crew, in equal parts, backs VC1
and then VC0. -/
def State.grantOf (s : State) (w crew vc : Nat) : Nat :=
  let fleet := s.fleetHop w
  let part := if s.servesCrew crew w then s.entry (0x6100 + crew) 0xA / s.roleSweeps crew / 4416 else 0
  let g1 := min (if fleet then 32 else 8) part
  match vc with
  | 0 => min (s.entry 0x5000 (if fleet then 0xC else 0xB)) (part - g1)
  | 1 => g1
  | 2 => if fleet then 128 else 16
  | _ => 2

/-- Grants what the buffers back (R409): cumulative counts that rose go out in CREDIT words, four entries each. -/
def State.topUp (s : State) (w : Fin 12) : State :=
  if s.sweeps[w].state ≠ 2 then s
  else
    let x := s.sweeps[w]
    let raised := (List.range 16).filterMap fun k =>
      let g := sparseGet 0 x.freed k + s.grantOf w.val (k / 4) (k % 4)
      if sparseGet 0 x.granted k < g then some (k, g) else none
    if raised.isEmpty then s
    else
      let s := s.onSweep w fun x => { x with granted := raised.foldl (fun m kg => sparseSet 0 m kg.1 kg.2) x.granted }
      match (s.sweepOars w.val).head? with
      | none => s
      | some o => (List.range (ceilDiv raised.length 4)).foldl (fun s i =>
          s.sendWord o (.credit (((raised.drop (4 * i)).take 4).map fun kg => (kg.1 / 4, kg.1 % 4, kg.2)))) s

/-- The buffer of a frame is free, and its credit returns (R409). -/
def State.freeCredit (s : State) (w : Fin 12) (crew vc : Nat) : State :=
  (s.onSweep w fun x => { x with
    freed := sparseSet 0 x.freed (vcKey crew vc) (sparseGet 0 x.freed (vcKey crew vc) + 1) }).topUp w

/-- The credits that the sender holds: cumulative counts modulo 65,536. -/
def Sweep.credits (x : Sweep) (crew vc : Nat) : Nat :=
  (sparseGet 0 x.peerGrant (vcKey crew vc) + 2 ^ 16 - sparseGet 0 x.spent (vcKey crew vc)) % 2 ^ 16

/-- A returned count (R409): one that is not later than the count held changes nothing. -/
def Sweep.takeGrant (x : Sweep) (crew vc count : Nat) : Sweep :=
  let old := sparseGet 0 x.peerGrant (vcKey crew vc)
  if (count + 2 ^ 16 - old) % 2 ^ 16 < 2 ^ 15 then
    { x with peerGrant := sparseSet 0 x.peerGrant (vcKey crew vc) (count % 2 ^ 16) } else x

/-! ## Link keys (R537 to R542) -/

/-- Whether this end is end A of a link (R537): the lower module id, the lower Oarlock on a tie. -/
def State.endA (s : State) (o : Fin 24) : Bool :=
  match s.oarlocks[o].peer with
  | some p => s.moduleId < p.module || (s.moduleId == p.module && o.val < p.oar)
  | none => true

/-- What belongs to end A comes first. -/
def State.aFirst (s : State) (o : Fin 24) (own peer : List Byte) : List Byte := if s.endA o then own ++ peer else peer ++ own

/-- The transcript T of an exchange (R537): the SHA-256 of both identity frames, both ENCAPS bodies and both CIPHER bodies, A's
first. -/
def State.transcript (s : State) (o : Fin 24) (k : KeyExchange) : List Byte :=
  let x := s.oarlocks[o]
  digest (s.aFirst o (x.own.getD []) x.peerId ++ s.aFirst o k.encaps (k.peerEncaps.getD []) ++ s.aFirst o k.cipher (k.peerCipher.getD []))

/-- The link secret KDF(S, "ULNK", T) (R537, R538): S is the secret encapsulated to A's key and that encapsulated to B's. -/
def State.linkSecret (s : State) (o : Fin 24) (k : KeyExchange) : List Byte :=
  let mine := beBytes 32 (Config.kemSecret k.encaps (k.peerCipher.getD [])).toNat
  let theirs := beBytes 32 (Config.kemSecret (k.peerEncaps.getD []) k.cipher).toNat
  kdf (s.aFirst o mine theirs) "ULNK" (s.transcript o k)

/-- The code of a key frame (R540, R542): an HMAC truncated to 16 bytes under KDF(link secret, "ULCF"). -/
def linkCode (secret msg : List Byte) : List Byte := (hmacSha256 (kdf secret "ULCF" []) msg).take 16

/-- The link key of a sender for a Crew (R538, R542). -/
def crewLinkKey (secret : List Byte) (module oar crew gen : Nat) (random : List Byte) : List Byte :=
  kdf secret "ULCK" (beBytes 3 module ++ beBytes 1 oar ++ beBytes 1 crew ++ beBytes 4 gen ++ random)

/-- The key under which this end seals frame `t` of a Crew (R538): from its switch counter on, that of the new secret of an in-place
re-key (R541). -/
def State.sealKey (s : State) (o : Fin 24) (c : Fin 4) (t : Nat) : List Byte :=
  let x := s.oarlocks[o]
  match x.key.filter fun k => x.state == .admitted && k.sentSwitch.any (· ≤ t) with
  | some k => crewLinkKey (s.linkSecret o k) s.moduleId o.val c.val 0 []
  | none => crewLinkKey x.secret s.moduleId o.val c.val x.crewKeys[c].gen x.crewKeys[c].random

/-! ## Frames -/

/-- Words of an authenticated frame of `plen` payload bytes, and the bytes that it holds in the replay buffer (R395). -/
def frameBytes (plen : Nat) : Nat := 32 * (2 + ceilDiv plen 32)

/-- The FRAME_START word of an authenticated frame (Table 09-4). Credits return in CREDIT words; cval is 0. -/
def WaitFrame.header (f : WaitFrame) (seq ack : Nat) : Nat :=
  1 * 2 ^ 248 + f.ftype * 2 ^ 244 + f.vc * 2 ^ 242 + f.crew * 2 ^ 240 + 2 ^ 239 + f.hops % 256 * 2 ^ 224
    + f.payload.length * 2 ^ 211 + f.origin % 2 ^ 24 * 2 ^ 184 + f.dest % 2 ^ 24 * 2 ^ 160 + seq % 2 ^ 32 * 2 ^ 128
    + f.ts % 2 ^ 64 * 2 ^ 64 + ack

/-- Bytes that the replay buffer of an Oarlock holds (R406). -/
def Oarlock.replayBytes (x : Oarlock) : Nat := (x.replay.map fun f => frameBytes f.payload.length).sum

/-- Bytes padded with zeros to whole words. -/
def padWords (bs : List Byte) : List Byte := bs ++ List.replicate (32 * ceilDiv bs.length 32 - bs.length) 0

/-- What an Oarlock sends of an authenticated frame (R395, R538): the FRAME_START word and the extension header in clear, the padded
payload encrypted, the tag. The nonce is the frame counter `t`. -/
def sealFrame (key : List Byte) (t hdr ext : Nat) (payload : List Byte) : List Byte :=
  let aad := beBytes 32 hdr ++ beBytes 16 ext
  let plain := padWords payload
  aad ++ (List.range (plain.length + 16)).map (Config.gcmAes256 key (beBytes 12 t) aad plain)

/-- A frame leaves on an Oarlock under its frame counter (R397) and enters the replay buffer. The buffer that a forwarded frame
held is free then (R410). -/
def State.transmit (s : State) (o : Fin 24) (f : WaitFrame) : State :=
  let x := s.oarlocks[o]
  let hdr := f.header x.txNext x.acked
  let wire := sealFrame (s.sealKey o (Fin.ofNat 4 f.crew) x.txNext) x.txNext hdr f.ext f.payload
  let s := s.emit { kind := .frame, unit := o.val, fields := [hdr, f.ext], bytes := wire }
  let s := s.onOar o fun x => { x with
    txNext := x.txNext + 1, sealed := x.sealed + 1
    replay := x.replay ++ [{ seq := x.txNext, hdr := hdr, ext := f.ext, payload := f.payload, wire := wire, sentAt := s.clock.now }] }
  let s := match f.held with
    | some w => s.freeCredit w f.crew f.vc
    | none => s
  let s := s.setEntry (0x8500 + o.val) 5 s.oarlocks[o].sealed
  let w := 0x5200 + s.entry (0x5100 + o.val) 3
  (s.bump w 6 1).bump w 8 f.payload.length

/-- Whether frames of a type and a Crew are stopped on an Oarlock: by the scrub of the Crew (R411), by a Crew without keys
(R543). -/
def State.crewBlocked (s : State) (o : Fin 24) (ftype crew : Nat) : Bool :=
  (ftype != 3 && s.crews[Fin.ofNat 4 crew].state == .scrub) || s.oarlocks[o].crewKeys[Fin.ofNat 4 crew].unkeyed

/-- Whether an Oarlock can take a frame now: ADMITTED, replay space, keys (a frame that follows the switch of an update which the peer
has not answered has none, R542), a share of the Sweep for DATA and PUT (R494), a credit where the type needs one. -/
def State.canSend (s : State) (w : Fin 12) (o : Fin 24) (f : WaitFrame) : Bool :=
  s.oarlocks[o].state == .admitted && s.oarlocks[o].replayBytes + frameBytes f.payload.length ≤ 524288
    && !s.crewBlocked o f.ftype f.crew && (s.oarlocks[o].crewKeys[Fin.ofNat 4 f.crew]).proposed.isNone && (f.ftype == 4 || f.ftype == 3 || s.hasShare f.crew w.val)
    && (f.ftype == 4 || 0 < s.sweeps[w].credits f.crew f.vc) && s.oarlocks[o].sealed < 2 ^ 40

/-- The key of an Oarlock's egress among Marshal's instances, and of the Relay stream selection of a Sweep and a Crew (Table 09-14). -/
def egressKey (o : Fin 24) : Nat := 2 ^ 21 + o.val
@[inherit_doc egressKey] def streamKey (w : Fin 12) (crew : Nat) : Nat := 2 ^ 23 + 4 * w.val + crew

/-- The collective direction of a ring header: tag, axis and direction. -/
def streamOf (ext : Nat) : Nat := bitsOf ext 108 12 * 8 + bitsOf ext 101 3

/-- The word of an Oarlock that is sent now, every 17/112 ns. -/
def State.wireCycle (s : State) : Nat := s.clock.now * 112 / 17

/-- Words of an authenticated frame. -/
def WaitFrame.words (f : WaitFrame) : Nat := 2 + ceilDiv f.payload.length 32

/-- The element that goes before all others. -/
def firstBy {α : Type} (before : α → α → Bool) : List α → Option α
  | [] => none
  | x :: xs =>
    match firstBy before xs with
    | none => some x
    | some y => if before x y then some x else some y

/-- The frames of a (Crew, VC) queue of a Sweep. -/
def State.vcFrames (s : State) (w : Fin 12) (k : Nat) : List WaitFrame :=
  s.sweeps[w].egress.filter fun f => f.ftype != 4 && vcKey f.crew f.vc == k

/-- The frame at the head of a (Crew, VC) queue: the oldest, on VC0 the oldest of the collective direction that Marshal selects (R429). -/
def State.vcHead (s : State) (w : Fin 12) (k : Nat) : Option WaitFrame :=
  let fs := s.vcFrames w k
  if k % 4 = 0 then
    let p := s.port (streamKey w (k / 4))
    (firstBy (p.before s.wireCycle) (fs.map fun f => streamOf f.ext)).bind fun x => fs.find? fun f => streamOf f.ext == x
  else fs.head?

/-- The head of each (Crew, VC) queue that an Oarlock of the Sweep can take. -/
def State.egressHeads (s : State) (w : Fin 12) (o : Fin 24) : List WaitFrame :=
  (List.range 16).filterMap fun k => (s.vcHead w k).filter (s.canSend w o)

/-- The frame that an Oarlock takes next: a STOP passes every requester (R430), else Marshal decides among the queues (R427). -/
def State.egressPick (s : State) (w : Fin 12) (o : Fin 24) : Option WaitFrame :=
  match s.sweeps[w].egress.find? fun f => f.ftype == 4 && s.canSend w o f with
  | some f => some f
  | none =>
    let p := s.port (egressKey o)
    firstBy (fun a b => p.before s.wireCycle (vcKey a.crew a.vc) (vcKey b.crew b.vc)) (s.egressHeads w o)

/-- Marshal's instances note the frame that an Oarlock takes. -/
def State.noteEgress (s : State) (w : Fin 12) (o : Fin 24) (f : WaitFrame) : State :=
  if f.ftype = 4 then s
  else
    let k := vcKey f.crew f.vc
    let t := s.wireCycle
    let streams := ((s.vcFrames w k).map fun f => streamOf f.ext).eraseDups
    let heads := (s.egressHeads w o).map fun f => vcKey f.crew f.vc
    let s := s.noteWin (egressKey o) t k heads f.words
    if f.vc = 0 then s.noteWin (streamKey w f.crew) t (streamOf f.ext) streams f.words else s

/-- The Oarlock of the Sweep with the least in its replay buffer among those that can take a frame; the lowest number on a
tie. -/
def State.freestOar (s : State) (w : Fin 12) : Option (Fin 24) :=
  ((s.sweepOars w.val).filter fun o => (s.egressPick w o).isSome).foldl (fun best o =>
    match best with
    | none => some o
    | some b => if s.oarlocks[o].replayBytes < s.oarlocks[b].replayBytes then some o else best) none

/-- Frames leave while an Oarlock of the Sweep can take one. The fuel is the number of frames that wait. -/
def State.pumpN (w : Fin 12) : Nat → State → State
  | 0, s => s
  | n + 1, s =>
    if s.sweeps[w].state ≠ 2 then s
    else match s.freestOar w with
      | none => s
      | some o => match s.egressPick w o with
        | none => s
        | some f =>
          let k := vcKey f.crew f.vc
          let s := (s.noteEgress w o f).onSweep w fun x => { x with
            egress := x.egress.erase f
            spent := if f.ftype = 4 then x.spent else sparseSet 0 x.spent k ((sparseGet 0 x.spent k + 1) % 2 ^ 16) }
          State.pumpN w n (s.transmit o f)

/-- Whether a frame of an ADMITTED Sweep waits for credit. -/
def State.lacksCredit (s : State) (w : Fin 12) : Bool :=
  s.sweeps[w].state == 2 && s.sweeps[w].egress.any fun f => f.ftype != 4 && s.sweeps[w].credits f.crew f.vc == 0

/-- The egress time waiting for credit, up to now (0x52ss.0A). -/
def State.settleCredit (s : State) (w : Fin 12) : State :=
  match s.sweeps[w].creditSince, s.lacksCredit w with
  | none, false => s
  | none, true => s.onSweep w fun x => { x with creditSince := some s.clock.now }
  | some t, b =>
    (s.bump (0x5200 + w.val) 0xA (s.clock.now - t)).onSweep w fun x => { x with creditSince := if b then some s.clock.now else none }

@[inherit_doc State.pumpN] def State.pump (s : State) (w : Fin 12) : State :=
  (State.pumpN w s.sweeps[w].egress.length s).settleCredit w

/-- A frame joins the egress of a Sweep and leaves as soon as it may. -/
def State.sendFrame (s : State) (w : Nat) (f : WaitFrame) : State :=
  if h : w < 12 then
    (s.onSweep ⟨w, h⟩ fun x => { x with egress := x.egress ++ [f] }).pump ⟨w, h⟩
  else s

/-! ## Windows of Relay (R348, R375) -/

/-- Whether a header and extension are of a segment of a collective direction that this module sends. -/
def State.inStreamOf (s : State) (crew stream : Nat) (ftype vc c origin ext : Nat) : Bool :=
  ftype == 1 && vc == 0 && c == crew && sameModule origin s.moduleId && streamOf ext == stream

/-- The segments of a collective direction in flight on a Sweep: those that wait to leave, and those not yet acknowledged. -/
def State.inFlight (s : State) (w : Fin 12) (crew stream : Nat) : Nat :=
  (s.sweeps[w].egress.countP fun f => s.inStreamOf crew stream f.ftype f.vc f.crew f.origin f.ext)
    + ((s.sweepOars w.val).map fun o => s.oarlocks[o].replay.countP fun f =>
        s.inStreamOf crew stream (bitsOf f.hdr 244 4) (bitsOf f.hdr 242 2) (bitsOf f.hdr 240 2) (bitsOf f.hdr 184 24) f.ext).sum

/-- The window of a hop: that of 0x6000.03 in a Boat, of 0x6000.04 on a Fleet hop. -/
def State.windowOf (s : State) (w : Fin 12) : Nat := s.entry 0x6000 (if s.fleetHop w.val then 4 else 3)

/-- Segments that waited for their window leave, in the order in which they came, as far as it goes; 0x62cc.05 counts them. -/
def State.openWindows (s : State) : State :=
  s.unsent.foldl (fun s x =>
    if s.inFlight x.1 x.2.crew (streamOf x.2.ext) < s.windowOf x.1 then
      (({ s with unsent := s.unsent.erase x }).bump (0x6200 + x.2.crew) 5 1).sendFrame x.1.val x.2
    else s) s

/-- A Relay segment of this module leaves within the window of its direction. -/
def State.sendSegment (s : State) (w : Nat) (f : WaitFrame) : State :=
  if h : w < 12 then State.openWindows { s with unsent := s.unsent ++ [(⟨w, h⟩, f)] } else s

/-- The credits that a receive slot holds return to the Sweeps that its frames came by (R187). -/
def State.freeSlotCredits (s : State) (crew : Nat) (sweeps : List Nat) : State :=
  sweeps.foldl (fun s w => s.freeCredit (Fin.ofNat 12 w) crew 0) s

/-! ## Paths (R373, R401) -/

/-- The first step and the length of the path to a module of the slice of a Crew: axis by axis in the order x, y, z, the
shorter way around each ring, + when both ways are equally long. `none`: the module is reached. -/
def State.route (s : State) (crew dest : Nat) : Option (Nat × Bool) × Nat :=
  (List.range 3).foldl (fun (r : Option (Nat × Bool) × Nat) a =>
    let n : Nat := max 1 (s.sliceExtent crew a)
    let d := (((coordOf dest a : Int) - coordOf s.moduleId a) % (n : Int)).toNat
    if d = 0 then r
    else
      let plus := decide (d ≤ n - d)
      (r.1.orElse fun _ => some (a, !plus), r.2 + if plus then d else n - d)) (none, 0)

end Sys2Proof.Machine
end

