-- ==== Sys2Proof/Machine/Job.lean ====
section
/-! DEFINITION. The stop of a Crew's job (R382, R383, R436, R493, R628, R639). -/
namespace Sys2Proof.Machine

/-- Causes of a STOP (Table 09-12). -/
inductive StopCause where
  | linkLost | localFault | hostStop
deriving DecidableEq, Repr

/-- The encoding of byte 4 of a STOP. -/
def StopCause.code : StopCause → Nat
  | .linkLost => 1 | .localFault => 2 | .hostStop => 3

/-- A STOP payload (Table 09-12). -/
structure StopInfo where
  origin : Nat
  crew : Nat
  cause : Nat
  oar : Nat
  epoch : Nat
  ts : Nat
deriving DecidableEq, Repr

/-- The 32 bytes of a STOP, and what they say; fields stand most significant byte first (R9). -/
def StopInfo.bytes (i : StopInfo) : List Byte :=
  beBytes 3 i.origin ++ [BitVec.ofNat 8 i.crew, BitVec.ofNat 8 i.cause, BitVec.ofNat 8 i.oar, 0, 0] ++ beBytes 4 i.epoch
    ++ beBytes 8 i.ts ++ List.replicate 12 0
@[inherit_doc StopInfo.bytes] def StopInfo.parse (bs : List Byte) : StopInfo :=
  { origin := ofBeBytes (bs.take 3), crew := (bs.getD 3 0).toNat, cause := (bs.getD 4 0).toNat
    oar := (bs.getD 5 0).toNat, epoch := ofBeBytes ((bs.drop 8).take 4), ts := ofBeBytes ((bs.drop 12).take 8) }

/-- The job epoch of a Crew (R627). -/
def State.epoch (s : State) (c : Nat) : Nat := s.entry (0xD200 + c) 2

/-- Change the Slipway of a Crew. -/
def State.onSlip (s : State) (c : Fin 4) (f : Slipway → Slipway) : State := { s with slipways := updAt s.slipways c f }

/-- The Slipway region of a Crew (0xD2cc.04). -/
def State.slipRegion (s : State) (c : Fin 4) : Option (Fin 64) :=
  if h : s.entry (0xD200 + c.val) 4 < 64 then some ⟨s.entry (0xD200 + c.val) 4, h⟩ else none

/-- A Slipway region that loses its contents loses every slot (R294, R636). -/
def State.loseSlots (s : State) (r : Fin 64) : State :=
  (List.finRange 4).foldl (fun (s : State) c =>
    if s.slipRegion c = some r then s.onSlip c fun x => { x with slots := .replicate 6 {} } else s) s

/-- The tag of a collective is OPEN no more (R343). -/
def State.closeTag (s : State) (tag : Nat) : State :=
  let v := sparseGet 0 s.tags tag
  { s with tags := sparseSet 0 s.tags tag (if bitOf v 9 then v - 2 ^ 9 else v) }

/-- Whether Relay waits for a peer: a collective of the Crew is under way, and none has work ready on this module. -/
def State.peerWaits (s : State) (c : Fin 4) : Bool :=
  let ks := s.collectives.filter fun k => crewOf k.item.heat == c
  !ks.isEmpty && ks.all fun k => k.phase != .decide && k.phase != .finished

/-- The time in which Relay waited for a peer, up to now (0x62cc.09). -/
def State.settlePeerWait (s : State) (c : Fin 4) : State :=
  match s.crews[c].peerSince, s.peerWaits c with
  | none, false => s
  | none, true => s.onCrew c fun x => { x with peerSince := some s.clock.now }
  | some t, b =>
    (s.bump (0x6200 + c.val) 9 (s.clock.now - t)).onCrew c fun x => { x with peerSince := if b then some s.clock.now else none }

/-- Relay discards the started collectives of a Crew without posting (R383, R628): their tags close. -/
def State.dropCollectives (s : State) (c : Fin 4) : State :=
  let mine := fun (k : Collective) => crewOf k.item.heat == c
  let gone := s.collectives.filter mine
  let s := gone.foldl (fun s k => s.closeTag k.d.tag) s
  State.settlePeerWait { s with
    collectives := s.collectives.filter fun k => !mine k
    unsent := s.unsent.filter fun x => x.2.crew != c.val
    relayQueues := Vector.ofFn fun h : Fin 64 =>
      if crewOf h = c then { waiting := [], started := [] } else s.relayQueues[h] } c

/-- The Slipway's part of a job stop (R628, R639): what is under way is abandoned and the slot being written is EMPTY; a
recovery command that runs fails with EV-D042. -/
def State.abandonSlipway (s : State) (c : Fin 4) : State :=
  let x := s.slipways[c]
  let failed := x.op.isSome
  let recv := match x.op with
    | some (.receive _) => true
    | _ => false
  let s := s.onSlip c fun x => { x with
    transfers := [], op := none, restore := if failed then 3 else x.restore
    slots := Vector.ofFn fun i : Fin 6 =>
      let t := x.slots[i]
      if t.state == .writing || t.state == .receiving || (recv && i == 0) then {} else t }
  let s := { s with sweeps := s.sweeps.map fun (w : Sweep) =>
    { w with egress := w.egress.filter fun f => f.ftype != 2 || f.crew != c.val || !sameModule f.origin s.moduleId } }
  let s := (List.finRange 12).foldl State.settleCredit s
  if failed then s.raise 0xD042 [c.val] else s

/-- A frame of the module itself to the neighbour on a Sweep. -/
def State.neighbourFrame (s : State) (w ftype vc crew : Nat) (payload : List Byte) : WaitFrame :=
  { ftype := ftype, vc := vc, crew := crew, hops := 1, origin := s.moduleId
    dest := ((s.sweepPeer w).map (·.module)).getD 0, ts := s.stamp, ext := 0, payload := payload }

/-- STOP frames leave on every ADMITTED Sweep in which the Crew has a share, but the one a received STOP came by (R436). -/
def State.sendStops (s : State) (c : Fin 4) (i : StopInfo) (from_ : Option Nat) : State :=
  (List.range 12).foldl (fun s w =>
    if s.sweeps[Fin.ofNat 12 w].state = 2 ∧ s.hasShare c.val w ∧ from_ ≠ some w then
      (s.bump (0x5200 + w) 0xB 1).sendFrame w (s.neighbourFrame w 4 0 c.val i.bytes)
    else s) s

/-- Every Heat of the Crew that is RUNNING or PREEMPTED ends as STOP ends it; a save or restore under way leaves its save
area invalid (R493, R628). -/
def State.endHeats (s : State) (c : Fin 4) : State :=
  (List.finRange 64).foldl (fun s h =>
    let x := s.heats[h]
    if crewOf h = c ∧ (x.status = .running ∨ x.status = .preempted) then
      let s := if x.restoring.isSome ∨ (x.request.any (·.save.isSome)) then
        s.onHeat h fun x => { x with saveValid := false, save := none } else s
      s.endHeat h .idle
    else s) s

/-- The job of Crew `c` stops (R436, R628). A Crew that is STOPPED already in this job epoch, or in its scrub, is left as it is; the
first STOP of a later epoch is noted, reported and sent on. -/
def State.stopWith (s : State) (c : Fin 4) (i : StopInfo) (from_ : Option Nat) : State :=
  let first := decide (s.crews[c].stopSeen ≠ some i.epoch)
  if (s.crews[c].state = .stopped ∧ first = false) ∨ s.crews[c].state = .scrub then s
  else
    let s := s.onCrew c fun x => { x with state := .stopped, stopSeen := some i.epoch }
    let s := (s.endHeats c).dropCollectives c
    let s := { s with blades := s.blades.map fun (b : Blade) =>
      match b.arrival with
      | some j => if crewOf j.item.heat = c ∧ (j.chain.map fun (k : Chain) => k.source) = some 1 then { b with arrival := none } else b
      | none => b }
    let s := s.abandonSlipway c
    let s := if first then
        (s.setBlob 0x5600 1 i.bytes).raiseOn 0
          { ts := s.stamp, code := 0x5021, crew := i.crew, payload := [i.origin, i.crew, i.cause, i.oar, 0, i.epoch, i.ts, 0] }
      else s
    s.sendStops c i from_

/-- A stop for a cause of this module's own. -/
def State.stopJob (s : State) (c : Fin 4) (cause : StopCause) (oar : Nat) : State :=
  s.stopWith c { origin := s.moduleId, crew := c.val, cause := cause.code, oar := oar, epoch := s.epoch c.val, ts := s.stamp }
    none

end Sys2Proof.Machine
end

