-- ==== Sys2Proof/Machine/Cache.lean ====
section
/-! DEFINITION. The cache ways, the stream trackers, the pin tables and the pack-table cache of a die (R302, R304 to
R313). -/
namespace Sys2Proof.Machine

/-- The die of an HBM channel: stacks H0 to H5 are on D0 (R29). -/
def dieOfChannel (ch : Nat) : Fin 2 := dieOf 192 ch

/-- The ways of a Crew on a die (R304): way i is bank 48 + i where the cache-way mask and the Crew's bank mask hold it. -/
def State.waysOf (s : State) (d : Fin 2) (crew : Nat) : List Nat :=
  (List.range 16).filter fun i =>
    bitOf (s.entry (0x4200 + d.val) 5) i && bitOf (s.entry (0x4200 + d.val) (crew + 1)) (48 + i)

/-- The set of a line: bits [21:8] of its module address (R305). -/
def setOfLine (line : Nat) : Nat := line % 2 ^ 14

/-- The home die of a line of a cacheable spread region that the Crew owns (R306). -/
def State.homeOf (s : State) (crew line : Nat) : Option (Fin 2) :=
  match s.regionAt (256 * line) with
  | none => none
  | some r =>
    let g := s.regions[r]
    if g.cacheable ∧ !g.pack ∧ g.owner = crew then (g.place (256 * line - g.base)).map fun p => dieOfChannel p.1 else none

/-- Whether a pin entry of the die pins a line; one that found no way stays an ordinary line (R310). -/
def Die.pinned (d : Die) (l : CacheLine) : Bool :=
  d.pins.any fun p => p.crew == l.crew && p.domain == l.domain && p.line ≤ l.line && l.line < p.line + p.lines
    && !p.out.contains l.line

/-- The lines of a Crew in the set of a line. -/
def Die.setLines (d : Die) (crew line : Nat) : List CacheLine :=
  d.lines.filter fun l => l.crew == crew && setOfLine l.line == setOfLine line

/-- The way in which a line is allocated (R307): a free way of the Crew, else the least recently used one that is not
pinned; `none` when every way is pinned. -/
def Die.victim (d : Die) (ways : List Nat) (crew line : Nat) : Option Nat :=
  let ls := d.setLines crew line
  match ways.find? fun w => ls.all (·.way != w) with
  | some w => some w
  | none =>
    ((ls.filter fun l => ways.contains l.way && !d.pinned l).foldl (fun (b : Option CacheLine) l =>
      match b with
      | none => some l
      | some m => if l.used < m.used then some l else some m) none).map (·.way)

/-- Allocates a line (R307), or answers `none` when nothing can be replaced. -/
def Die.allocate (d : Die) (ways : List Nat) (crew domain line : Nat) (pre : Bool) : Option Die :=
  (d.victim ways crew line).map fun w =>
    { d with
      lines := { line := line, domain := domain, crew := crew, way := w, used := d.useClock, prefetched := pre } ::
        d.lines.filter fun l => !(l.crew == crew && l.way == w && setOfLine l.line == setOfLine line)
      useClock := d.useClock + 1 }

/-- The line, where both tags match (R305). -/
def Die.find (d : Die) (crew domain line : Nat) : Option CacheLine :=
  d.lines.find? fun l => l.line == line && l.domain == domain && l.crew == crew

/-- Brings a line of its home die in, where it is absent and a way can take it. -/
def State.bringIn (s : State) (d : Fin 2) (crew domain line : Nat) (pre : Bool) : State :=
  if ((s.dies[d]).find crew domain line).isSome then s
  else match (s.dies[d]).allocate (s.waysOf d crew) crew domain line pre with
    | none => s
    | some x => ({ s with dies := s.dies.set d x }).bump (0x4200 + d.val) 0x12 (if pre then 1 else 0)

/-- Whether a tracker expects an access: a confirmed one the next line in its direction, another either neighbour
(R308). -/
def Tracker.expects (t : Tracker) (line : Nat) : Bool :=
  match t.up with
  | some true => line == t.line + 1
  | some false => line + 1 == t.line
  | none => line == t.line + 1 || line + 1 == t.line

/-- The stream trackers of a Crew on a die see an access (R308): an expected one confirms its tracker, which then keeps D
lines fetched ahead; a miss that none expects takes the least recently used of the Crew's 8 trackers. -/
def State.track (s : State) (d : Fin 2) (crew domain line : Nat) (miss : Bool) : State :=
  let x := s.dies[d]
  match x.trackers.find? fun t => t.crew == crew && t.expects line with
  | some t =>
    let up := line == t.line + 1
    let t' : Tracker := { line := line, crew := crew, up := some up, used := x.useClock }
    let s := s.onDie d fun x => { x with trackers := t' :: x.trackers.erase t, useClock := x.useClock + 1 }
    (List.range (s.entry (0x4300 + crew) 4)).foldl (fun s i =>
      if up ∨ i < line then
        let n := if up then line + 1 + i else line - 1 - i
        if s.homeOf crew n = some d then s.bringIn d crew domain n true else s
      else s) s
  | none =>
    if miss ∧ s.entry (0x4300 + crew) 4 ≠ 0 then
      let mine := x.trackers.filter (·.crew == crew)
      let rest := if mine.length < 8 then x.trackers
        else match mine.foldl (fun (b : Option Tracker) t =>
            match b with
            | none => some t
            | some m => if t.used < m.used then some t else some m) none with
          | some t => x.trackers.erase t
          | none => x.trackers
      s.onDie d fun x => { x with
        trackers := { line := line, crew := crew, used := x.useClock } :: rest, useClock := x.useClock + 1 }
    else s

/-- An access looks up the cache of its line's home die (R305 to R308): whether it hits, and the state. -/
def State.lookUp (s : State) (crew domain line : Nat) : Bool × State :=
  match s.homeOf crew line with
  | none => (false, s)
  | some d =>
    let x := s.dies[d]
    match x.find crew domain line with
    | some l =>
      let s := s.onDie d fun x => { x with
        lines := { l with used := x.useClock, prefetched := false } :: x.lines.erase l
        useClock := x.useClock + 1 }
      let s := (s.bump (0x4200 + d.val) 0x10 1).bump (0x4200 + d.val) 0x13 (if l.prefetched then 1 else 0)
      (true, s.track d crew domain line false)
    | none =>
      let s := (s.bump (0x4200 + d.val) 0x11 1).bringIn d crew domain line false
      (false, s.track d crew domain line true)

/-- Whether the cache of its home die holds a line (R305, R306). -/
def State.cached (s : State) (crew domain line : Nat) : Bool :=
  match s.homeOf crew line with
  | none => false
  | some d => ((s.dies[d]).find crew domain line).isSome

/-- The lines of a bank that is no cache way of their Crew any more are gone: the bank is scratch, or has left the Crew (R304). -/
def State.dropLostWays (s : State) : State :=
  { s with dies := Vector.ofFn fun d : Fin 2 =>
      { s.dies[d] with lines := s.dies[d].lines.filter fun l => (s.waysOf d l.crew).contains l.way } }

/-- A region that loses its contents or its cacheable flag leaves the cache: its lines are invalid, and every pin entry
whose range lies in it is freed (R294). -/
def State.invalidateRegion (s : State) (r : Fin 64) : State :=
  let g := s.regions[r]
  let inside := fun line => g.base ≤ 256 * line && 256 * line < g.base + g.size
  { s with dies := s.dies.map fun (d : Die) => { d with
      lines := d.lines.filter fun l => !inside l.line
      pins := d.pins.filter fun p => !inside p.line
      packLines := d.packLines.filter fun k => k / 2 ^ 32 != r.val } }

/-! ## Pins -/

/-- A pin entry overlaps a range of lines. -/
def PinEntry.overlaps (p : PinEntry) (line lines : Nat) : Bool := p.line < line + lines && line < p.line + p.lines

/-- The new pin entry of R310, step 3: its lines are fetched; a line whose set has all of the Crew's ways pinned is counted
in 0x420d.15 and stays out. -/
def State.promote (s : State) (d : Fin 2) (p : PinEntry) : State :=
  let s := s.onDie d fun x => { x with pins := p :: x.pins }
  (List.range p.lines).foldl (fun s i =>
    let n := p.line + i
    if s.homeOf p.crew n ≠ some d ∨ ((s.dies[d]).find p.crew p.domain n).isSome then s
    else match (s.dies[d]).allocate (s.waysOf d p.crew) p.crew p.domain n false with
      | some x => { s with dies := s.dies.set d x }
      | none => (s.bump (0x4200 + d.val) 0x15 1).onDie d fun x => { x with
          pins := x.pins.map fun y => if y.line = p.line then { y with out := n :: y.out } else y }) s

/-- LA_HINT with pin, on one die that is home to lines of the range (R310). -/
def State.pinOn (s : State) (d : Fin 2) (h : Fin 64) (line lines : Nat) (shared : Bool) : State :=
  let crew := (crewOf h).val
  let domain := s.entry (0x7300 + h.val) 5
  let x := s.dies[d]
  let heat := h.val % 16
  match x.pins.find? fun p => p.line == line && p.lines == lines && p.crew == crew && p.shared && shared && p.domain == domain with
  | some p => s.onDie d fun x => { x with pins := { p with claims := heat :: p.claims.filter (· != heat) } :: x.pins.erase p }
  | none =>
    if x.pins.any (·.overlaps line lines) ∨ 256 ≤ x.pins.length then s.bump (0x4200 + d.val) 0x16 1
    else s.promote d { line := line, lines := lines, domain := domain, crew := crew, shared := shared, claims := [heat] }

/-- LA_HINT with unpin, on one die (R311): the Heat's claim on the entry of the range goes; a RESIDENT entry without a claim
is freed. -/
def State.unpinOn (s : State) (d : Fin 2) (h : Fin 64) (line lines : Nat) : State :=
  s.onDie d fun x => { x with pins := (x.pins.map fun p =>
      if p.line = line ∧ p.lines = lines ∧ p.crew = (crewOf h).val then
        { p with claims := p.claims.filter (· != h.val % 16) } else p).filter fun p => !(p.claims.isEmpty && p.resident) }

/-- PIN_RESIDENT (R310, R311): the last line of a PROMOTING entry has landed; it becomes RESIDENT, or is freed when no claim
is left. -/
def execPinResident (d : Fin 2) (line : Nat) (s : State) : Host.Outcome State Fault Refusal :=
  .next (s.onDie d fun x => { x with pins := (x.pins.map fun p =>
      if p.line = line then { p with resident := true } else p).filter fun p => !(p.claims.isEmpty && p.resident) })

/-! ## The pack-table cache (R302) -/

/-- An access of a Crew to page `p` of pack region `r` needs the line of 64 table entries that holds its entry; the cache of the
die that holds the table page has 4,096 lines, the least recently used of which gives way. The wait for a line that is fetched is
charged to PACK_MISS, for a free number of cycles. -/
def State.touchPack (s : State) (crew : Nat) (r : Fin 64) (p : Nat) : State :=
  let d := dieOfChannel (s.regions[r].tableEntry p).1
  let key := r.val * 2 ^ 32 + p / 64
  let ls := (s.dies[d]).packLines
  let s := if ls.contains key then s
    else
      let (n, s) := s.draw
      (s.bump (0x4200 + d.val) 0x14 1).bump (0x4300 + crew) 0x14 n
  s.onDie d fun x => { x with packLines := (key :: ls.filter (· != key)).take 4096 }

end Sys2Proof.Machine
end

