-- ==== Sys2Proof/Machine/Hbm.lean ====
section
/-! DEFINITION. The HBM channels and stacks: reads, writes, refresh, retraining, errors, temperature, mapping out (R287 to
R290, R294, R323 to R334, R525 to R532). -/
namespace Sys2Proof.Machine

/-- Stack and channel number, as the memory events carry them (R336). -/
def chPayload (ch : Nat) : List Int := [(ch / 32 : Nat), (ch % 32 : Nat)]

/-- Whether the Crew has an ACTIVE region that uses the channel. -/
def State.crewUses (s : State) (c : Fin 4) (ch : Nat) : Bool :=
  s.regions.toList.any fun g => g.state == .active && g.owner == c.val && g.list.contains ch

/-- Whether a channel takes its turn: it is healthy and has not FAILED. -/
def Channel.trainable (c : Channel) : Bool := c.healthy && !c.failed

/-- The next channel of the round-robin from `from_` on. -/
def State.nextTrainable (s : State) (from_ : Nat) : Option (Fin 384) :=
  ((List.range 384).map fun i => Fin.ofNat 384 (from_ + i)).find? fun ch => s.channels[ch].trainable

/-- A retrain of the slot starts, unless one is under way: they run one at a time (R327). -/
def State.startRetrain (s : State) : State :=
  if s.retrainLeft = 0 ∨ s.channels.toList.any (·.retraining.isSome) then s
  else match s.nextTrainable s.retrainNext with
    | none => { s with retrainLeft := 0 }
    | some ch => { s.onChannel ch fun x => { x with retraining := some s.clock.now } with
        retrainLeft := s.retrainLeft - 1, retrainNext := (ch.val + 1) % 384 }

/-- A channel becomes FAILED (R332): EV-4011, and the job of every Crew whose ACTIVE region uses it stops. A retrain of it ends, and
the next of the slot starts (R327). -/
def State.failChannel (s : State) (ch : Fin 384) : State :=
  if s.channels[ch].failed then s
  else
    let s := (State.startRetrain (s.onChannel ch fun x => { x with failed := true, retraining := none })).raiseUnit (dieOfChannel ch) 0x4011 7
      (ch / 32) (chPayload ch)
    (List.finRange 4).foldl (fun s c => if s.crewUses c ch then s.stopJob c .localFault 0xFF else s) s

/-- Three mismatches of a unit (R330): EV-4020, the failure is counted, the Crew's job stops, and the channel becomes FAILED
at its limit of integrity failures. -/
def State.integrityFailure (s : State) (ch : Fin 384) (addr crew : Nat) : State :=
  let e : Event := { ts := s.stamp, code := 0x4020, unit := 7, index := ch.val / 32, crew := crew, payload := [(addr : Int)] ++ chPayload ch ++ [(crew : Int)] }
  let s := (s.raiseOn (dieOfChannel ch) e).bump (0x4020 + ch.val / 32) 9 1
  let s := s.onChannel ch fun x => { x with integrity := x.integrity + 1 }
  let s := s.stopJob (Fin.ofNat 4 crew) .localFault 0xFF
  if s.entry 0x4010 4 ≤ s.channels[ch].integrity then s.failChannel ch else s

/-- Waiting cycles, each with the set of causes that hold in it, are charged to the first cause of Table 07-11 that holds
(R323). -/
def State.chargeWaits (s : State) (crew : Nat) (waits : List (BitVec 12)) : State :=
  waits.foldl (fun s w =>
    match (List.range 12).find? fun i => w.getLsbD i with
    | some i => s.bump (0x4300 + crew) (0x10 + i) 1
    | none => s) s

/-- Reads that are repeated after a mismatch are charged to INTEG_RETRY, for a free number of cycles (R330). -/
def State.chargeRetries (s : State) (crew n : Nat) : State :=
  if n = 0 then s
  else
    let (k, s) := s.draw
    s.bump (0x4300 + crew) 0x13 k

/-- Controller cycles, of 1.6 GHz, in a span of ns (Table 07-1). -/
def controllerCycles (ns : Nat) : Nat := ns * 8 / 5

/-- The stack of a channel. -/
def stackOf (ch : Fin 384) : Fin 12 := ⟨ch.val / 32, by omega⟩

/-- A set of causes without those that cannot hold: the ones that `never` lists. -/
def withoutCauses (never : List Nat) (w : BitVec 12) : BitVec 12 := never.foldl (fun w i => w &&& ~~~(1#12 <<< i)) w

/-- The waits of a request at a channel (R323): a retraining channel takes none until it is done (R327); THERMAL holds only while the
stack is throttled (R331); the repeated reads are charged on their own. -/
def State.requestWaits (s : State) (crew : Nat) (ch : Fin 384) (waits : List (BitVec 12)) : State :=
  let s := match s.channels[ch].retraining with
    | some t => s.bump (0x4300 + crew) 0x10 (controllerCycles (t + 320 - s.clock.now))
    | none => s
  s.chargeWaits crew (waits.map (withoutCauses (if s.hbmStacks[stackOf ch].throttled then [0, 3] else [0, 1, 3])))

/-- How often the MAC of a unit mismatches for key domain `dom` (R527, R529): always under another key domain than the region's, or
where the page's epoch byte is neither the current nor the previous epoch of the Crew; else as the device answers. -/
def State.mismatches (s : State) (dom : Nat) (r : Fin 64) (off given : Nat) : Nat :=
  let g := s.regions[r]
  let e := match g.spot off with
    | some (k, page, _) => sparseGet g.fillEpoch g.pageEpoch (g.pageNo k page)
    | none => 0
  if dom ≠ g.domain ∨ (e ≠ s.epochOf g.owner ∧ e ≠ s.entry (0x8200 + g.owner) 3) then 3 else given

/-- A unit joins the buffer of the 16 units read most recently (R290). -/
def State.bufferUnit (s : State) (ch : Fin 384) (unit : Nat) : State :=
  s.onChannel ch fun x => { x with buffer := (unit :: x.buffer.filter (· != unit)).take 16 }

/-- A device read of a unit with its MAC check and at most two retries (R290, R330); whether its data is delivered. -/
def State.readUnit' (s : State) (ch : Fin 384) (unit addr crew mism ecc : Nat) : Bool × State :=
  let k := 0x4020 + ch.val / 32
  let s := ((s.bump k 8 (min mism 2)).bump k 0xB ecc).chargeRetries crew (min mism 2)
  if 3 ≤ mism then (false, s.integrityFailure ch addr crew) else (true, s.bufferUnit ch unit)

/-- Device reads of the units that the buffer does not hold; the mismatches and corrections are those of the first. -/
def State.readUnits (s : State) (ch : Fin 384) (units : List Nat) (addr crew mism ecc : Nat) : Bool × State :=
  match units.filter fun u => !s.channels[ch].buffer.contains u with
  | [] => (true, s)
  | u :: us =>
    let (ok, s) := s.readUnit' ch u addr crew mism ecc
    (ok, if ok then us.foldl (fun s u => s.bufferUnit ch u) s else s)

/-- The units that a read of page `p` of a pack region transfers: ⌈z / 16⌉ from the page's home on, none of a zero page (R300,
R302). -/
def State.pageUnits (s : State) (g : Region) (p : Nat) : List Nat :=
  let (tc, td) := g.tableEntry p
  let z := min 128 (s.cell (hbmKey tc td)).toNat
  match g.place (4096 * p) with
  | none => []
  | some (_, dev) => (List.range ((z + 15) / 16)).map (dev / 512 + ·)

/-- HBM_READ (R290, R300, R302, R306 to R308, R330): a read on behalf of a Heat of the unit that holds `addr`, or of the page of a
pack region. `lane` is the lane whose instruction reads, `launch` whether a Launch engine does; `lookup` whether the cache is
looked up (R306); `lat` the ns from the request to the last byte, which Erg samples (R471). A FAILED channel delivers nothing
(R332). -/
def execHbmRead (h : Fin 64) (lane : Fin 4) (addr : BitVec 40) (launch lookup : Bool) (mism : Fin 4) (ecc : Nat)
    (waits : List (BitVec 12)) (lat : Nat) (s : State) : Host.Outcome State Fault Refusal :=
  let crew := (crewOf h).val
  let acc := { s.accOf h with launch := launch }
  .next (match s.hbmSpot addr.toNat, s.locate acc addr.toNat with
    | some (r, ch, dev), some _ =>
      let g := s.regions[r]
      let off := addr.toNat - g.base
      let dom := s.entry (0x7300 + h.val) 5
      if s.channels[ch].failed then s
      else
        let hit := lookup && s.cached crew dom (addr.toNat / 256)
        let s := if hit then s else s.requestWaits crew ch waits
        let s := if g.pack then s.touchPack crew r (off / 4096) else s
        let units := if g.pack then s.pageUnits g (off / 4096) else [dev / 512]
        let (ok, s) := if hit then (true, s) else s.readUnits ch units addr.toNat crew (s.mismatches dom r off mism.val) ecc
        if ok then
          let s := if lookup then (s.lookUp crew dom (addr.toNat / 256)).2 else s
          (s.feed 1 ch.val lat).emit
            { kind := .delivered, unit := ch.val, fields := [addr.toNat]
              bytes := if g.pack then s.readPage g (off / 4096) else s.cells (hbmKey ch.val (512 * (dev / 512))) 512 }
        else s
    | _, _ => s.faultHeat h lane (s.lane h lane).pc .addr)

/-! ## The stored form of a unit (R289, R525 to R529)

`mem` holds what a unit decrypts to; what the device holds of it, its ciphertext and its tags, follows from that and from the keys. -/

/-- The channel data byte of a device byte (R288). -/
def dataByte (dev : Nat) : Nat := dev / 262144 * 258048 + dev % 262144

/-- Whether a memory key is a byte of the region's placement; `tables` for the pack table alone (R294, R301). -/
def Region.holdsKey (g : Region) (tables : Bool) (key : Nat) : Bool :=
  let ch := key / 2 ^ 31
  let dev := key % 2 ^ 31
  let page := dataByte dev / 4096
  let lo := g.chbase + if tables then g.size / 4096 / g.list.length else 0
  key < 2 ^ 40 && dev % 262144 < 258048 && g.list.contains ch && lo ≤ page && page < g.chbase + g.extent

/-- The index i of a unit (R525). -/
def unitIndex (ch unit : Nat) : Nat := ch * 2 ^ 22 + dataByte (512 * unit) / 512

/-- The device byte of the MAC of a unit, on the tag page of its tag group (Table 07-2). -/
def macAt (unit : Nat) : Nat :=
  let d := 512 * unit % 262144
  512 * unit / 262144 * 262144 + 63 * 4096 + 64 * (d / 4096) + 8 * (d % 4096 / 512)

/-- The epoch byte of a page of a region in a channel (R529). -/
def Region.epochAt (g : Region) (ch page : Nat) : Nat :=
  sparseGet g.fillEpoch g.pageEpoch (g.pageNo (g.list.idxOf ch) (page - g.chbase))

/-- The region that a unit stands in. -/
def State.regionOfUnit (s : State) (ch unit : Nat) : Option (Fin 64) :=
  (List.finRange 64).find? fun r =>
    let g := s.regions[r]
    (g.state == .active || g.state == .filling) && g.holdsKey false (hbmKey ch (512 * unit))

/-- The keys of a unit (R526, R527): the memory root, the Crew byte, the key domain and the epoch byte. The Logbook region takes the
module key; a page of another epoch than its Crew's two has none (R529). -/
def State.unitKeys (s : State) (ch unit : Nat) : Option (List Byte × Nat × Nat × Nat) :=
  (s.regionOfUnit ch unit).bind fun r =>
    let g := s.regions[r]
    let e := g.epochAt ch (dataByte (512 * unit) / 4096)
    if s.entry 0xA000 1 = r.val then s.keys.moduleRoot.map fun k => (k, 0xFF, 0, e)
    else
      let t := s.trust[Fin.ofNat 4 g.owner]
      let root := if e = s.epochOf g.owner then t.root else if e = s.entry (0x8200 + g.owner) 3 then t.oldRoot else none
      root.map fun k => (k, g.owner, g.domain, e)

/-- The 512 ciphertext bytes of a unit (R525). -/
def State.unitCipher (s : State) (ch unit : Nat) : Option (List Byte) :=
  (s.unitKeys ch unit).map fun k =>
    let (k1, k2) := xtsKeys k.1 k.2.2.1
    leBytes 512 (Config.xtsAes256 k1 k2 (BitVec.ofNat 128 (unitIndex ch unit)) (s.cells (hbmKey ch (512 * unit)) 512)).toNat

/-- The MAC of a unit (R526): the first 8 bytes of the CMAC. -/
def State.unitMac (s : State) (ch unit : Nat) : Option (List Byte) :=
  match s.unitKeys ch unit, s.unitCipher ch unit with
  | some (root, crew, domain, e), some c =>
    let block := leBytes 8 (unitIndex ch unit) ++ beBytes 1 e ++ beBytes 1 domain ++ beBytes 1 crew ++ List.replicate 5 0
    some ((beBytes 16 (Config.cmacAes256 (macKey root domain) (block ++ c)).toNat).take 8)
  | _, _ => none

/-- Byte `off` of the tag page of tag group `group` of a channel (Table 07-2), 0 where no region stands. -/
def State.tagByte (s : State) (ch group off : Nat) : Byte :=
  if off < 4032 then
    ((s.unitMac ch (512 * group + off / 8)).getD []).getD (off % 8) 0
  else if off < 4095 then
    match s.regionOfUnit ch (512 * group + 8 * (off - 4032)) with
    | some r => BitVec.ofNat 8 (s.regions[r].epochAt ch (63 * group + (off - 4032)))
    | none => 0
  else 0

/-- The field of an HBM command that writes a unit. -/
def writesUnit : Int := 3

/-- A unit is written to the device: its address and the ciphertext; the addresses of its MAC and of its page's epoch byte, and both
(R289, R525, R526). -/
def State.emitUnit (s : State) (ch unit : Nat) : State :=
  match s.unitCipher ch unit, s.unitMac ch unit with
  | some c, some m =>
    let group := 512 * unit / 262144
    let p := 512 * unit % 262144 / 4096
    s.emit { kind := .hbmCommand, unit := ch
             fields := [writesUnit, (512 * unit : Nat), macAt unit, (262144 * group + 63 * 4096 + 4032 + p : Nat)]
             bytes := c ++ m ++ [s.tagByte ch group (4032 + p)] }
  | _, _ => s

/-! ## Partial writes (R290) -/

/-- The entry of the Crew that is charged while a write is held for merging: the first cause that holds, at the latest QUEUE (R290,
R323). -/
def State.mergeCause (s : State) (ch : Fin 384) : Nat :=
  if s.channels[ch].retraining.isSome then 0x10 else if s.hbmStacks[stackOf ch].throttled then 0x11 else 0x17

/-- A write of `n` bytes at device byte `dev` (R290): a unit that is complete is written directly, and the wait of what was held of it
is charged; another is held for merging. -/
def State.holdPart (s : State) (crew : Nat) (ch : Fin 384) (dev n addr : Nat) : State :=
  let unit := dev / 512
  let x := s.channels[ch]
  let rest := x.partials.filter (·.unit != unit)
  let p := (x.partials.find? (·.unit == unit)).getD { unit := unit, offs := [], addr := addr, crew := crew, since := s.clock.now }
  let offs := p.offs ++ ((List.range n).map (dev % 512 + ·)).filter fun o => !p.offs.contains o
  if 512 ≤ offs.length then
    ((s.bump (0x4300 + crew) (s.mergeCause ch) (controllerCycles (s.clock.now - p.since))).onChannel ch fun x => { x with partials := rest }).emitUnit
      ch.val unit
  else s.onChannel ch fun x => { x with partials := { p with offs := offs } :: rest }

/-- The parts of a write that lie on live channels land, and their units are held where they are partial (R290, R332). Every reader
sees the bytes at once (R32). -/
def State.writeParts (s : State) (a : Acc) (addr : Nat) (bytes : List Byte) (waits : List (BitVec 12)) : State :=
  (Span.parts { at_ := addr, len := bytes.length }).foldl (fun s p =>
    match s.hbmSpot p.1 with
    | none => s
    | some (_, ch, dev) =>
      if s.channels[ch].failed then s
      else
        let s := s.requestWaits a.crew ch (if p.1 = addr then waits else [])
        (s.store a p.1 ((bytes.drop (p.1 - addr)).take p.2)).holdPart a.crew ch dev p.2 p.1) s

/-- HBM_WRITE (R290, R306): a write of up to 512 bytes on behalf of a Heat. -/
def execHbmWrite (h : Fin 64) (lane : Fin 4) (addr : BitVec 40) (bytes : List (BitVec 8)) (waits : List (BitVec 12))
    (s : State) : Host.Outcome State Fault Refusal :=
  .next (if s.writable (s.accOf h) addr.toNat bytes.length && (s.regionAt addr.toNat).isSome then
    s.writeParts (s.accOf h) addr.toNat bytes waits
  else s.faultHeat h lane (s.lane h lane).pc .addr)

/-- PARTIAL_WRITE_MERGE_TIMEOUT (R290): 64 controller cycles later a unit that is still partial is read, merged and written back;
the read-modify-write is counted. The read's MAC is checked as any other; its wait is charged to QUEUE, for a free number of
cycles. -/
def execPartialWriteMergeTimeout (ch : Fin 384) (unit : Nat) (x : UnitRead) (s : State) : Host.Outcome State Fault Refusal :=
  .next (match s.channels[ch].partials.find? (·.unit == unit) with
    | none => s
    | some p =>
      if s.channels[ch].failed then s
      else
        let s := (s.advanceTo (p.since + 40)).bump (0x4300 + p.crew) (s.mergeCause ch) 64
        let s := (s.bump (0x4020 + ch.val / 32) 0xA 1).onChannel ch fun y => { y with partials := y.partials.filter (·.unit != unit) }
        if s.channels[ch].buffer.contains unit then s.emitUnit ch.val unit
        else
          let (n, s) := s.draw
          let m := match s.hbmSpot p.addr with
            | some (r, _, _) => s.mismatches s.regions[r].domain r (p.addr - s.regions[r].base) x.mism.val
            | none => x.mism.val
          let (ok, s) := (s.bump (0x4300 + p.crew) 0x17 n).readUnit' ch unit p.addr p.crew m x.ecc
          if ok then s.emitUnit ch.val unit else s)

/-! ## The requests of an instruction -/

/-- What the memory path reports of the requests of an instruction of a Crew (R287, R323, R330); whether all of them were
delivered. -/
def State.memReport (s : State) (crew : Nat) (r : MemReport) : Bool × State :=
  let hot := s.hbmStacks.toList.any (·.throttled)
  let s := s.chargeWaits crew (r.waits.map (withoutCauses (if hot then [3] else [1, 3])))
  let s := r.ecc.foldl (fun s x => s.bump (0x4020 + x.1.val) 0xB x.2) s
  let s := r.retries.foldl (fun s x => s.bump (0x4020 + x.1.val) 8 x.2) s
  let s := s.chargeRetries crew (r.retries.map (·.2)).sum
  match r.failed.bind fun a => (s.hbmSpot a.toNat).map fun p => (p.2.1, a.toNat) with
  | some (ch, a) => (false, s.integrityFailure ch a crew)
  | none => (true, s)

/-- The first unit that the spans read and whose MAC cannot match (R527, R529). -/
def State.badUnit (s : State) (dom : Nat) (xs : List Span) : Option (Fin 384 × Nat) :=
  xs.findSome? fun x => if x.write then none else x.parts.findSome? fun p =>
    (s.hbmSpot p.1).bind fun y =>
      if s.mismatches dom y.1 (p.1 - s.regions[y.1].base) 0 = 0 then none else some (y.2.1, p.1)

/-- A read of a line of a spread region: the cache is looked up where `look` says so, and a miss reads the device (R290, R306). -/
def State.readLine (s : State) (crew dom : Nat) (look : Bool) (line : Nat) : State :=
  match s.hbmSpot (256 * line) with
  | none => s
  | some (r, ch, dev) =>
    if s.regions[r].pack then s
    else
      let hit := look && s.cached crew dom line
      let s := if look then (s.lookUp crew dom line).2 else s
      if hit then s else s.bufferUnit ch (dev / 512)

/-- The reads of an instruction meet each line once. -/
def State.readSpans (s : State) (crew dom : Nat) (look : Bool) (xs : List Span) : State :=
  (((xs.filter (!·.write)).flatMap (·.parts)).map (·.1 / 256)).eraseDups.foldl (fun s n => s.readLine crew dom look n) s

/-- The writes of an instruction are held where they leave units partial (R290). -/
def State.holdSpans (s : State) (crew : Nat) (xs : List Span) : State :=
  ((xs.filter (·.write)).flatMap (·.parts)).foldl (fun s p =>
    match s.hbmSpot p.1 with
    | none => s
    | some (r, ch, dev) => if s.regions[r].pack then s else s.holdPart crew ch dev p.2 p.1) s

/-- REGION_FILL_DONE (R294): a FILLING region becomes ACTIVE, EV-4041. -/
def execRegionFillDone (r : Fin 64) (s : State) : Host.Outcome State Fault Refusal :=
  .next (if s.regions[r].state = .filling then
    (s.onRegion r fun g => { g with state := .active }).raiseRegion r 0x4041 [r.val, 2] else s)

/-! ## Retraining (R327 to R329) -/

/-- The retrains of a slot (R327): n = min(⌊slot length / 320 ns⌋, 8). -/
def State.openRetrain (s : State) : State :=
  if s.entry 0x4010 1 = 1 then State.startRetrain { s with retrainLeft := min (s.slotLength / 320) 8 } else s

/-- RETRAIN_DONE (R327, R329): 320 ns after its start a retrain of the channel ends. A margin failure raises EV-4010 and takes the
next turn; the second in a row makes the channel FAILED. A retrain takes the training table in force (R610). The next retrain of
the slot then starts. -/
def execRetrainDone (ch : Fin 384) (pass : Bool) (s : State) : Host.Outcome State Fault Refusal :=
  .next (match s.channels[ch].retraining with
    | none => s
    | some t =>
      let s := s.advanceTo (t + 320)
      let k := 0x4020 + ch.val / 32
      let s := (s.bump k 6 1).onChannel ch fun x =>
        { x with
          retraining := none, lastRetrain := s.clock.now, marginFails := if pass then 0 else x.marginFails + 1, newTable := x.newTable && !pass }
      let s : State := if pass then s
        else
          let s : State := { (s.bump k 7 1).raiseUnit (dieOfChannel ch) 0x4010 7 (ch / 32) (chPayload ch) with retrainNext := ch.val }
          if 2 ≤ s.channels[ch].marginFails then s.failChannel ch else s
      s.startRetrain)

/-- FORCED_RETRAIN (R328): at a stroke edge a channel that has not retrained within 0x4010.02 retrains outside the slot, EV-4012.
An edge that is due is taken by STROKE_EDGE first. -/
def execForcedRetrain (ch : Fin 384) (s : State) : Host.Outcome State Fault Refusal :=
  let x := s.channels[ch]
  .next (if x.trainable ∧ x.retraining = none ∧ x.lastRetrain + s.entry 0x4010 2 * 1000000 < s.clock.now
      ∧ (s.clock.now : Int) = s.edgeTime s.clock.stroke ∧ s.clock.slotOpen = false then
    (s.onChannel ch fun x => { x with retraining := some s.clock.now }).raiseUnit (dieOfChannel ch) 0x4012 7 (ch / 32) (chPayload ch)
  else s)

/-- STACK_TEMPERATURE (R331): a temperature in m°C. From 85 °C the refresh interval is halved, from 95 °C commands are throttled
with EV-4030 on entry and exit, at 105 °C the stack trips with EV-4031 and all its channels become FAILED; each threshold is left
3 °C below its value. -/
def execStackTemperature (k : Fin 12) (mc : BitVec 32) (s : State) : Host.Outcome State Fault Refusal :=
  let t := mc.toInt
  let x := s.hbmStacks[k]
  let reached := fun (was : Bool) (limit : Int) => decide (limit ≤ t) || (was && decide (limit - 3000 < t))
  let y : Stack := { x with
    halfRefresh := reached x.halfRefresh 85000, throttled := reached x.throttled 95000, tripped := reached x.tripped 105000 }
  let s := ({ s with hbmStacks := s.hbmStacks.set k y }).setEntry (0x4020 + k.val) 2 mc.toNat
  let d := dieOf 6 k.val
  let s := if y.throttled = x.throttled then s
    else s.raiseUnit d 0x4030 7 k.val [k.val, if y.throttled then 1 else 0]
  .next (if y.tripped ∧ !x.tripped then
    (List.range 32).foldl (fun s i =>
      let ch : Fin 384 := Fin.ofNat 384 (32 * k.val + i)
      if s.channels[ch].present then s.failChannel ch else s) (s.raiseUnit d 0x4031 7 k.val [k.val])
  else s)

/-- BANK_REFRESH (R287): bank `bank` of pseudo-channel `pc` of a channel is refreshed, for its interval or at the stack's
request. -/
def execBankRefresh (ch : Fin 384) (pc : Fin 2) (bank : Fin 16) (asked : Bool) (s : State) :
    Host.Outcome State Fault Refusal :=
  let k : Fin 12 := ⟨ch.val / 32, by omega⟩
  let key := (ch.val % 32) * 32 + pc.val * 16 + bank.val
  .next (if s.channels[ch].present && !s.inReset then
    ({ s with hbmStacks := updAt s.hbmStacks k fun x => { x with refreshed := sparseSet 0 x.refreshed key (s.clock.now + 1) } }).emit
      { kind := .hbmCommand, unit := ch.val, fields := [pc.val, bank.val, if asked then 1 else 0] }
  else s)

/-! ## Regions and Recovery -/

/-- The fill of a region (R294): a spread region is zero, a pack region's table is zero, under the current epoch. -/
def State.zeroRegion (s : State) (g : Region) : State :=
  { s with mem := s.mem.filter fun c => !g.holdsKey g.pack c.1 }

/-- A region becomes INVALID: its contents are lost, EV-4041 (R334), and with a Slipway region its slots (R636). -/
def State.invalidate (s : State) (r : Fin 64) : State :=
  (((s.invalidateRegion r).loseSlots r).onRegion r fun g => { g with state := .invalid }).raiseRegion r 0x4041 [r.val, 3]

/-- Recovery maps every FAILED channel out of the healthy set (R334): 0x402s.05, EV-4040, and the regions that list it become
INVALID. -/
def State.mapOut (s : State) : State :=
  (List.finRange 384).foldl (fun (s : State) ch =>
    let x : Channel := s.channels[ch]
    if x.failed ∧ x.healthy then
      let s := (s.onChannel ch fun x => { x with healthy := false, mappedOut := true }).raiseUnit (dieOfChannel ch) 0x4040 7
        (ch / 32) (chPayload ch)
      (List.finRange 64).foldl (fun (s : State) r =>
        let g : Region := s.regions[r]
        if (g.state = .active ∨ g.state = .filling) ∧ g.list.contains ch.val then s.invalidate r else s) s
    else s) s

end Sys2Proof.Machine
end

