-- ==== Sys2Proof/Machine/BladeRun.lean ====
section
/-! DEFINITION. The BLADE commands: issue, check, ramp gate, arrival, stream, tile decision, redo, completion (R98 to R141,
R184 to R195, R213 to R220), and the Blade part of the CHAIN instructions (R221 to R223). -/
namespace Sys2Proof.Machine

/-! ## The ramp gate (R126, R218, R571) -/

/-- Blade cycles in a span of ns at the frequency in force (0x910n.02). -/
def State.bladeCycles (s : State) (n : Fin 4) (ns : Nat) : Nat := ns * s.entry (0x9100 + n.val) 2 / 1000

/-- Whether the soft-catch gate of a Blade runs: it opened less than 2,048 Blade cycles ago. -/
def State.gateRuns (s : State) (n : Fin 4) : Bool :=
  match s.blades[n].gate with
  | some t => s.bladeCycles n (s.clock.now - t) < 2048
  | none => false

/-! ## What an admitted BLADE reads -/

/-- The kinds of a chain that the stream asks about. -/
def BladeJob.outKind (j : BladeJob) : Nat := (j.chain.map (·.outKind)).getD 3

/-- Whether the BLADE quantizes as its rows drain, without retained sums (R128). -/
def BladeJob.drain (j : BladeJob) : Bool := j.outKind == 0 && j.acc == 0

/-- The rows and columns of the streamed tensor that the BLADE reads: first row, rows, first column, columns. -/
def BladeJob.streamRange (j : BladeJob) : Nat × Nat × Nat × Nat :=
  let p := j.prod
  let k := p.segElems (p.streamWhole j.hs j.chain)
  if p.kaxT then (p.kbase, k, p.row0, p.rows) else (p.row0, p.rows, p.kbase, k)

/-- The rows and columns of the stationary tensor that the panel takes. -/
def BladeJob.panelRange (j : BladeJob) : Nat × Nat × Nat × Nat :=
  let p := j.prod
  let k := p.segElems (reblocks j.hw p.kaxS)
  if p.mode = 5 then (0, 1, p.kbase, k) else if p.kaxS then (p.col0, p.ncol, p.kbase, k) else (p.kbase, k, p.col0, p.ncol)

/-- Blocks of the tile that a BLADE streams from a receive slot (R185). -/
def BladeJob.tileBlocks (j : BladeJob) : List (Nat × Nat) :=
  let (r0, nr, c0, nc) := j.streamRange
  j.hs.blocksIn r0 nr c0 nc

/-- A block of the streamed operand as it landed in a receive slot: the unit number is the block's place in the tile. -/
def slotBlock (t : Tensor) (blocks : List (Nat × Nat)) (slot : RecvSlot) (p q : Nat) : Block :=
  match slot.landed.find? (·.1 == blocks.idxOf (p, q)) with
  | some (_, bytes, x) =>
    { exp := expOfByte x.toNat
      elems := (List.range 64).map fun i =>
        let (r, c) := t.elemCoord p q i
        if r < t.rows ∧ c < t.cols then elemAt t.fmt.width bytes i else some 0 }
  | none => { exp := zeroExp, elems := List.replicate 64 (some 0) }

/-- How the BLADE reads the blocks of its streamed operand (R184, R186). -/
def State.streamRead (s : State) (n : Fin 4) (j : BladeJob) : Nat → Nat → Block :=
  match j.chain with
  | some c =>
    if c.source = 1 then slotBlock j.hs j.tileBlocks (s.blades[n].recvSlot c.rslot)
    else s.readBlock (s.accOf j.item.heat) j.hs
  | none => s.readBlock (s.accOf j.item.heat) j.hs

/-- The bytes of the ledger at an address, header excluded (R169). -/
def Ledger.bodyBytes (l : Ledger) : Nat := 16 * l.rows + 2 * l.rows * l.stripLen

/-- The bytes of a ledger, its header as it stands in memory. -/
def State.ledgerSpans (s : State) (a : Acc) (addr : Nat) (write : Bool) : List Span :=
  [{ at_ := addr, len := 64 + (s.ledgerAt a addr).bodyBytes, write := write }]

/-- A ledger decodes whole: its header, then the body that it names. -/
def State.ledgerReach (s : State) (a : Acc) (addr : Nat) (write : Bool) : Bool :=
  s.decodes a addr 64 && s.reaches a (s.ledgerSpans a addr write)

/-- The ledgers that the stages of a BLADE use, and whether they contribute. -/
def BladeJob.ledgers (j : BladeJob) : List (Nat × Bool) :=
  j.refs.filterMap fun x => match x.stage.code with
    | 0x03 => some (x.ledger, false)
    | 0x14 | 0x16 => some (x.ledger, true)
    | _ => none

/-- The bytes that the BLADE reads and writes, its ledgers apart. -/
def BladeJob.spans (j : BladeJob) : List Span :=
  let p := j.prod
  let range := fun (t : Tensor) (x : Nat × Nat × Nat × Nat) w => t.spans x.1 x.2.1 x.2.2.1 x.2.2.2 w
  (if (j.chain.map (·.source)) = some 1 then [] else range j.hs j.streamRange false)
    ++ range j.hw j.panelRange false ++ j.hs.statusSpans false ++ j.hw.statusSpans false
    ++ (if 1 < j.outKind then [] else range j.out (p.row0, p.rows, p.col0, p.ncol) true)
    ++ (if j.outKind = 0 then j.out.statusSpans true else [])
    ++ j.refs.flatMap fun x =>
      match x.stage.code, x.tensor with
      | 0x10, some t => range t (0, 1, p.col0, p.ncol) false
      | 0x13, some t => if x.stage.sel = 1 then [] else range t (p.row0, p.rows, p.col0, p.ncol) false
      | _, _ => []

/-- Every address that the BLADE reads or writes decodes (Table 05-17, ADDR); `ha` is its anchor table. -/
def State.bladeReach (s : State) (j : BladeJob) (ha : Nat × Nat) : Bool :=
  let a := s.accOf j.item.heat
  s.reaches a j.spans && s.decodes a ha.1 j.prod.ncol && j.ledgers.all fun x => s.ledgerReach a x.1 x.2

/-- All the bytes that the BLADE reads and writes. -/
def State.bladeSpans (s : State) (j : BladeJob) : List Span :=
  j.spans ++ j.ledgers.flatMap fun x => s.ledgerSpans (s.accOf j.item.heat) x.1 x.2

/-! ## The stream (R109 to R116, R149 to R152, R184 to R187, R217) -/

/-- A running sum with the retained sum (R113): the sum and whether it newly became a mark. -/
def retainSum (u v : Elem) : Elem × Bool :=
  let y := add48 u v
  (y, u.isSome && v.isSome && y.isNone)

/-- The sums of the BLADE over the panel that its Blade holds: per row and column the WL48 sum, and whether an accumulation
left the WL48 range. -/
def State.streamSums (s : State) (n : Fin 4) (j : BladeJob) (rows : List (List (Elem × Int))) : List (List (Elem × Bool)) :=
  let p := j.prod
  let b := s.blades[n]
  let cols := (List.range p.ncol).map fun c => (List.range p.kn).map (panelElem p.mode b.active b.shadow c)
  let slot := s.blades[n].slot p.rslot
  rows.zipIdx.map fun x => (List.range p.ncol).map fun c =>
    let (y, m) := arraySum s.seed j.out.tid p (j.anchors.getD c 0) x.1 (cols.getD c []) x.2 c
    if j.acc = 0 then (y, m != 0)
    else
      let (z, k) := retainSum y (s.retained n slot.region p.ncol x.2 c)
      (z, m != 0 || k)

/-- The counts of an entered operand (R77): per row where the ledger realigns blocks (R183). -/
def State.countStream (s : State) (n : Fin 4) (j : BladeJob) (pro : List RStage) : State :=
  let a := s.accOf j.item.heat
  let p := j.prod
  let (r0, nr, c0, nc) := j.streamRange
  let read := s.streamRead n j
  let ev := fun (s : State) => s.raiseBlade n j.item.heat 0x3021 [j.hs.tid]
  match pro.find? fun g => g.code == 3 && 2 ≤ g.sel with
  | none => s.countEntryBy j.hs read j.ceilT r0 nr c0 nc ev
  | some g =>
    let led := s.ledgerAt a g.ledger
    (List.range p.rows).foldl (fun s i =>
      if (s.smaxRow a g.ledger (p.row0 + i)).mark then s
      else
        let read' := fun (bp bq : Nat) =>
          let b := read bp bq
          let xy := j.hs.elemCoord bp bq 0
          if b.isZero then b
          else { b with exp := b.exp + s.smaxAdjust a g.ledger led (p.row0 + i) (if p.kaxT then xy.1 else xy.2) }
        if p.kaxT then s.countEntryBy j.hs read' j.ceilT r0 nr (p.row0 + i) 1 ev
        else s.countEntryBy j.hs read' j.ceilT (p.row0 + i) 1 c0 nc ev) s

/-- An output row that no E_QUANT quantizes is written as it drains (out_kind 1 and 2). -/
def State.writeRows (s : State) (n : Fin 4) (r : BladeRun) : State :=
  (List.range r.prod.rows).foldl (fun s i =>
    let x := s.workRow r i
    let s := (s.bump 0x3028 8 x.sats).bump 0x3028 3 (markCount (x.row.map (·.1)))
    if r.outKind = 1 then s.putWlRow (s.accOf r.item.heat) r.out r.prod i x.row else s.putRegionRow n r.prod i x.row) s

/-- The BLADE streams: its panel is loaded and swapped in, its rows enter, its sums are formed, and what does not wait for
a tile decision is written. -/
def State.stream (s : State) (n : Fin 4) (j : BladeJob) : State :=
  let a := s.accOf j.item.heat
  let p := j.prod
  let stages := j.refs.map (s.readStage n j.item.heat p)
  let pro := stages.filter (·.code ≤ 3)
  let epi := stages.filter (4 ≤ ·.code)
  let read := s.streamRead n j
  let rows := (List.range p.rows).map (s.streamRow a j.hs read j.ceilT p j.chain pro)
  let cols := (List.range (if p.mode = 5 then 1 else p.ncol)).map (s.panelColumn a j.hw j.ceilS p)
  let loaded := s.onBlade n fun b => loadPanel b p (cols.map (·.row))
  let sums := loaded.streamSums n j (rows.map (·.row))
  let all := rows ++ cols
  let marks := sums.zipIdx.flatMap fun x => (x.1.zipIdx.filter (·.1.2)).map fun y => (p.row0 + x.2, p.col0 + y.2)
  let (pr0, pnr, pc0, pnc) := j.panelRange
  let s := loaded.countStream n j pro
  let s := s.countEntry a j.hw j.ceilS pr0 pnr pc0 pnc fun s => s.raiseBlade n j.item.heat 0x3021 [j.hw.tid]
  let i := 0x3100 + n.val
  let s := ((((s.bump i 1 p.rows).bump i 2 1).bump i 3 (p.cyclesPerRow * p.rows)).bump i 0xB (if p.mode = 5 then p.rows else 0)).bump i 0xC
    (all.map (·.reblocked)).sum
  let s := ((s.bump 0x3028 8 (all.map (·.sats)).sum).bump 0x3028 9 (all.map (·.domain)).sum).bump 0x3028 7 marks.length
  let s := ((s.bump (0x3120 + n.val) 1 (if pro.isEmpty then 0 else p.rows)).bump (0x3120 + n.val) 2
    (if epi.all (·.code == 0x15) then 0 else p.rows)).bump (0x3120 + n.val) 7
      (if (j.chain.map (·.source)) = some 1 then 1 else 0)
  let s := marks.foldl (fun s m => s.raiseBlade n j.item.heat 0x3022 [j.out.tid, m.1, m.2]) s
  let sums := sums.map (·.map (·.1))
  let slot := s.blades[n].slot p.rslot
  let fresh := j.acc = 0 && retains 0 j.chain
  let region := if fresh then p.rreg else slot.region
  let s := if fresh ∨ j.acc ≠ 0 then s.putSums n region p.ncol sums else s
  let recv : Option (Fin 64) := j.chain.bind fun c => if c.source = 1 then some (Fin.ofNat 64 c.rslot) else none
  let run : BladeRun :=
    { j with sums := sums, stages := epi, recv := recv
             tiles := if j.outKind = 0 then List.replicate (p.bands * p.groups) {} else [] }
  let s := s.onBlade n fun b =>
    { b with
      arrival := none
      runs := b.runs ++ [run]
      queue := { b.queue with started := b.queue.started ++ [j.item] }
      slots := if fresh then updAt b.slots (Fin.ofNat 4 p.rslot) fun _ =>
          { held := true, rows := p.rows, ncol := p.ncol, anchors := j.anchors, region := p.rreg } else b.slots
      recv := match recv with
        | some r => updAt b.recv r fun x => { x with busy := true }
        | none => b.recv }
  if j.outKind = 1 ∨ j.outKind = 2 then s.writeRows n run else s

/-- Landed blocks add 1 each to the arrival semaphore (R184). The chain of the BLADE names it, so blocks that landed before
the BLADE was checked are counted when it is. -/
def State.countArrivals (s : State) (n : Fin 4) (j : BladeJob) : State :=
  match j.chain with
  | some c =>
    if c.source = 1 then
      let r : Fin 64 := Fin.ofNat 64 c.rslot
      let x := s.blades[n].recv[r]
      (s.onBlade n fun b => { b with recv := updAt b.recv r fun x => { x with posted := x.landed.length } }).post
        j.item.heat j.item.lane j.item.pc c.arrSem (x.landed.length - x.posted)
    else s
  | none => s

/-- The BLADE that waits for receive slot `r`, or that consumes it. -/
def Blade.slotUser (b : Blade) (r : Fin 64) : Option BladeJob :=
  let names := fun (j : BladeJob) => j.chain.any fun c => c.source == 1 && c.rslot == r.val
  match b.arrival with
  | some j => if names j then some j else (b.runs.find? (·.recv == some r)).map (·.toBladeJob)
  | none => (b.runs.find? (·.recv == some r)).map (·.toBladeJob)

/-- A block has landed in receive slot `r`: the BLADE that names the slot says which semaphore counts it (R184). -/
def State.countLanded (s : State) (n : Fin 4) (r : Fin 64) : State :=
  match s.blades[n].slotUser r with
  | some j => s.countArrivals n j
  | none => s

/-- Whether the swap token of the next stream waits for the decisions of a drain-through BLADE in flight (R131). No row of a
BLADE that a contribution stopped enters any more (R193). -/
def Blade.holdsSwap (b : Blade) : Bool := b.runs.any fun r => r.drain && r.stopped.isEmpty && r.tiles.any (!·.final)

/-- A checked BLADE streams once its gate has opened, its receive slot holds the tile, and no earlier stream holds the swap
(R131, R185, R187, R571). A request on a FAILED channel is not delivered, and it waits (R332); a unit whose MAC cannot match stops the
job, and the BLADE never streams (R330). -/
def State.tryStream (s : State) (n : Fin 4) : State :=
  match s.blades[n].arrival with
  | none => s
  | some j =>
    let s := s.countArrivals n j
    let here := match j.chain with
      | some c => c.source != 1
          || (j.tileBlocks.length ≤ s.sem j.item.heat c.arrSem && !(s.blades[n].recvSlot c.rslot).busy)
      | none => true
    if s.blades[n].rampWait.isNone && here && !s.blades[n].holdsSwap then
      let xs := s.bladeSpans j
      let crew := (crewOf j.item.heat).val
      let dom := s.entry (0x7300 + j.item.heat.val) 5
      match s.badUnit dom xs with
      | some (ch, addr) => (s.onBlade n fun b => { b with arrival := none }).integrityFailure ch addr crew
      | none => if s.delivers xs then (s.readSpans crew dom false xs).stream n j else s
    else s

/-! ## CHAIN instructions at the head of a Blade queue (R222, R223) -/

/-- Opens a ledger (R170, R222). -/
def State.openLedger (s : State) (a : Acc) (addr : Nat) : State :=
  let led := s.ledgerAt a addr
  let s := s.putLedgerState a addr 0 0 0
  let s := s.store a (addr + 64) (List.replicate led.bodyBytes 0)
  if led.kind = 1 then
    (List.range led.rows).foldl (fun s r => s.storeNat a (addr + Ledger.rowOff r) 2 (ofSigned 16 topNone)) s
  else s

/-- Whether a BLADE in flight contributes to the ledger at an address (R222). -/
def Blade.contributes (b : Blade) (addr : Nat) : Bool :=
  b.runs.any fun r => r.stages.any fun g => (g.code == 0x14 || g.code == 0x16) && g.ledger == addr

/-- The receive slot is free: nothing consumes it and its credits have returned (R187). -/
def RecvSlot.returned (x : RecvSlot) : Bool := !x.busy && x.credits.isEmpty

/-- Whether a CHAIN instruction on Blade `n` finds a CH_UNBIND ahead of it that still waits for its slot (R201, R223). -/
def Blade.releasing (b : Blade) (op : QOp) : Bool :=
  match op with
  | .chBind r _ => b.recv[r].releasing
  | .chUnbind r => b.recv[r].releasing
  | _ => false

/-- A CHAIN instruction at the head of the queue of Blade `n` acts; `q` has left the queue. A Blade that is disabled or
outside the issuing Crew is absent, as for a BLADE (R34, Table 03-7; DEDUCED, log 70). -/
def State.chainOp (s : State) (n : Fin 4) (q : QItem) : State :=
  let h := q.heat
  let a := s.accOf h
  if !bitOf s.bladeMap n.val || !s.crewHas h 1 n.val then s.faultFrom n h q.lane q.pc .bladeAbsent else
  match q.op with
  | .chOpen d =>
    match parseLedgerRef (s.descOf h d) with
    | none => s.faultFrom n h q.lane q.pc .descReserved
    | some addr =>
      if s.decodes a addr 64 = false then s.faultFrom n h q.lane q.pc .addr
      else if (s.ledgerAt a addr).kindOk = false ∨ s.blades[n].contributes addr then
        s.faultFrom n h q.lane q.pc .chainLedger
      else if s.ledgerReach a addr true = false then s.faultFrom n h q.lane q.pc .addr
      else (s.openLedger a addr).postItem q
  | .chDrop k => s.onBlade n fun b => { b with slots := b.slots.set k {} }
  | .chBind r tag =>
    match s.blades[n].recv[r].bound with
    | some (g, _) =>
      if g = h then s.onBlade n fun b => { b with recv := updAt b.recv r fun x => { x with bound := some (h, tag) } }
      else s.faultFrom n h q.lane q.pc .chainSource
    | none => s.onBlade n fun b => { b with recv := updAt b.recv r fun _ => { bound := some (h, tag) } }
  | .chUnbind r =>
    match s.blades[n].recv[r].bound with
    | some (g, _) =>
      if g ≠ h then s.faultFrom n h q.lane q.pc .chainSource
      else if s.blades[n].recv[r].returned then
        s.onBlade n fun b => { b with recv := updAt b.recv r fun _ => {} }
      else s.onBlade n fun b =>
        { b with
          recv := updAt b.recv r fun x => { x with releasing := true }
          queue := { b.queue with started := b.queue.started ++ [q] } }
    | none => s
  | _ => s

/-- The CHAIN instructions at the head of a Blade queue act, up to the first BLADE; the queue holds at most 4. -/
def State.chainHead (n : Fin 4) : Nat → State → State
  | 0, s => s
  | fuel + 1, s =>
    if s.blades[n].arrival.isSome then s
    else match s.blades[n].queue.waiting with
      | [] => s
      | q :: rest =>
        if s.slicing (bladeUnit n) then s.awaitSlice (bladeUnit n) else
        if s.blades[n].releasing q.op then s else
        match q.op with
        | .blRun _ _ _ _ => s
        | _ =>
          let s := (s.onBlade n fun b => { b with queue := { b.queue with waiting := rest } }).chainOp n q
          State.chainHead n fuel s

/-- An instruction of a Blade queue was entered, or the head moved: what is at the head acts. -/
def State.bladeHead (s : State) (n : Fin 4) : State :=
  let s := State.chainHead n 4 s
  (List.finRange 64).foldl (fun s h => s.wakeFences h) s

/-! ## Issue -/

/-- BL_RUN (R213, R220): the BLADE enters the queue of its Blade. -/
def execBlRun (h : Fin 64) (l : Fin 4) (blade : Fin 4) (pd : BitVec 16) (xi : BitVec 4) (chx chn : Bool) (ch : BitVec 16)
    (ramp : Bool) (acc : BitVec 2) (csem : BitVec 9) (s : State) : Host.Outcome State Fault Refusal :=
  let x := s.lane h l
  let d := x.handle pd.toNat xi.toNat
  let c := if chx then x.handle ch.toNat xi.toNat else ch.toNat
  s.issueOn (some blade) h l
    ([(.insnReserved, acc == 3 || (!chn && ch != 0)), (.semRange, semBad true csem.toNat),
      (.bladeLane, !bitOf x.blades blade.val)]
      ++ s.descFaults h d 2 ++ (if chn then s.descFaults h c 3 else []))
    fun s => (s.enqueue h l (.blade blade) (.blRun d (if chn then some c else none) acc.toNat ramp) csem.toNat).bladeHead blade

/-- CH_OPEN (R222): the ledger is opened when the instruction reaches the head of the Blade queue. -/
def execChOpen (h : Fin 64) (l : Fin 4) (blade : Fin 4) (ledger : BitVec 16) (xi : BitVec 4) (csem : BitVec 9)
    (rsv : BitVec 21) (s : State) : Host.Outcome State Fault Refusal :=
  let d := (s.lane h l).handle ledger.toNat xi.toNat
  s.issue h l (rsvBad rsv :: (.semRange, semBad true csem.toNat) :: s.descFaults h d 4)
    fun s => (s.enqueue h l (.blade blade) (.chOpen d) csem.toNat).bladeHead blade

/-- CH_DROP (R223): a retain slot becomes EMPTY. -/
def execChDrop (h : Fin 64) (l : Fin 4) (blade slot : Fin 4) (rsv : BitVec 48) (s : State) :
    Host.Outcome State Fault Refusal :=
  s.issue h l [rsvBad rsv] fun s => (s.enqueue h l (.blade blade) (.chDrop slot) 511).bladeHead blade

/-- CH_BIND (R223): binds a receive slot to the issuing Heat and a frame tag. -/
def execChBind (h : Fin 64) (l : Fin 4) (blade : Fin 4) (rslot : Fin 64) (tag : BitVec 16) (rsv : BitVec 28) (s : State) :
    Host.Outcome State Fault Refusal :=
  s.issue h l [rsvBad rsv] fun s => (s.enqueue h l (.blade blade) (.chBind rslot tag.toNat) 511).bladeHead blade

/-- CH_UNBIND (R223): releases a receive slot; it completes when the slot's credits have returned. -/
def execChUnbind (h : Fin 64) (l : Fin 4) (blade : Fin 4) (rslot : Fin 64) (rsv : BitVec 44) (s : State) :
    Host.Outcome State Fault Refusal :=
  s.issue h l [rsvBad rsv] fun s => (s.enqueue h l (.blade blade) (.chUnbind rslot) 511).bladeHead blade

/-! ## Check, gate, arrival -/

/-- The BLADE at the head passes or fails its check (R138, R666): the lowest fault of the check, then ADDR. -/
def State.checkBlade (s : State) (n : Fin 4) (q : QItem) (pd : Nat) (ch : Option Nat) (acc : Nat) (ramp : Bool) : State :=
  match s.bladeNames q pd ch with
  | none => s.faultFrom n q.heat q.lane q.pc .descReserved
  | some b =>
    match lowestFault (s.bladeFaults n q acc b) with
    | some p => s.faultFrom n q.heat q.lane q.pc p
    | none =>
      match b.hs, b.hw, b.ho, b.ha with
      | some hs, some hw, some ho, some ha =>
        let a := s.accOf q.heat
        let ct := s.streamedCeiling a hs b.chain
        let cs := s.ceilingOf a hw
        let j : BladeJob :=
          { item := q, acc := acc, prod := b.prod, chain := b.chain, hs := hs, hw := hw, out := ho
            refs := ((b.chain.map (·.stages)).getD []).map (s.stageRef q.heat)
            ceilT := s.ceilingOf a hs, ceilS := cs, anchors := anchorsOf cs ct (s.lifts a ha b.prod.ncol) }
        if s.bladeReach j ha = false then s.faultFrom n q.heat q.lane q.pc .addr
        else
          let open_ := s.gateRuns n
          let idle := s.blades[n].runs.isEmpty && 2048 ≤ s.bladeCycles n (s.clock.now - s.blades[n].idleSince)
          let s := s.bump (0x9100 + n.val) 9 (if !ramp && !open_ && idle then 1 else 0)
          (s.onBlade n fun b =>
            { b with arrival := some j
                     rampWait := if ramp && !open_ then some (q.tref + staggerNs s.moduleId n.val) else none }).tryStream n
      | _, _, _, _ => s.faultFrom n q.heat q.lane q.pc .descReserved

/-- BLADE_CHECK (R138): the BLADE at the head of its queue is checked. One that fails faults its Heat and does nothing
else; one that passes streams, once its gate and its receive slot let it. -/
def execBladeCheck (n : Fin 4) (s : State) : Host.Outcome State Fault Refusal :=
  .next (match s.blades[n].arrival, s.blades[n].queue.waiting with
    | none, q :: rest =>
      if s.slicing (bladeUnit n) then s.awaitSlice (bladeUnit n) else
      match q.op with
      | .blRun pd ch acc ramp =>
        ((s.onBlade n fun b => { b with queue := { b.queue with waiting := rest } }).checkBlade n q pd ch acc ramp).bladeHead n
      | _ => s
    | _, _ => s)

/-- RAMP_GATE_OPEN (R571): at t_ref + d_n the gate of a flagged BLADE opens. -/
def execRampGateOpen (n : Fin 4) (s : State) : Host.Outcome State Fault Refusal :=
  .next (match s.blades[n].rampWait with
    | some t =>
      let s := s.advanceTo t
      ((s.onBlade n fun b => { b with rampWait := none, gate := some s.clock.now }).tryStream n).bladeHead n
    | none => s)

/-- RECEIVE_SLOT_ARRIVAL (R185): the arrival semaphore has reached the block count, and the waiting BLADE enters. -/
def execReceiveSlotArrival (n : Fin 4) (s : State) : Host.Outcome State Fault Refusal :=
  .next ((s.tryStream n).bladeHead n)

/-- RECEIVE_SLOT_CREDIT_RETURN (R187): the last row of the consuming BLADE has left the prologue; the credits of the slot
return to the link, the slot can be filled again, and a CH_UNBIND that waited for it completes. -/
def execReceiveSlotCreditReturn (n : Fin 4) (rslot : Fin 64) (s : State) : Host.Outcome State Fault Refusal :=
  .next (
    let x := s.blades[n].recv[rslot]
    if x.busy then
      let s := match x.bound with
        | some (h, _) => s.freeSlotCredits (crewOf h).val x.credits
        | none => s
      let s := s.onBlade n fun b =>
        { b with
          recv := updAt b.recv rslot fun x =>
            if x.releasing then {} else { x with busy := false, credits := [], landed := [], posted := 0 }
          queue := { b.queue with started := b.queue.started.filter fun q => q.op != .chUnbind rslot } }
      (s.tryStream n).bladeHead n
    else s)

/-- GRANULE_WATCHDOG (R125): one pause of a granule, `cycles` long: EV-3030 once where it is longer than 0x3108.01, with the cause
0 FEED or 1 DRAIN; a Finish back-up pauses granule (7, q). 0x310n.0E keeps the longest (DESIGN CHOICE, log 15 and 78). -/
def execGranuleWatchdog (n : Fin 4) (g q : Fin 8) (drain : Bool) (cycles : Nat) (s : State) :
    Host.Outcome State Fault Refusal :=
  .next (
    let s := if s.entry (0x3100 + n.val) 0xE < cycles then s.setEntry (0x3100 + n.val) 0xE (min cycles (2 ^ 32 - 1)) else s
    if s.entry 0x3108 1 < cycles then
      s.raiseUnit (dieOf 2 n.val) 0x3030 1 n.val [n.val, if drain then 7 else g.val, q.val, if drain then 1 else 0]
    else s)

/-! ## Tiles (R72 to R76, R127 to R132, R153, R163, R172 to R182) -/

/-- The rows of a band, within the BLADE. -/
def Product.bandRows (p : Product) (band : Nat) : List Nat :=
  (List.range 64).filterMap fun i => if 64 * band + i < p.rows then some (64 * band + i) else none

/-- The columns of a group, within the BLADE. -/
def Product.groupRange (p : Product) (g : Nat) : Nat × Nat := (p.groupCols * g, min p.groupCols (p.ncol - p.groupCols * g))

/-- Change one tile. -/
def BladeRun.onTile (r : BladeRun) (k : Nat) (f : TileSt → TileSt) : BladeRun := { r with tiles := r.tiles.modify k f }

/-- The blocks of a tile with their exact values at one exponent (R153, R230). -/
def State.tileBlocks (s : State) (r : BladeRun) (band g : Nat) : List ((Nat × Nat) × (List Elem × Int)) :=
  let p := r.prod
  let rows := (p.bandRows band).map fun i => (i, (s.workRow r i).row)
  let (c0, nc) := p.groupRange g
  let value := fun (x y : Nat) =>
    match rows.find? (·.1 + p.row0 == x) with
    | some row => row.2.getD (y - p.col0) (some 0, 0)
    | none => (some 0, 0)
  (r.out.blocksIn (p.row0 + 64 * band) (p.bandRows band).length (p.col0 + c0) nc).map fun b =>
    (b, gatherBlock r.out b.1 b.2 value)

/-- Quantizes the blocks of a tile; `none` where one overflows. -/
def quantizeTile (w : Nat) (c : Int) (last : Bool) : List ((Nat × Nat) × (List Elem × Int)) →
    Option (List ((Nat × Nat) × QuantResult))
  | [] => some []
  | (b, v, a) :: rest =>
    match quantizeBlock v a c w last, quantizeTile w c last rest with
    | some q, some qs => some ((b, q) :: qs)
    | _, _ => none

/-- The attempts of a CLOSE tile, one after another (R132): the attempt that is final and its blocks. -/
def closeAttempts (w : Nat) (c : Int) (blocks : List ((Nat × Nat) × (List Elem × Int))) :
    Nat → Nat → Option (Nat × List ((Nat × Nat) × QuantResult))
  | 0, _ => none
  | fuel + 1, k =>
    match quantizeTile w (attemptCeiling c k) (attemptLast c k) blocks with
    | some qs => some (k, qs)
    | none => closeAttempts w c blocks fuel (k + 1)

/-- The element written at logical (x, y), with its block exponent. -/
def writtenAt (t : Tensor) (qs : List ((Nat × Nat) × QuantResult)) (x y : Nat) : Elem × Int :=
  let (p, q, i) := t.blockOf x y
  match qs.find? (·.1 == (p, q)) with
  | some (_, r) => if r.block.isZero then (some 0, zeroExp) else (r.block.elems.getD i (some 0), r.block.exp)
  | none => (some 0, zeroExp)

/-- The run at a place of the list of BLADEs in flight. -/
def State.onRun (s : State) (n : Fin 4) (k : Nat) (f : BladeRun → BladeRun) : State :=
  s.onBlade n fun b => { b with runs := b.runs.modify k f }

/-- A contribution of a tile to a ledger that is CLOSED, or of another owner, faults, and the BLADE makes no later one to that
ledger (R174, R182, R193). -/
def State.stopLedger (s : State) (n : Fin 4) (k : Nat) (q : QItem) (ledger : Nat) : State :=
  (s.onRun n k fun r => { r with stopped := ledger :: r.stopped }).faultFrom n q.heat q.lane q.pc .chainLedger

/-- E_STATS of one final tile (R172 to R174). -/
def State.statsTile (s : State) (n : Fin 4) (k : Nat) (r : BladeRun) (g : RStage) (band grp : Nat)
    (qs : List ((Nat × Nat) × QuantResult)) : State :=
  let a := s.accOf r.item.heat
  let led := s.ledgerAt a g.ledger
  if r.stopped.contains g.ledger then s
  else if led.state = 1 then s.stopLedger n k r.item g.ledger
  else
    let p := r.prod
    let (c0, nc) := p.groupRange grp
    let rows := (p.bandRows band).map fun i =>
      (p.row0 + i, (List.range nc).map fun c => writtenAt r.out qs (p.row0 + i) (p.col0 + c0 + c))
    let (s, ms) := s.addStatRows a g.ledger led.lam rows
    let s := ms.foldl (fun s row => s.raiseBlade n r.item.heat 0x3041 [g.handle, row]) s
    ((s.contribute a g.ledger (ceilDiv nc 64) led.owner).bump (0x3120 + n.val) 3 1).bump (0x3120 + n.val) 4 ms.length

/-- E_SMAX of one final tile: its contribution, and the commit of the band's rows once every tile of the band is final
(R181, R182). `done` says that this tile was the last of its band. -/
def State.smaxTile (s : State) (n : Fin 4) (k : Nat) (r : BladeRun) (g : RStage) (band grp : Nat) (done : Bool) : State :=
  let a := s.accOf r.item.heat
  let led := s.ledgerAt a g.ledger
  if r.stopped.contains g.ledger then s
  else if led.state = 1 ∨ (led.owner ≠ 0 ∧ led.owner ≠ n.val + 1) then s.stopLedger n k r.item g.ledger
  else
    let p := r.prod
    let results := if done then (p.bandRows band).map fun i => (i, (s.workRow r i).smax) else []
    let s := (s.contribute a g.ledger (ceilDiv (p.groupRange grp).2 64) (n.val + 1)).bump (0x3120 + n.val) 3 1
    results.foldl (fun s x => match x.2 with
      | none => s
      | some res =>
        let row := p.row0 + x.1
        let newly := res.row.mark && !(s.smaxRow a g.ledger row).mark
        let s := s.putSmaxRow a g.ledger led row (p.col0 / 512) res.row res.strip
        let s := (s.bump (0x3120 + n.val) 5 (if res.rescaled then 1 else 0)).bump (0x3120 + n.val) 4 (if newly then 1 else 0)
        if res.lSat then s.raiseBlade n r.item.heat 0x3041 [g.handle, row] else s) s

/-- E_MARK of one final tile (R163). -/
def State.markTile (s : State) (n : Fin 4) (k : Nat) (r : BladeRun) (g : RStage) (band grp : Nat)
    (qs : List ((Nat × Nat) × QuantResult)) : State :=
  let p := r.prod
  let (c0, nc) := p.groupRange grp
  let marks := (p.bandRows band).flatMap fun i => (List.range nc).filterMap fun c =>
    if (writtenAt r.out qs (p.row0 + i) (p.col0 + c0 + c)).1.isNone then some (p.row0 + i, p.col0 + c0 + c) else none
  let s := s.bump (0x3120 + n.val) 8 marks.length
  match marks with
  | [] => s
  | m :: _ =>
    if g.sel = 1 ∧ r.markSeen = false then
      (s.onRun n k fun r => { r with markSeen := true }).raiseBlade n r.item.heat 0x3040 [r.out.tid, m.1, m.2]
    else s

/-- A tile is final at attempt `t` (R73, R75, R153): its blocks are written, and its counts, ledger contributions and marks
follow. -/
def State.finalTile (s : State) (n : Fin 4) (k : Nat) (r : BladeRun) (band grp t : Nat)
    (blocks : List ((Nat × Nat) × (List Elem × Int))) (qs : List ((Nat × Nat) × QuantResult)) : State :=
  let p := r.prod
  let a := s.accOf r.item.heat
  let place := band * p.groups + grp
  let s := qs.foldl (fun s x => s.writeBlock a r.out x.1.1 x.1.2 x.2.block) s
  let marks := (qs.map fun x => markCount x.2.block.elems).sum
  let zeros := qs.countP (·.2.block.isZero)
  let lim := (qs.map (·.2.limitMarks)).sum
  let s := ((s.bump 0x3028 2 lim).bump 0x3028 3 marks).bump 0x3028 4 zeros
  let s := if 0 < lim then
    s.raiseBlade n r.item.heat 0x3020 [r.out.tid, p.row0 + 64 * band, p.col0 + (p.groupRange grp).1] else s
  let s := s.onRun n k fun r =>
    { r.onTile place fun x => { x with attempt := t, overflow := false, final := true } with
      redone := r.redone || t != 0
      wceil := max r.wceil (attemptCeiling r.out.expo t)
      top := blocks.foldl (fun m b => max m (topList b.2.1 b.2.2)) r.top
      marks := r.marks + marks, zeros := r.zeros + zeros, blocks := r.blocks + qs.length }
  let done := (List.range p.groups).all fun g => g == grp || (r.tiles.getD (band * p.groups + g) {}).final
  r.stages.foldl (fun s g => match g.code with
    | 0x14 => s.smaxTile n k r g band grp done
    | 0x16 => s.statsTile n k r g band grp qs
    | 0x17 => s.markTile n k r g band grp qs
    | _ => s) s

/-- Saturations of the working rows of a band, counted once, at the first decision of its group 0. -/
def State.bandSats (s : State) (r : BladeRun) (band : Nat) : Nat :=
  ((r.prod.bandRows band).map fun i => (s.workRow r i).sats).sum

/-- The oldest BLADE in flight that has a tile to decide. -/
def Blade.deciding (b : Blade) : Option (Nat × BladeRun) :=
  (b.runs.zipIdx.find? fun x => x.1.tiles.any (!·.final)).map fun x => (x.2, x.1)

/-- The blocks of an overflowing attempt that fit are complete and are written; the redo overwrites them (R128, R130). -/
def State.writeFitting (s : State) (a : Acc) (t : Tensor) (c : Int) (blocks : List ((Nat × Nat) × (List Elem × Int))) : State :=
  blocks.foldl (fun s b => match quantizeBlock b.2.1 b.2.2 c t.fmt.width false with
    | some q => s.writeBlock a t b.1.1 b.1.2 q.block
    | none => s) s

/-- Tile (band, group) of the run at place `k` is decided: it becomes final, or, in a drain-through BLADE before its last attempt,
waits for a redo (R128); a CLOSE BLADE re-quantizes at once (R132). -/
def State.decideTile (s : State) (n : Fin 4) (k : Nat) (r : BladeRun) (band : Nat) (group : Fin 8) : State :=
  let place := band * r.prod.groups + group.val
  let tile := r.tiles.getD place { final := true }
  if r.prod.groups ≤ group.val ∨ r.prod.bands ≤ band ∨ tile.final ∨ tile.overflow then s
  else
    let blocks := s.tileBlocks r band group.val
    let s := if group.val = 0 ∧ tile.attempt = 0 then s.bump 0x3028 8 (s.bandSats r band) else s
    if r.acc = 2 then
      match closeAttempts r.out.fmt.width r.out.expo blocks 4 0 with
      | some (t, qs) => ((s.bump 0x3028 1 t).bump (0x3100 + n.val) 0xD t).finalTile n k r band group.val t blocks qs
      | none => s
    else
      let c := attemptCeiling r.out.expo tile.attempt
      match quantizeTile r.out.fmt.width c (attemptLast r.out.expo tile.attempt) blocks with
      | some qs => s.finalTile n k r band group.val tile.attempt blocks qs
      | none =>
        (s.writeFitting (s.accOf r.item.heat) r.out c blocks).onRun n k fun r =>
          r.onTile place fun x => { x with overflow := true }

/-- TILE_DECISION (R127): the tile of band and group of the oldest undecided BLADE is quantized; a stream whose swap waited for
the last decision enters (R131). A CLOSE tile adds each of its attempts after
the first to 0x310n.0D and 0x3028.01 (DESIGN CHOICE, log 77). -/
def execTileDecision (n : Fin 4) (band : Nat) (group : Fin 8) (s : State) : Host.Outcome State Fault Refusal :=
  .next (match s.blades[n].deciding with
    | none => s
    | some (k, r) => ((s.decideTile n k r band group).tryStream n).bladeHead n)

/-- TILE_REDO (R128, R129): after the band's group-7 decision one re-stream serves every overflowing tile of the band. It counts its rows
and no second time what their first entry has counted: re-blocked blocks, diagonal rows, trims, saturations (DESIGN CHOICE, log 76). -/
def execTileRedo (n : Fin 4) (band : Nat) (s : State) : Host.Outcome State Fault Refusal :=
  .next (match s.blades[n].deciding with
    | none => s
    | some (k, r) =>
      let tiles := (List.range r.prod.groups).map fun g => r.tiles.getD (band * r.prod.groups + g) {}
      let overs := tiles.countP (·.overflow)
      if r.prod.bands ≤ band ∨ overs = 0 ∨ r.stopped.isEmpty = false ∨ tiles.any (fun t => !t.final && !t.overflow) then s
      else
        let rows := (r.prod.bandRows band).length
        let s := (((s.bump 0x3028 1 overs).bump (0x3100 + n.val) 1 rows).bump (0x3100 + n.val) 0xA rows).bump (0x3100 + n.val) 3
          (r.prod.cyclesPerRow * rows)
        s.onRun n k fun r => (List.range r.prod.groups).foldl (fun r g =>
          r.onTile (band * r.prod.groups + g) fun x =>
            if x.overflow then { x with attempt := x.attempt + 1, overflow := false } else x) r)

/-! ## Completion (R219) -/

/-- The entry cycles in which no row entered, by cause (R124), and the Finish ordering wait (R168): seven numbers, the causes in the
order of R124. -/
def State.countCauses (s : State) (n : Fin 4) (waits : List (BitVec 32)) : State :=
  let w := fun (i : Nat) => (waits.getD i 0).toNat
  let s := (List.range 6).foldl (fun (s : State) i => s.bump (0x3100 + n.val) (4 + i) (w i)) s
  (s.bump (0x3100 + n.val) 3 ((List.range 6).map w).sum).bump (0x3120 + n.val) 6 (w 6)

/-- BLADE_COMPLETE (R219): the oldest BLADE in flight, its tiles final and its requests delivered, updates the status word of its output, empties the
retain slot of a CLOSE that no FRESH BLADE has filled again, and posts its completion semaphore, unless it faulted. A
BLADE that a contribution has faulted ends with the tiles whose rows had entered: no further row enters (R193). The cycles that
it waited are counted. -/
def execBladeComplete (n : Fin 4) (x : BladeReport) (s : State) : Host.Outcome State Fault Refusal :=
  .next (match s.blades[n].runs with
    | [] => s
    | r :: rest =>
      if r.tiles.any (!·.final) && r.stopped.isEmpty then s
      else
        let crew := (crewOf r.item.heat).val
        let (ok, s) := s.memReport crew x.mem
        if !ok then s else
        let a := s.accOf r.item.heat
        let s := (s.countCauses n x.waits).holdSpans crew (s.bladeSpans r.toBladeJob)
        let s := if r.outKind = 0 then
          s.updateStatus a r.out
            { top := r.top, wceil := r.wceil, done := false, redone := r.redone, marks := r.marks, zeros := r.zeros
              blocks := r.blocks } else s
        let refilled := rest.any fun y => y.prod.rslot == r.prod.rslot && y.acc == 0 && retains 0 y.chain
        let s := s.onBlade n fun b =>
          { b with
            runs := rest
            idleSince := if rest.isEmpty then s.clock.now else b.idleSince
            queue := { b.queue with started := b.queue.started.filter (· != r.item) }
            slots := if r.acc = 2 ∧ refilled = false then b.slots.set (Fin.ofNat 4 r.prod.rslot) {} else b.slots }
        let s := if r.stopped.isEmpty then s.postItem r.item else s
        (s.tryStream n).bladeHead n)

/-! ## Tensor status instructions (R224) -/

/-- The faults of CH_TOPEN and CH_TCLOSE at issue: reserved bits, range, kind; a tensor with no status word is DESC_KIND. -/
def State.tensorFaults (s : State) (h : Fin 64) (d : Nat) (rsvHi : BitVec 2) (rsvLo : BitVec 30) : List (Plan × Bool) :=
  [rsvBad rsvHi, rsvBad rsvLo] ++ s.descFaults h d 1
    ++ [(.descKind, s.kindOf h d == 1 && !bitOf (s.descOf h d) 232)]

/-- The status word of a tensor is set by the sequencer: DESC_RESERVED and ADDR are found here. -/
def State.sequencerStatus (s : State) (h : Fin 64) (l : Fin 4) (d : Nat) (f : Tensor → StatusWord → StatusWord) : State :=
  match Tensor.parse (s.descOf h d) with
  | none => s.faultHeat h l (s.lane h l).pc .descReserved
  | some t =>
    let a := s.accOf h
    if s.statusReach a t then (s.putStatus a t (f t (s.statusOf a t))).nextPc h l
    else s.faultHeat h l (s.lane h l).pc .addr

/-- CH_TOPEN (R224): the status word takes the values of Table 05-6. -/
def execChTopen (h : Fin 64) (l : Fin 4) (handle : BitVec 16) (xi : BitVec 4) (rsvHi : BitVec 2) (rsvLo : BitVec 30)
    (s : State) : Host.Outcome State Fault Refusal :=
  let d := (s.lane h l).handle handle.toNat xi.toNat
  s.issue h l (s.tensorFaults h d rsvHi rsvLo) fun s =>
    s.sequencerStatus h l d fun t _ => StatusWord.opened t.expo

/-- CH_TCLOSE (R224): done becomes 1. -/
def execChTclose (h : Fin 64) (l : Fin 4) (handle : BitVec 16) (xi : BitVec 4) (rsvHi : BitVec 2) (rsvLo : BitVec 30)
    (s : State) : Host.Outcome State Fault Refusal :=
  let d := (s.lane h l).handle handle.toNat xi.toNat
  s.issue h l (s.tensorFaults h d rsvHi rsvLo) fun s =>
    s.sequencerStatus h l d fun _ w => { w with done := true }

end Sys2Proof.Machine
end

