-- ==== Sys2Proof/Machine/Logbook.lean ====
section
/-! DEFINITION. The Logbook (R465 to R470). -/
namespace Sys2Proof.Machine

/-- The widths of the record fields in bytes. The records that carry a structure of the spec have its widths: EV-5021 the STOP payload
(Table 09-12), EV-6020 the ring header (Table 08-3), EV-C002 the refusal record (Table 14-7); EV-5010 those of its twelve
fields; EV-8020 carries what fits of two 32-byte digests. Of the others the spec gives the order and 40 bytes: n fields take min(8, 40 / n) bytes each. -/
def Event.widths (e : Event) : List Nat :=
  match e.code with
  | 0x5010 => [4, 1, 4, 1, 4, 1, 1, 2, 2, 2, 2, 1]
  | 0x5021 => [3, 1, 1, 1, 2, 4, 8, 12]
  | 0x6020 => [2, 1, 16]
  | 0x8020 => [1, 19, 19]
  | 0xC002 => [8, 1, 1, 2, 2, 1, 1, 2, 2, 1, 1, 2, 1, 1, 6]
  | _ => List.replicate e.payload.length (min 8 (40 / max 1 e.payload.length))

/-- The record fields of an entry in order, each with its width. -/
def Event.record (e : Event) : List (Nat × Nat) := (e.widths.zip e.payload).map fun p => (p.1, ofSigned (8 * p.1) p.2)

/-- The payload bytes of an entry. -/
def Event.payloadBytes (e : Event) : List Byte := e.record.flatMap fun f => leBytes f.1 f.2

/-- The fields of an entry in the order of Table 10-6 with their widths in bytes, but for the payload. -/
def Event.fields (e : Event) (seq : Nat) : List (Nat × Nat) :=
  [(8, e.ts), (2, e.code), (1, e.unit), (1, e.index), (1, e.crew), (1, e.heat), (1, e.payloadBytes.length), (1, 0), (8, seq)]

/-- The 64 bytes of an entry in HBM, little-endian (R8), and in a mirror datagram, each field most significant byte first
(R9). -/
def Event.bytes (e : Event) (seq : Nat) : List Byte :=
  (e.fields seq).flatMap (fun f => leBytes f.1 f.2) ++ (e.payloadBytes ++ List.replicate 40 0).take 40
@[inherit_doc Event.bytes] def Event.wire (e : Event) (seq : Nat) : List Byte :=
  (e.fields seq).flatMap (fun f => beBytes f.1 f.2) ++ (e.record.flatMap (fun (f : Nat × Nat) => beBytes f.1 f.2) ++ List.replicate 40 0).take 40

/-- The region of the ring, once it is set and ACTIVE (R468). -/
def State.logRegion (s : State) : Option (Fin 64) :=
  if h : s.entry 0xA000 1 < 64 then
    if s.regions[s.entry 0xA000 1].state = .active then some ⟨s.entry 0xA000 1, h⟩ else none
  else none

/-- The capacity of the Logbook in entries (0xA000.09). -/
def State.logCapacity (s : State) : Nat :=
  match s.logRegion with
  | some r => s.regions[r].size / 64
  | none => 4096

/-- An entry is written into the ring (R468): entry seq lies in slot seq modulo the capacity. -/
def State.ringWrite (s : State) (seq : Nat) (e : Event) : State :=
  match s.logRegion with
  | none => s
  | some r =>
    let off := 64 * (seq % s.logCapacity)
    match s.regions[r].place off with
    | some (ch, dev) => s.setCells (hbmKey ch dev) (e.bytes seq)
    | none => s

/-- When a ring is set, the entries held on die are copied into it in seq order (R469). -/
def State.copyToRing (s : State) : State := s.log.held.foldl (fun s p => s.ringWrite p.1 p.2) s

/-- The Logbook takes an entry (R466, R468, R470). -/
def State.insertEvent (s : State) (e : Event) : State :=
  let seq := s.log.next
  let held := s.log.held ++ [(seq, e)]
  let s := { s with log := { s.log with next := seq + 1, held := held.drop (held.length - s.logCapacity) } }
  let s := (s.setEntry 0xA000 2 s.log.next).ringWrite seq e
  if s.entry 0xA000 4 = 1 ∧ bitOf (s.entry 0xA000 7) (e.code / 4096) then
    let s := { s with log := { s.log with
      mirror := s.log.mirror ++ [(seq, e)]
      mirrorSince := if s.log.mirror = [] then s.clock.now else s.log.mirrorSince } }
    if 1024 < s.log.mirror.length then { s with log := { s.log with mirror := s.log.mirror.drop 1 } }.bump 0xA000 8 1 else s
  else s

/-- EVENT_RECORD (R466, R467): a die inserts its oldest waiting event, no sooner than 10 ns after the one before. After a loss
the next entry is EV-A001 with the number lost and the time of the first loss. -/
def execEventRecord (d : Fin 2) (s : State) : Host.Outcome State Fault Refusal :=
  .next (
    let q := s.log.queues[d]
    if q.waiting = [] ∧ q.lost = 0 then s
    else
      let s := match q.lastInsert with
        | some t => s.advanceTo (t + 10)
        | none => s
      let set := fun (s : State) (q : LogQueue) => { s with log := { s.log with queues := s.log.queues.set d q } }
      if 0 < q.lost then
        (set s { q with lost := 0, firstLost := 0, lastInsert := some s.clock.now }).insertEvent
          { ts := s.stamp, code := 0xA001, payload := [q.lost, q.firstLost] }
      else match q.waiting with
        | [] => s
        | e :: rest => (set s { q with waiting := rest, lastInsert := some s.clock.now }).insertEvent e)

/-- MIRROR_DATAGRAM (R470): 22 entries wait, or 100 µs have passed since the first: a datagram of up to 22 entries leaves. -/
def execMirrorDatagram (s : State) : Host.Outcome State Fault Refusal :=
  .next (match s.log.mirror with
    | [] => s
    | p :: _ =>
      let s := if s.log.mirror.length < 22 then s.advanceTo (s.log.mirrorSince + 100000) else s
      let es := s.log.mirror.take 22
      let header := beBytes 4 0x4B4C4F47 ++ beBytes 3 s.moduleId ++ beBytes 1 es.length ++ beBytes 8 p.1
      { s with log := { s.log with mirror := s.log.mirror.drop 22, mirrorSince := s.clock.now } }.emit
        { kind := .mirror, fields := [s.entry 0xA000 5, s.entry 0xA000 6], bytes := header ++ es.flatMap fun (q : Nat × Event) => q.2.wire q.1 })

end Sys2Proof.Machine
end

