-- ==== Sys2Proof/Machine/Ctrl.lean ====
section
/-! DEFINITION. The CTRL instructions (R242 to R248) and the end of a plan. CT_STEP's loop is in Step loop, services in
Service. -/
namespace Sys2Proof.Machine

/-- CT_NOP (R243). -/
def execCtNop (h : Fin 64) (l : Fin 4) (rsv : BitVec 52) (s : State) : Host.Outcome State Fault Refusal :=
  s.issue h l [rsvBad rsv] fun s => s.nextPc h l

/-- CT_SETC (R243): LC[i] = imm. -/
def execCtSetc (h : Fin 64) (l : Fin 4) (i : Fin 16) (imm : BitVec 32) (rsv : BitVec 16) (s : State) :
    Host.Outcome State Fault Refusal :=
  s.issue h l [rsvBad rsv] fun s => (s.onLane h l (·.setCounter i.val imm.toNat)).nextPc h l

/-- CT_ADDC (R243): LC[i] += simm, modulo 2³² (R242). -/
def execCtAddc (h : Fin 64) (l : Fin 4) (i : Fin 16) (simm : BitVec 32) (rsv : BitVec 16) (s : State) :
    Host.Outcome State Fault Refusal :=
  s.issue h l [rsvBad rsv] fun s =>
    (s.onLane h l fun x => x.setCounter i.val (x.counter i.val + simm.toNat)).nextPc h l

/-- A taken branch to pc + 8 × off (R243, R244): a target outside the stream faults with ADDR. -/
def State.branch (s : State) (h : Fin 64) (l : Fin 4) (off : BitVec 20) : State :=
  let x := s.lane h l
  let t : Int := x.pc + 8 * off.toInt
  if (x.start : Int) ≤ t ∧ t < x.start + 8 * x.length then
    (s.bump (0x7200 + h.val) 9 1).onLane h l fun x => { x with pc := t.toNat }
  else s.faultHeat h l x.pc .addr

/-- The branch conditions of R244. -/
def State.branchTaken (s : State) (h : Fin 64) (l : Fin 4) (cond : BitVec 3) (i : Fin 16) (imm : BitVec 16) (sem : BitVec 9) :
    Bool :=
  let c := (s.lane h l).counter i.val
  match cond.toNat with
  | 0 => true
  | 1 => c == imm.toNat
  | 2 => c != imm.toNat
  | 3 => c < imm.toNat
  | 4 => imm.toNat ≤ s.sem h sem.toNat
  | 5 => s.heats[h].skip
  | _ => !s.heats[h].skip

/-- CT_BR (R244). cond 7 is reserved, and so is a semaphore field that cond does not use. A taken branch of condition 5
counts one skipped step in 0x3208.05 (R278). -/
def execCtBr (h : Fin 64) (l : Fin 4) (cond : BitVec 3) (i : Fin 16) (imm : BitVec 16) (off : BitVec 20) (sem : BitVec 9)
    (s : State) : Host.Outcome State Fault Refusal :=
  s.issue h l [(.insnReserved, cond == 7 || (cond != 4 && sem != 0)), (.semRange, cond == 4 && semBad false sem.toNat)]
    fun s =>
      if s.branchTaken h l cond i imm sem then
        let x := s.lane h l
        let t : Int := x.pc + 8 * off.toInt
        let ok := decide ((x.start : Int) ≤ t) && decide (t < x.start + 8 * x.length)
        (s.bump 0x3208 5 (if cond = 5 ∧ ok then 1 else 0)).branch h l off
      else s.nextPc h l

/-- CT_LOOP (R243): if LC[i] ≠ 0, LC[i] −= 1 and branch. A branch that faults changes nothing. -/
def execCtLoop (h : Fin 64) (l : Fin 4) (i : Fin 16) (off : BitVec 20) (rsv : BitVec 28) (s : State) :
    Host.Outcome State Fault Refusal :=
  s.issue h l [rsvBad rsv] fun s =>
    let x := s.lane h l
    let t : Int := x.pc + 8 * off.toInt
    if x.counter i.val = 0 then s.nextPc h l
    else if (x.start : Int) ≤ t ∧ t < x.start + 8 * x.length then
      (s.onLane h l fun x => x.setCounter i.val (x.counter i.val - 1)).branch h l off
    else s.faultHeat h l x.pc .addr

/-- CT_PHASE (R245): the hint for the lane's Blades, from the next stroke edge; the last one issued governs. -/
def execCtPhase (h : Fin 64) (l : Fin 4) (phase : BitVec 3) (rsv : BitVec 49) (s : State) :
    Host.Outcome State Fault Refusal :=
  s.issue h l [rsvBad rsv, (.insnReserved, 5 ≤ phase.toNat)] fun s =>
    let m := (s.lane h l).blades
    ({ s with blades := Vector.ofFn fun n : Fin 4 =>
        if bitOf m n.val then { s.blades[n] with phaseNext := some phase.toNat } else s.blades[n] }).nextPc h l

/-- The chain of live-range descriptors from a handle, with the fuel of its 64 descriptors: what its check finds (R206, R212,
R246), its ranges, and whether some descriptor has fin. -/
def State.markChain (s : State) (h : Fin 64) : Nat → Nat → List (Plan × Bool) × List (Nat × Nat) × Bool
  | 0, _ => ([(.pmark, true)], [], false)
  | fuel + 1, d =>
    if s.heats[h].header.dcount ≤ d then ([(.descRange, true)], [], false)
    else if s.kindOf h d ≠ 9 then ([(.descKind, true)], [], false)
    else match LiveRange.parse (s.descOf h d) with
      | none => ([(.descReserved, true)], [], false)
      | some r =>
        let outside := !r.ranges.all fun p => 0xF000000000 ≤ p.1 && s.decodes (s.accOf h) p.1 p.2
        match r.next with
        | none => ([(.pmark, outside)], r.ranges, r.fin)
        | some d' =>
          let rest := State.markChain s h fuel d'
          ((.pmark, outside) :: rest.1, r.ranges ++ rest.2.1, r.fin || rest.2.2)

/-- The live ranges and the fin of a valid chain; the fault of one that is not. -/
def State.liveRanges (s : State) (h : Fin 64) (d : Nat) : Plan ⊕ (List (Nat × Nat) × Bool) :=
  let c := s.markChain h 64 d
  match lowestFault c.1 with
  | some p => .inl p
  | none => .inr c.2

/-- CT_PMARK (R246): a pre-emption point. The handle is kept for the save; with a request pending the chain is checked and read,
and the lane stops. -/
def execCtPmark (h : Fin 64) (l : Fin 4) (handle : BitVec 16) (xi : BitVec 4) (rsv : BitVec 32) (s : State) :
    Host.Outcome State Fault Refusal :=
  let d := (s.lane h l).handle handle.toNat xi.toNat
  s.issue h l (rsvBad rsv :: s.descFaults h d 9) fun s =>
    if s.heats[h].request = none then (s.onLane h l fun x => { x with pmark := some d, live := none }).nextPc h l
    else match s.liveRanges h d with
      | .inl p => s.faultHeat h l (s.lane h l).pc p
      | .inr r => s.stopLane h l fun x => { x with pmark := some d, live := some r, stop := .atPmark }

/-- CT_STEP (R247): the lane closes its frame and the step. -/
def execCtStep (h : Fin 64) (l : Fin 4) (rsv : BitVec 52) (s : State) : Host.Outcome State Fault Refusal :=
  s.issue h l [rsvBad rsv] fun s => s.stopLane h l fun x => { x with stop := .closing true true }

/-- CT_HALT (R248): stops the lane, its program counter past the instruction (DEDUCED). -/
def execCtHalt (h : Fin 64) (l : Fin 4) (rsv : BitVec 52) (s : State) : Host.Outcome State Fault Refusal :=
  s.issue h l [rsvBad rsv] fun s => s.stopLane h l fun x => { x with pc := x.pc + 8, stop := .halted }

/-- HEAT_DONE (R248): every lane halted and every issued instruction complete, the Heat enters DONE, raises EV-7032 and
reports completion to the host. -/
def execHeatDone (h : Fin 64) (s : State) : Host.Outcome State Fault Refusal :=
  .next (if s.heats[h].status = .running ∧ (List.finRange 4).all (fun l => (s.lane h l).stop == .halted)
      ∧ s.outstanding (·.heat == h) = false ∧ s.heats[h].services = [] then
    ((s.raiseHeat h 0x7032 [h.val]).endHeat h .done).emit { kind := .hostDone, unit := h.val }
  else s)

end Sys2Proof.Machine
end

