-- ==== Sys2Proof/Machine/Scull.lean ====
section
/-! DEFINITION. The SCULL instructions but SC_OPT (R225 to R232, R283, R354 to R356). -/
namespace Sys2Proof.Machine

/-! ## Operand signatures (Table 05-12) -/

/-- What the auxiliary handle of an opcode names. -/
inductive ScullAux where
  | none | ledger | table | optTable | bias
deriving DecidableEq, Repr

/-- The operands of an opcode: the formats that each handle may name (an empty list: the handle is not used), the auxiliary
handle, whether eo is used. -/
structure ScullSig where
  a : List Format := []
  b : List Format := []
  d : List Format := []
  x : ScullAux := .none
  eo : Bool := false
deriving DecidableEq, Repr

/-- The SB formats. -/
def sbFormats : List Format := [.sb4, .sb8, .sb16, .sb32]

/-- Table 05-12, column Operands; SC_OPT has its own check. -/
def scullSig : Nat → ScullSig
  | 0x01 => { a := sbFormats, d := [.wl32] }
  | 0x02 => { a := [.wl32], d := sbFormats }
  | 0x03 => { a := [.wl32], d := [.wl32], x := .bias }
  | 0x04 => { a := [.wl32], d := [.wl32] }
  | 0x05 => { a := [.wl32], b := [.wl32], d := [.wl32] }
  | 0x06 => { a := [.wl32], b := .wl32 :: sbFormats, d := [.wl32] }
  | 0x07 => { a := [.wl32], d := [.wl32], x := .ledger }
  | 0x08 => { a := [.sb4, .sb8], x := .ledger }
  | 0x09 => { a := sbFormats }
  | 0x0A => { a := sbFormats, d := [.wl32], x := .ledger, eo := true }
  | 0x0B => { a := [.wl32], b := [.wl32], d := [.wl32], eo := true }
  | 0x0C => { a := [.wl32], d := [.wl32], eo := true }
  | 0x0D => { a := [.wl32], d := [.cw32], x := .table }
  | 0x0E => { a := [.cw32], b := [.cw32], d := [.cw32], x := .optTable }
  | 0x0F => { a := [.cw32], d := [.wl32], eo := true }
  | _ => { a := [.wl32], eo := true }

/-- Selectors and parameters that Table 05-12 defines (R227). -/
def scullSelOk (op : Nat) (sd : ScullDesc) : Bool :=
  match op with
  | 0x01 => sd.sel == 0 && sd.param == 0 || sd.sel == 1
  | 0x04 => sd.sel ≤ 4 && sd.param == 0
  | 0x05 => sd.sel == 0 && sd.param ≤ 31
  | 0x09 | 0x0C => sd.sel ≤ 1 && sd.param == 0
  | 0x0A => sd.sel ≤ 3 && sd.param == 0
  | _ => sd.sel == 0 && sd.param == 0

/-- Vectors of the region (R232). -/
def ScullDesc.vectors (sd : ScullDesc) : Nat := sd.rows * ceilDiv sd.ncol 512

/-- The Scull cycles of an instruction beyond its 12 (Table 05-12, R276). -/
def scullCost (op : Nat) (sd : ScullDesc) : Nat :=
  let v := sd.vectors
  match op with
  | 0x04 => if sd.sel = 0 then v else 4 * v
  | 0x07 => 6 * v
  | 0x0A => 2 * v + 8 * sd.rows
  | 0x0C => v + 2 * (if sd.sel = 0 then ceilDiv sd.ncol 512 else sd.rows)
  | 0x10 => 4 * v
  | 0x11 => 2 * v
  | _ => v

/-- The operands of a SCULL instruction as read at its check. -/
structure ScullNames where
  sd : ScullDesc
  a : Option Tensor
  b : Option Tensor
  d : Option Tensor
  x : Option Tensor
  addr : Option Nat
  len : Nat
deriving DecidableEq, Repr

/-- Reads the operands that the signature names. -/
def State.scullNames (s : State) (h : Fin 64) (g : ScullSig) (sd : ScullDesc) : ScullNames :=
  let t := fun (fs : List Format) d => if fs.isEmpty then none else s.tensor? h d
  let table := if s.kindOf h sd.hx = 5 then parseTable (s.descOf h sd.hx) else none
  { sd := sd, a := t g.a sd.ha, b := t g.b sd.hb, d := t g.d sd.hd
    x := if g.x = .bias then s.tensor? h sd.hx else none
    addr := match g.x with
      | .ledger => if s.kindOf h sd.hx = 4 then parseLedgerRef (s.descOf h sd.hx) else none
      | .table => table.map (·.1)
      | .optTable => if sd.hx = 0 then none else table.map (·.1)
      | _ => none
    len := (table.map (·.2)).getD 0 }

/-- The exponent in force of a CW32 tensor (R356). -/
def State.exponentOf (s : State) (a : Acc) (t : Tensor) : Int := s.ceilingOf a t

/-- D's logical shape under R227. -/
def shapeOk (op : Nat) (sd : ScullDesc) (a d : Tensor) : Bool :=
  if op = 0x0C then
    (if sd.sel = 0 then d.rows == 1 && d.cols == a.cols else d.rows == a.rows && d.cols == 1)
  else d.rows == a.rows && d.cols == a.cols

/-- Ledger conditions of R231 at the check. -/
def scullLedgerBad (op : Nat) (sd : ScullDesc) (led : Ledger) : Bool :=
  led.rows < sd.row0 + sd.rows
    || led.kind != (if op = 0x07 || (op = 0x0A && 2 ≤ sd.sel) then 1 else 0)
    || (op == 0x07 && led.stripLen ≤ (sd.col0 + sd.ncol - 1) / 512)
    || (op == 0x0A && led.state != 1)

/-- Every condition found at the check of a SCULL instruction but SC_OPT (R212, R226, R227, R231, R354, R356, R667). -/
def State.scullFaults (s : State) (h : Fin 64) (op : Nat) (n : ScullNames) : List (Plan × Bool) :=
  let g := scullSig op
  let sd := n.sd
  let acc := s.accOf h
  let tens := fun (fs : List Format) d =>
    if fs.isEmpty then [(Plan.descReserved, d != 0)] else s.innerFaults h d 1 fun x => (Tensor.parse x).isSome
  let fmtBad := fun (fs : List Format) (t : Option Tensor) => t.any fun t => !fs.contains t.fmt
  let outside := fun (t : Option Tensor) => t.any fun t => t.rows < sd.row0 + sd.rows || t.cols < sd.col0 + sd.ncol
  tens g.a sd.ha ++ tens g.b sd.hb ++ tens g.d sd.hd
    ++ (match g.x with
      | .none => [(Plan.descReserved, sd.hx != 0)]
      | .bias => s.innerFaults h sd.hx 1 fun x => (Tensor.parse x).isSome
      | .ledger => s.innerFaults h sd.hx 4 fun x => (parseLedgerRef x).isSome
      | .table => s.innerFaults h sd.hx 5 fun x => (parseTable x).isSome
      | .optTable => if sd.hx = 0 then [] else s.innerFaults h sd.hx 5 fun x => (parseTable x).isSome)
    ++ [(.descReserved, !scullSelOk op sd || (!g.eo && sd.eo != 0)),
      (.scullFormat, fmtBad g.a n.a || fmtBad g.b n.b || fmtBad g.d n.d || fmtBad [.sb8, .sb16, .sb32] n.x
        || (op == 0x0D && (match n.addr with
          | some ad => s.decodes acc ad 32 && s.load1 acc ad == 0x80
          | none => false))
        || (op == 0x0E && (match n.a, n.b with
          | some a, some b => s.exponentOf acc a != s.exponentOf acc b
          | _, _ => false))),
      (.scullShape, sd.rows == 0 || outside n.a || outside n.b
        || (match n.a, n.d with | some a, some d => !shapeOk op sd a d | _, _ => false)
        || (n.x.any fun x => x.cols < sd.col0 + sd.ncol)
        || ((g.x == .table || g.x == .optTable) && n.addr.isSome && n.len != 32)
        || (op == 0x02 && n.d.any fun d => !d.wholeBlocks sd.row0 sd.rows sd.col0 sd.ncol)
        || (op == 0x07 && sd.col0 % 512 != 0)
        || (op == 0x08 && (sd.row0 % 64 != 0 || sd.col0 % 64 != 0
          || n.a.any fun a => (sd.rows % 64 != 0 && sd.row0 + sd.rows != a.rows)
            || (sd.ncol % 64 != 0 && sd.col0 + sd.ncol != a.cols)))
        || (op == 0x11 && s.heats[h].loss.fed && s.heats[h].loss.accExp != sd.eo)),
      (.scullLedger, g.x == .ledger && (match n.addr with
        | some ad => s.decodes acc ad 64 && scullLedgerBad op sd (s.ledgerAt acc ad)
        | none => false))]

/-- The bytes that the instruction reads and writes, its ledger apart. -/
def ScullNames.spans (n : ScullNames) (op : Nat) : List Span :=
  let sd := n.sd
  let range := fun (t : Option Tensor) w => t.toList.flatMap fun t => t.spans sd.row0 sd.rows sd.col0 sd.ncol w
  let status := fun (t : Option Tensor) w => t.toList.flatMap fun t => t.statusSpans w
  range n.a false ++ range n.b false ++ status n.a false ++ status n.b false
    ++ (n.d.toList.flatMap fun d =>
      if op = 0x0C then (if sd.sel = 0 then d.spans 0 1 sd.col0 sd.ncol true else d.spans sd.row0 sd.rows 0 1 true)
      else d.spans sd.row0 sd.rows sd.col0 sd.ncol true)
    ++ (if op = 0x02 then status n.d true else []) ++ (if op = 0x09 then status n.a true else [])
    ++ (n.x.toList.flatMap fun x => x.spans 0 1 sd.col0 sd.ncol false)
    ++ (match (scullSig op).x, n.addr with
      | .table, some ad | .optTable, some ad => [{ at_ := ad, len := 32, write := true }]
      | _, _ => [])

/-- The ledger of the instruction, and whether it writes it. -/
def ScullNames.ledger (n : ScullNames) (op : Nat) : Option (Nat × Bool) :=
  if (scullSig op).x = .ledger then n.addr.map fun ad => (ad, op != 0x0A) else none

/-- Every address that the instruction reads or writes decodes. -/
def State.scullReach (s : State) (h : Fin 64) (op : Nat) (n : ScullNames) : Bool :=
  s.reaches (s.accOf h) (n.spans op) && (n.ledger op).all fun x => s.ledgerReach (s.accOf h) x.1 x.2

/-- All the bytes that the instruction reads and writes. -/
def State.scullSpans (s : State) (h : Fin 64) (op : Nat) (n : ScullNames) : List Span :=
  n.spans op ++ (n.ledger op).toList.flatMap fun x =>
    s.ledgerSpans (s.accOf h) x.1 false ++ if x.2 then s.ledgerSpans (s.accOf h) x.1 true else []

/-! ## Rows -/

/-- What a Scull writes into a row of D: (element, exponent) per column; what it counts. -/
structure RowOut where
  vals : List (Elem × Int)
  sats : Nat := 0
  dom : Nat := 0
deriving DecidableEq, Repr

/-- The row of a WL32 operand in the region. -/
def State.wlRow (s : State) (a : Acc) (t : Tensor) (sd : ScullDesc) (r : Nat) : List (Elem × Int) :=
  (List.range sd.ncol).map fun j => s.wlElem a t r (sd.col0 + j)

/-- The row of a CW32 operand. -/
def State.cwRow (s : State) (a : Acc) (t : Tensor) (sd : ScullDesc) (r : Nat) : List Elem :=
  (List.range sd.ncol).map fun j => s.flatElem a t r (sd.col0 + j)

/-- Writes a row of a WL32 destination from column `c0` on, with its row exponents. -/
def State.putRow (s : State) (a : Acc) (t : Tensor) (r c0 : Nat) (vals : List (Elem × Int)) : State :=
  vals.zipIdx.foldl (fun s x => (s.putWlElem a t r (c0 + x.2) x.1.1).putWlExp a t r (c0 + x.2) x.1.2) s

/-- Writes a row of a CW32 destination. -/
def State.putFlatRow (s : State) (a : Acc) (t : Tensor) (r c0 : Nat) (vals : List Elem) : State :=
  vals.zipIdx.foldl (fun s x => s.putFlat a t r (c0 + x.2) x.1) s

/-- Rows in increasing order (R228): each row is formed and written, its saturations and domain errors counted. -/
def State.eachRow (s : State) (a : Acc) (d : Tensor) (sd : ScullDesc) (f : State → Nat → RowOut) : State :=
  (List.range sd.rows).foldl (fun s i =>
    let o := f s (sd.row0 + i)
    ((s.bump 0x3028 8 o.sats).bump 0x3028 9 o.dom).putRow a d (sd.row0 + i) sd.col0 o.vals) s

/-- Raise an event of a Scull on behalf of a Heat. -/
def State.raiseScull (s : State) (k : Fin 16) (h : Fin 64) (code : Nat) (payload : List Int) : State :=
  s.raiseOn (dieOf 8 k.val)
    { ts := s.stamp, code := code, unit := 2, index := k.val, crew := (crewOf h).val, heat := h.val, payload := payload }

/-- A row with each value narrowed. -/
def narrowedRow (ys : List ((Elem × Nat) × Int)) : RowOut :=
  { vals := ys.map fun y => (y.1.1, y.2), sats := (ys.map (·.1.2)).sum }

/-! ## The opcodes -/

/-- A Scull reads an SB operand: the entry of its blocks is counted (R77). -/
def State.scullEntry (s : State) (k : Fin 16) (h : Fin 64) (t : Tensor) (r0 nr c0 nc : Nat) : State :=
  s.countEntry (s.accOf h) t (s.ceilingOf (s.accOf h) t) r0 nr c0 nc fun s => s.raiseScull k h 0x3021 [t.tid]

/-- SC_EXPAND: the entry of R77 and the expansion of R149, SB32 narrowed into WL32. -/
def State.scExpand (s : State) (k : Fin 16) (h : Fin 64) (sd : ScullDesc) (a d : Tensor) : State :=
  let acc := s.accOf h
  let c := s.ceilingOf acc a
  let e := c - 7 + (if sd.sel = 1 then s8 sd.param else 0)
  (s.scullEntry k h a sd.row0 sd.rows sd.col0 sd.ncol).eachRow acc d sd fun s r => narrowedRow <| (List.range sd.ncol).map fun j =>
    (narrow32 (expandAt c (s.entered acc a c 0 r (sd.col0 + j))) e e, e)

/-- SC_QUANT (R230). -/
def State.scQuant (s : State) (h : Fin 64) (sd : ScullDesc) (a d : Tensor) : State :=
  let acc := s.accOf h
  let blocks := (d.blocksIn sd.row0 sd.rows sd.col0 sd.ncol).map fun b => (b, gatherBlock d b.1 b.2 (s.wlElem acc a))
  let qs := blocks.map fun b => (b.1, quantizeSat b.2.1 b.2.2 d.expo d.fmt.width)
  let zeros := qs.countP (·.2.block.isZero)
  let s := qs.foldl (fun s x => s.writeBlock acc d x.1.1 x.1.2 x.2.block) s
  ((s.bump 0x3028 8 (qs.map (·.2.sats)).sum).bump 0x3028 4 zeros).updateStatus acc d
    { top := blocks.foldl (fun m b => max m (topList b.2.1 b.2.2)) topNone, wceil := d.expo, done := false, redone := false
      marks := (qs.map fun x => markCount x.2.block.elems).sum, zeros := zeros, blocks := qs.length }

/-- SC_BIAS: E_BIAS of Table 04-4, its vector read under R77 (DEDUCED, log 68). -/
def State.scBias (s : State) (k : Fin 16) (h : Fin 64) (sd : ScullDesc) (a d x : Tensor) : State :=
  let acc := s.accOf h
  let c := s.ceilingOf acc x
  (s.scullEntry k h x 0 1 sd.col0 sd.ncol).eachRow acc d sd fun s r => narrowedRow <| (s.wlRow acc a sd r).zipIdx.map fun u =>
    let b := s.entered acc x c 0 0 (sd.col0 + u.2)
    (addAt u.1.1 u.1.2 b.1 b.2, u.1.2)

/-- SC_ACT: E_ACT. -/
def State.scAct (s : State) (h : Fin 64) (sd : ScullDesc) (a d : Tensor) : State :=
  let acc := s.accOf h
  s.eachRow acc d sd fun s r =>
    { vals := (s.wlRow acc a sd r).map fun u => (u.1.map fun v => (activation sd.sel v u.2).1, activationExp sd.sel) }

/-- SC_GATE: E_GATE with g = param. -/
def State.scGate (s : State) (h : Fin 64) (sd : ScullDesc) (a b d : Tensor) : State :=
  let acc := s.accOf h
  s.eachRow acc d sd fun s r => narrowedRow <|
    List.zipWith (fun u v => (gateMul u.1 v.1 sd.param, u.2 + v.2 + sd.param)) (s.wlRow acc a sd r) (s.wlRow acc b sd r)

/-- SC_RESID: E_RESID with an SB operand, read under R77 (DEDUCED, log 68), or a WL32 operand. -/
def State.scResid (s : State) (k : Fin 16) (h : Fin 64) (sd : ScullDesc) (a b d : Tensor) : State :=
  let acc := s.accOf h
  let c := s.ceilingOf acc b
  let s := if b.fmt = .wl32 then s else s.scullEntry k h b sd.row0 sd.rows sd.col0 sd.ncol
  s.eachRow acc d sd fun s r => narrowedRow <| (s.wlRow acc a sd r).zipIdx.map fun u =>
    let v := if b.fmt = .wl32 then s.wlElem acc b r (sd.col0 + u.2) else s.entered acc b c 0 r (sd.col0 + u.2)
    (addAt u.1.1 u.1.2 v.1 v.2, u.1.2)

/-- SC_ADD. -/
def State.scAdd (s : State) (h : Fin 64) (sd : ScullDesc) (a b d : Tensor) : State :=
  let acc := s.accOf h
  s.eachRow acc d sd fun s r => narrowedRow <|
    List.zipWith (fun u v => (addNarrow u.1 u.2 v.1 v.2 sd.eo, sd.eo)) (s.wlRow acc a sd r) (s.wlRow acc b sd r)

/-- The 64 × 64 tiles of the grid of `a` whose last row and column the region holds. -/
def ScullDesc.tiles (sd : ScullDesc) (a : Tensor) : Nat :=
  let count := fun lo n total =>
    (List.range (ceilDiv (lo + n) 64)).countP fun t => lo ≤ 64 * t + 63 && (64 * t + 64 ≤ lo + n || lo + n == total)
  count sd.row0 sd.rows a.rows * count sd.col0 sd.ncol a.cols

/-- Whether a contribution of `n` tiles reaches a CLOSED ledger (R174, R231), or a soft-max ledger that a Blade owns. -/
def contributionBad (op : Nat) (led : Ledger) (n : Nat) : Bool :=
  led.state == 1 || (n != 0 && led.fullCount < led.contrib + n) || (op == 0x07 && led.owner != 0)

/-- SC_SMAX (R231): R179 on each vector of a row, the row committed once its last vector is done. -/
def State.scSmax (s : State) (k : Fin 16) (h : Fin 64) (sd : ScullDesc) (a d : Tensor) (addr : Nat) : State :=
  let acc := s.accOf h
  let led := s.ledgerAt acc addr
  let s := (List.range sd.rows).foldl (fun s i =>
    let r := sd.row0 + i
    (List.range (ceilDiv sd.ncol 512)).foldl (fun s v =>
      let xs := ((s.wlRow acc a sd r).drop (512 * v)).take 512
      let res := smaxChunk (xs.map (·.1)) ((xs.head?.map (·.2)).getD 0) (s.smaxRow acc addr r)
      let s := s.putSmaxRow acc addr led r (sd.col0 / 512 + v) res.row res.strip
      let s := (s.bump 0x3028 8 res.sats).putRow acc d r (sd.col0 + 512 * v) (res.p.map fun x => (x, -30))
      if res.lSat then s.raiseScull k h 0x3041 [sd.hx, r] else s) s) s
  s.contribute acc addr (sd.tiles a) 0

/-- SC_STATS (R231): the tiles of the region contribute under R172 to R174, from the blocks as stored. -/
def State.scStats (s : State) (k : Fin 16) (h : Fin 64) (sd : ScullDesc) (a : Tensor) (addr : Nat) : State :=
  let acc := s.accOf h
  let led := s.ledgerAt acc addr
  (List.range (ceilDiv sd.rows 64)).foldl (fun s t => (List.range (ceilDiv sd.ncol 64)).foldl (fun s u =>
    let nr := min 64 (sd.rows - 64 * t)
    let nc := min 64 (sd.ncol - 64 * u)
    let rows := (List.range nr).map fun i =>
      let r := sd.row0 + 64 * t + i
      (r, (List.range nc).map fun j => s.stored acc a r (sd.col0 + 64 * u + j))
    let (s, ms) := s.addStatRows acc addr led.lam rows
    (ms.foldl (fun s row => s.raiseScull k h 0x3041 [sd.hx, row]) s).contribute acc addr 1 led.owner) s) s

/-- The marks of the region of an SB tensor as a Scull reads it (R77; DEDUCED, log 68), in row-major order. -/
def State.marksIn (s : State) (acc : Acc) (sd : ScullDesc) (a : Tensor) : List (Nat × Nat) :=
  let c := s.ceilingOf acc a
  (List.range sd.rows).flatMap fun i => (List.range sd.ncol).filterMap fun j =>
    if (s.entered acc a c 0 (sd.row0 + i) (sd.col0 + j)).1.isNone then some (sd.row0 + i, sd.col0 + j) else none

/-- SC_MARK: A's marks join its status word; with sel 1 the first raises EV-3040. -/
def State.scMark (s : State) (k : Fin 16) (h : Fin 64) (sd : ScullDesc) (a : Tensor) : State :=
  let acc := s.accOf h
  let ms := s.marksIn acc sd a
  let s := (s.scullEntry k h a sd.row0 sd.rows sd.col0 sd.ncol).updateStatus acc a
    { top := topNone, wceil := -128, done := false, redone := false, marks := ms.length, zeros := 0, blocks := 0 }
  match ms with
  | m :: _ => if sd.sel = 1 then s.raiseScull k h 0x3040 [a.tid, m.1, m.2] else s
  | [] => s

/-- SC_LEDGER: P_LEDGER on A expanded under R149, re-expressed at eo (sel 3: as expanded). -/
def State.scLedger (s : State) (k : Fin 16) (h : Fin 64) (sd : ScullDesc) (a d : Tensor) (addr : Nat) : State :=
  let acc := s.accOf h
  let led := s.ledgerAt acc addr
  let c := s.ceilingOf acc a
  let ev := fun (s : State) => s.raiseScull k h 0x3021 [a.tid]
  let g : RStage := { code := 3, sel := sd.sel, param := 0, ledger := addr, handle := sd.hx }
  let s := if sd.sel < 2 then s.countEntry acc a c sd.row0 sd.rows sd.col0 sd.ncol ev
    else (List.range sd.rows).foldl (fun s i =>
      let r := sd.row0 + i
      if (s.smaxRow acc addr r).mark then s
      else s.countEntryBy a (fun p q =>
        let b := s.readBlock acc a p q
        if b.isZero then b else { b with exp := b.exp + s.smaxAdjust acc addr led r (a.elemCoord p q 0).2 })
        c r 1 sd.col0 sd.ncol ev) s
  s.eachRow acc d sd fun s r =>
    let marked := 2 ≤ sd.sel && (s.smaxRow acc addr r).mark
    let xs := (List.range sd.ncol).map fun j =>
      if marked then none
      else expandAt c (s.entered acc a c (if sd.sel < 2 then 0 else s.smaxAdjust acc addr led r (sd.col0 + j)) r (sd.col0 + j))
    let (ys, e, m, dom) := s.prologueStage acc g r xs (c - 7)
    let eo := if sd.sel = 3 then c - 7 else sd.eo
    let o := narrowedRow (ys.map fun y => (narrow32 y e eo, eo))
    { o with sats := o.sats + m, dom := dom }

/-- The exact sum of a vector (R229): a mark if an element is one, at the smallest exponent among its lanes. -/
def vectorSum (xs : List (Elem × Int)) : Elem × Int :=
  let e := xs.foldl (fun m x => min m x.2) ((xs.head?.map (·.2)).getD 0)
  if xs.any (·.1.isNone) then (none, e)
  else (some ((xs.filterMap fun x => x.1.map fun v => shl v (x.2 - e).toNat).sum), e)

/-- SC_RSUM (R229). -/
def State.scRsum (s : State) (h : Fin 64) (sd : ScullDesc) (a d : Tensor) : State :=
  let acc := s.accOf h
  if sd.sel = 0 then
    let ys := (List.range sd.ncol).map fun j =>
      rsum ((List.range sd.rows).map fun t => s.wlElem acc a (sd.row0 + t) (sd.col0 + j)) sd.eo
        fun t => keel s.seed 1 d.tid 0 (sd.col0 + j) t
    (s.bump 0x3028 8 (ys.map (·.2)).sum).putRow acc d 0 sd.col0 (ys.map fun y => (y.1, sd.eo))
  else
    (List.range sd.rows).foldl (fun s i =>
      let r := sd.row0 + i
      let row := s.wlRow acc a sd r
      let terms := (List.range (ceilDiv sd.ncol 512)).map fun v => vectorSum ((row.drop (512 * v)).take 512)
      let y := rsum terms sd.eo fun t => keel s.seed 1 d.tid r 0 t
      (s.bump 0x3028 8 y.2).putRow acc d r 0 [(y.1, sd.eo)]) s

/-- The timestamp of the Scull cycle in which vector `v` of an instruction taken now converts: 12 cycles, then one a vector, at
1.65 GHz (R232, R355; log 14). -/
def State.cycleStamp (s : State) (v : Nat) : Nat := s.stampAt (s.clock.now + (12 + v) * 20 / 33)

/-- One row of conversions under R355; `ts` is the timestamp at which the element at place `i` of the row converts. -/
def convertRow (key : Nat → Nat) (mod : Nat) (ts : Nat → Nat) : Nat → List (Elem × Int) → CarryFlags → List Elem × CarryFlags × Nat
  | _, [], w => ([], w, 0)
  | i, x :: xs, w =>
    let (y, w, n) := w.convert x.1 x.2 (key i) mod (ts i)
    let (ys, w, m) := convertRow key mod ts (i + 1) xs w
    (y :: ys, w, n + m)

/-- Row `i` of an SC_CARRY region: the carry words, the flags after it, the saturations. -/
def State.carryRow (s : State) (acc : Acc) (sd : ScullDesc) (a : Tensor) (i : Nat) (w : CarryFlags) :
    List Elem × CarryFlags × Nat :=
  let r := sd.row0 + i
  convertRow (fun j => keel s.seed 5 a.tid r (sd.col0 + j) 0) s.moduleId
    (fun j => s.cycleStamp (i * ceilDiv sd.ncol 512 + j / 512)) 0 (s.wlRow acc a sd r) w

/-- SC_CARRY (R355): the conversions and the flags that its word takes when it completes. -/
def State.scCarry (s : State) (h : Fin 64) (sd : ScullDesc) (a d : Tensor) (addr : Nat) : State × CarryFlags :=
  let acc := s.accOf h
  (List.range sd.rows).foldl (fun (st : State × CarryFlags) i =>
    let (ys, w, n) := st.1.carryRow acc sd a i st.2
    ((st.1.bump 0x3028 8 n).putFlatRow acc d (sd.row0 + i) sd.col0 ys, w)) (s, { aexp := s8 (s.load1 acc addr).toNat })

/-- SC_CADD: the exact sum of two CW32 operands, saturated; the flags go to the word that hx names, if any. -/
def State.scCadd (s : State) (h : Fin 64) (sd : ScullDesc) (a b d : Tensor) : State × CarryFlags :=
  let acc := s.accOf h
  (List.range sd.rows).foldl (fun (st : State × CarryFlags) i =>
    let r := sd.row0 + i
    let ys := List.zipWith caddElem (st.1.cwRow acc a sd r) (st.1.cwRow acc b sd r)
    let n := ys.countP (·.2)
    let w := { st.2 with spill := st.2.spill || n != 0, mark := st.2.mark || ys.any (·.1.isNone) }
    ((st.1.bump 0x3028 8 n).putFlatRow acc d r sd.col0 (ys.map (·.1)), w)) (s, { aexp := 0 })

/-- SC_UNCARRY: the value at the exponent in force re-expressed at eo (R356). -/
def State.scUncarry (s : State) (h : Fin 64) (sd : ScullDesc) (a d : Tensor) : State :=
  let acc := s.accOf h
  let e := s.exponentOf acc a
  s.eachRow acc d sd fun s r => narrowedRow <| (s.cwRow acc a sd r).map fun x => (narrow32 x e sd.eo, sd.eo)

/-- `loss_part` of R283 over one region: the sum, the mark, the saturations. The tensor id of its keel draws is A's (DESIGN CHOICE,
log 75). -/
def State.lossPart (s : State) (acc : Acc) (sd : ScullDesc) (a : Tensor) : Int × Bool × Nat :=
  (List.range sd.rows).foldl (fun st i =>
    let r := sd.row0 + i
    (s.wlRow acc a sd r).zipIdx.foldl (fun (st : Int × Bool × Nat) x =>
      match x.1.1 with
      | none => (st.1, true, st.2.2)
      | some v =>
        let y := reduceTerm v x.1.2 sd.eo (keel s.seed 1 a.tid r (sd.col0 + x.2) 0)
        (st.1 + sat y 48, st.2.1, st.2.2 + satCount y 48)) st) (0, false, 0)

/-- SC_LOSS (R283): the partial joins the Heat's step accumulator, an s80. -/
def State.scLoss (s : State) (h : Fin 64) (sd : ScullDesc) (a : Tensor) : State :=
  let (p, marked, n) := s.lossPart (s.accOf h) sd a
  (s.bump 0x3028 8 n).onHeat h fun x => { x with loss :=
    { x.loss with acc := toSigned 80 (ofSigned 80 (x.loss.acc + p)), accExp := sd.eo, mark := x.loss.mark || marked, fed := true } }

/-! ## Units -/

/-- The effect of a SCULL instruction whose operands are there. -/
def State.scullDo (s : State) (k : Fin 16) (h : Fin 64) (op : Nat) (n : ScullNames) : State :=
  let sd := n.sd
  match op, n.a, n.b, n.d, n.x, n.addr with
  | 0x01, some a, _, some d, _, _ => s.scExpand k h sd a d
  | 0x02, some a, _, some d, _, _ => s.scQuant h sd a d
  | 0x03, some a, _, some d, some x, _ => s.scBias k h sd a d x
  | 0x04, some a, _, some d, _, _ => s.scAct h sd a d
  | 0x05, some a, some b, some d, _, _ => s.scGate h sd a b d
  | 0x06, some a, some b, some d, _, _ => s.scResid k h sd a b d
  | 0x07, some a, _, some d, _, some ad => s.scSmax k h sd a d ad
  | 0x08, some a, _, _, _, some ad => s.scStats k h sd a ad
  | 0x09, some a, _, _, _, _ => s.scMark k h sd a
  | 0x0A, some a, _, some d, _, some ad => s.scLedger k h sd a d ad
  | 0x0B, some a, some b, some d, _, _ => s.scAdd h sd a b d
  | 0x0C, some a, _, some d, _, _ => s.scRsum h sd a d
  | 0x0D, some a, _, some d, _, some ad => (s.scCarry h sd a d ad).1
  | 0x0E, some a, some b, some d, _, _ => (s.scCadd h sd a b d).1
  | 0x0F, some a, _, some d, _, _ => s.scUncarry h sd a d
  | 0x11, some a, _, _, _, _ => s.scLoss h sd a
  | _, _, _, _, _, _ => s

/-- The carry-flag word of SC_CARRY or SC_CADD and what it takes at completion (R354, R355). -/
def State.scullFlags (s : State) (h : Fin 64) (op : Nat) (n : ScullNames) : Option (Nat × CarryFlags) :=
  match op, n.a, n.b, n.d, n.addr with
  | 0x0D, some a, _, some d, some ad => some (ad, (s.scCarry h n.sd a d ad).2)
  | 0x0E, some a, some b, some d, some ad => some (ad, (s.scCadd h n.sd a b d).2)
  | _, _, _, _, _ => none

/-- Whether SC_STATS or SC_SMAX finds its ledger CLOSED, or owned by a Blade, at a contribution (R231). -/
def State.lateContribution (s : State) (h : Fin 64) (op : Nat) (n : ScullNames) : Bool :=
  (op == 0x07 || op == 0x08) && (match n.addr, n.a with
    | some ad, some a => contributionBad op (s.ledgerAt (s.accOf h) ad) (n.sd.tiles a)
    | _, _ => false)

/-- The bytes that a SCULL instruction but SC_OPT needs; none where it faults. -/
def State.scullNeeds (s : State) (q : QItem) (op d : Nat) : List Span :=
  match ScullDesc.parse (s.descOf q.heat d) with
  | none => []
  | some sd =>
    let n := s.scullNames q.heat (scullSig op) sd
    if (lowestFault (s.scullFaults q.heat op n)).isNone ∧ s.scullReach q.heat op n ∧ !s.lateContribution q.heat op n then
      s.scullSpans q.heat op n
    else []

/-- A SCULL instruction but SC_OPT is checked and executed: the state, and what the Scull then runs; `none` where it
faulted. -/
def State.scullRun (s : State) (k : Fin 16) (q : QItem) (op d : Nat) : State × Option ScullRun :=
  let h := q.heat
  match ScullDesc.parse (s.descOf h d) with
  | none => (s.faultHeat h q.lane q.pc .descReserved, none)
  | some sd =>
    let n := s.scullNames h (scullSig op) sd
    match lowestFault (s.scullFaults h op n) with
    | some p => (s.faultHeat h q.lane q.pc p, none)
    | none =>
      if s.scullReach h op n = false then (s.faultHeat h q.lane q.pc .addr, none)
      else if s.lateContribution h op n then (s.faultHeat h q.lane q.pc .scullLedger, none)
      else
        let marks := if op = 0x09 then (n.a.map fun a => (s.marksIn (s.accOf h) sd a).length).getD 0 else 0
        (s.scullDo k h op n,
          some { item := q, vectors := sd.vectors, cost := 12 + scullCost op sd, marks := marks, flags := s.scullFlags h op n
                 spans := s.scullSpans h op n })

end Sys2Proof.Machine
end

