-- ==== Sys2Proof/Machine/Optimizer.lean ====
section
/-! DEFINITION. SC_OPT, the health word, the commands of the SCULL family (R225, R228, R232, R270 to R282). -/
namespace Sys2Proof.Machine

/-! ## The optimizer descriptor (Table 06-4) -/

/-- An optimizer descriptor. -/
structure OptDesc where
  hp : Nat
  hg : Nat
  hm1 : Nat
  hm2 : Nat
  hn : Nat
  hs : Nat
  hw : Nat
  mode : Nat
  gtr : Bool
  qen : Bool
  gshift : Int
  u : Nat
  b1 : Nat
  b2 : Nat
  wd : Nat
  epsM : Nat
  epsE : Int
  layer : Nat
deriving DecidableEq, Repr

/-- Reads Table 06-4; `none` is DESC_RESERVED (Table 06-5). -/
def OptDesc.parse (n : Nat) : Option OptDesc :=
  let mode := bitsOf n 136 2
  if bitsOf n 154 6 ≠ 0 ∨ bitsOf n 248 8 ≠ 0 ∨ mode = 3 ∨ (mode = 0 ∧ bitsOf n 32 16 ≠ 0) ∨ (mode < 2 ∧ bitsOf n 48 16 ≠ 0)
      ∨ bitsOf n 96 40 % 32 ≠ 0 then none
  else some
    { hp := bitsOf n 0 16, hg := bitsOf n 16 16, hm1 := bitsOf n 32 16, hm2 := bitsOf n 48 16, hn := bitsOf n 64 16
      hs := bitsOf n 80 16, hw := bitsOf n 96 40, mode := mode, gtr := bitOf n 138, qen := bitOf n 139
      gshift := s8 (bitsOf n 140 8), u := bitsOf n 148 6, b1 := bitsOf n 160 16, b2 := bitsOf n 176 16
      wd := bitsOf n 192 16, epsM := bitsOf n 208 16, epsE := s8 (bitsOf n 224 8), layer := bitsOf n 232 16 }

/-- What SC_OPT reads at its check. -/
structure OptNames where
  sd : ScullDesc
  o : OptDesc
  p : Tensor
  g : Tensor
  m1 : Option Tensor
  m2 : Option Tensor
  n : Option Tensor
  sched : Nat × Nat
deriving DecidableEq, Repr

/-- Reads the handles of an optimizer descriptor. -/
def State.optNames (s : State) (h : Fin 64) (sd : ScullDesc) (o : OptDesc) : Option OptNames :=
  match s.tensor? h o.hp, s.tensor? h o.hg, (if s.kindOf h o.hs = 5 then some (bitsOf (s.descOf h o.hs) 0 40, bitsOf (s.descOf h o.hs) 40 24) else none) with
  | some p, some g, some t =>
    some { sd := sd, o := o, p := p, g := g, m1 := if o.mode = 0 then none else s.tensor? h o.hm1
           m2 := if o.mode = 2 then s.tensor? h o.hm2 else none, n := if o.hn = 0 then none else s.tensor? h o.hn, sched := t }
  | _, _, _ => none

/-- The faults of the handles inside an optimizer descriptor (Table 06-5, DESC_KIND; R212). The schedule length 0 is
SCULL_SHAPE, so its table descriptor is reserved only by its other bits. -/
def State.optHandleFaults (s : State) (h : Fin 64) (o : OptDesc) : List (Plan × Bool) :=
  let tens := fun d => s.innerFaults h d 1 fun x => (Tensor.parse x).isSome
  tens o.hp ++ tens o.hg ++ (if o.mode = 0 then [] else tens o.hm1) ++ (if o.mode = 2 then tens o.hm2 else [])
    ++ (if o.hn = 0 then [] else tens o.hn) ++ s.innerFaults h o.hs 5 fun x => bitsOf x 64 192 == 0

/-- The format and shape conditions of Table 06-5. -/
def OptNames.faults (x : OptNames) : List (Plan × Bool) :=
  let sd := x.sd
  let moments := x.m1.toList ++ x.m2.toList
  let same := fun (t : Tensor) => t.rows == x.p.rows && t.cols == x.p.cols
  [(.scullFormat, x.p.fmt != .mw32 || !(x.g.fmt == .sb16 || x.g.fmt == .wl32 || x.g.fmt == .cw32)
      || moments.any (fun t => t.fmt != .sb32 || t.shape != 0)
      || x.n.any (fun t => !(t.fmt == .sb8 || t.fmt == .sb4) || t.shape != 2)
      || (x.o.mode == 2 && x.o.epsM == 0)),
   (.scullShape, sd.rows == 0 || x.p.rows < sd.row0 + sd.rows || x.p.cols < sd.col0 + sd.ncol
      || (if x.o.gtr then x.g.rows != x.p.cols || x.g.cols != x.p.rows else !same x.g)
      || moments.any (fun t => !same t) || x.n.any (fun t => !same t)
      || sd.col0 % 64 != 0 || (sd.ncol % 64 != 0 && sd.col0 + sd.ncol != x.p.cols)
      || (x.n.isSome && (sd.row0 % 8 != 0 || (sd.rows % 8 != 0 && sd.row0 + sd.rows != x.p.rows)))
      || x.sched.2 == 0 || x.sched.2 % 2 != 0)]

/-- The schedule entry of the present step (R271). -/
def State.schedAddr (s : State) (x : OptNames) : Nat := x.sched.1 + 2 * min (s.entry 0x3020 5) (x.sched.2 / 2 - 1)

/-- The rows and columns of the gradient that a region of the parameter meets (R259). -/
def OptNames.gradRange (x : OptNames) : Nat × Nat × Nat × Nat :=
  let sd := x.sd
  if x.o.gtr then (sd.col0, sd.ncol, sd.row0, sd.rows) else (sd.row0, sd.rows, sd.col0, sd.ncol)

/-- The bytes that SC_OPT reads and writes. -/
def State.optSpans (s : State) (x : OptNames) : List Span :=
  let sd := x.sd
  let (r0, nr, c0, nc) := x.gradRange
  x.g.spans r0 nr c0 nc false ++ x.g.statusSpans false
    ++ (x.p :: x.m1.toList ++ x.m2.toList).flatMap (fun t => t.spans sd.row0 sd.rows sd.col0 sd.ncol false)
    ++ (x.p :: x.m1.toList ++ x.m2.toList ++ x.n.toList).flatMap (fun t =>
      t.spans sd.row0 sd.rows sd.col0 sd.ncol true ++ t.statusSpans true)
    ++ [{ at_ := x.o.hw, len := 32, write := true }, { at_ := s.schedAddr x, len := 2 }]

/-- Every address that SC_OPT reads or writes decodes. -/
def State.optReach (s : State) (h : Fin 64) (x : OptNames) : Bool := s.reaches (s.accOf h) (s.optSpans x)

/-! ## One group (R273) -/

/-- The keel draw of a domain at a parameter element. -/
def optKey (seed tp dom r j : Nat) : Nat := keel seed dom tp r j 0

/-- The gradient element of parameter element (r, j): the exponent includes gshift; an element of a zero block takes the
ceiling. -/
def State.gradAt (s : State) (acc : Acc) (x : OptNames) (cg : Int) (r j : Nat) : Elem × Int :=
  let (p, q) := if x.o.gtr then (j, r) else (r, j)
  let v := if x.g.fmt.isSB then
      let e := s.entered acc x.g cg 0 p q
      if e.2 = zeroExp then (some 0, cg) else e
    else if x.g.fmt = .wl32 then s.wlElem acc x.g p q
    else (s.flatElem acc x.g p q, cg)
  (v.1, v.2 + x.o.gshift)

/-- A moment element; an element of a zero block takes the ceiling. -/
def State.momentAt (s : State) (acc : Acc) (t : Tensor) (c : Int) (r j : Nat) : Elem × Int :=
  let e := s.entered acc t c 0 r j
  if e.2 = zeroExp then (some 0, c) else e

/-- A moment before its narrowing: per element the exact value at the common exponent. -/
def momentSum (m : List (Elem × Int)) (b : Nat) (terms : List (Elem × Int)) : List Elem × Int :=
  let e := (m.head?.map (·.2)).getD 0
  let f := terms.foldl (fun f t => min f t.2) ((terms.head?.map (·.2)).getD 0)
  let a := min e f - 16
  (List.zipWith (fun u t => match u.1, t.1 with
    | some p, some q => some (shl (p * b) (u.2 - 16 - a).toNat + shl q (t.2 - 16 - a).toNat)
    | _, _ => none) m terms, a)

/-- The result of one group: weights, new moments with the exact values they were narrowed from, clamps, domain errors. -/
structure GroupOut where
  w : List Elem
  m1 : Option (Int × List Elem × List Elem × Int)
  m2 : Option (Int × List Elem × List Elem × Int)
  sats : Nat
  dom : Nat
deriving DecidableEq, Repr

/-- `opt_group` of R273 on the elements of row `r` from column `j0` on. A mark among the inputs of an element marks its
results (R59). -/
def optGroup (o : OptDesc) (seed tp : Nat) (ew : Int) (lrm : Nat) (c1 c2 : Int) (r j0 : Nat) (w : List Elem)
    (g m1 m2 : List (Elem × Int)) : GroupOut :=
  let k1 := if o.mode = 1 then 65536 else 65536 - o.b1
  let bad := (List.range w.length).map fun i =>
    (w.getD i none).isNone || (g.getD i (none, 0)).1.isNone || (o.mode != 0 && (m1.getD i (none, 0)).1.isNone)
      || (o.mode == 2 && (m2.getD i (none, 0)).1.isNone)
  let masked := fun (xs : List (Elem × Int)) => List.zipWith (fun (x : Elem × Int) b => if b then (none, x.2) else x) xs bad
  let g := masked g
  let n1 := if o.mode = 0 then none else
    let (v, a) := momentSum (masked m1) o.b1 (g.map fun x => (x.1.map (· * k1), x.2))
    let (e, out, n) := momentNarrow v a c1 fun i => optKey seed tp 3 r (j0 + i)
    some (e, out, v, a, n)
  let n2 := if o.mode = 2 then
      let (v, a) := momentSum (masked m2) o.b2 (g.map fun x => (x.1.map fun y => y * y * (65536 - o.b2 : Nat), 2 * x.2))
      let (e, out, n) := momentNarrow v a c2 fun i => optKey seed tp 4 r (j0 + i)
      some (e, out, v, a, n)
    else none
  let expOf := fun (e c : Int) => if e = zeroExp then c else e
  let dir := fun (i : Nat) => match n1, n2 with
    | none, _ => g.getD i (none, 0)
    | some (e, out, _), none => ((out.getD i none), expOf e c1)
    | some (e, out, _), some (f2, out2, _) =>
      match out.getD i none, out2.getD i none with
      | some y1, some y2 =>
        let e2 := expOf f2 c2
        let f := min e2 o.epsE
        match rsqrt (shl y2 (e2 - f).toNat + shl o.epsM (o.epsE - f).toNat) f with
        | some (pm, pe) => (some (y1 * pm), expOf e c1 + pe)
        | none => (none, 0)
      | _, _ => (none, 0)
  let ws := w.zipIdx.map fun x =>
    match x.1, dir x.2 with
    | some v, (some dm, de) =>
      let y := newWeight v ew dm de lrm o.u o.wd (optKey seed tp 2 r (j0 + x.2))
      ((some y.1 : Elem), y.2, 0)
    | some _, (none, _) => (none, 0, if bad.getD x.2 false then 0 else 1)
    | none, _ => (none, 0, 0)
  { w := ws.map (·.1)
    m1 := n1.map fun x => (x.1, x.2.1, x.2.2.1, x.2.2.2.1)
    m2 := n2.map fun x => (x.1, x.2.1, x.2.2.1, x.2.2.2.1)
    sats := (ws.map (·.2.1)).sum + ((n1.map (·.2.2.2.2)).getD 0) + ((n2.map (·.2.2.2.2)).getD 0)
    dom := (ws.map (·.2.2)).sum }

/-! ## The health word (Table 06-7, R280 to R282) -/

/-- A health word. -/
structure Health where
  step : Nat
  groups : Nat
  zgroups : Nat
  qrun : Nat
  live : Nat
  quiet : Bool
  marks : Nat
  closed : Nat
deriving DecidableEq, Repr

/-- Reads and writes Table 06-7; the reserved bits are 0. -/
def Health.parse (n : Nat) : Health :=
  { step := bitsOf n 0 32, groups := bitsOf n 32 32, zgroups := bitsOf n 64 32, qrun := bitsOf n 96 16
    live := bitsOf n 112 16, quiet := bitOf n 128, marks := bitsOf n 160 32, closed := bitsOf n 192 64 }
@[inherit_doc Health.parse] def Health.encode (x : Health) : Nat :=
  x.step % 2 ^ 32 + x.groups % 2 ^ 32 * 2 ^ 32 + x.zgroups % 2 ^ 32 * 2 ^ 64 + x.qrun % 2 ^ 16 * 2 ^ 96
    + x.live % 2 ^ 16 * 2 ^ 112 + (if x.quiet then 2 ^ 128 else 0) + x.marks % 2 ^ 32 * 2 ^ 160 + wrap64 x.closed * 2 ^ 192

/-- Closes the recorded step (R281, first case): live, closed and qrun. -/
def Health.close (x : Health) (threshold : Nat) : Health :=
  let live := min 65535 (65536 * (x.groups - x.zgroups) / x.groups)
  { x with live := live, closed := x.closed + 1, qrun := if live < threshold then min 65535 (x.qrun + 1) else 0 }

/-- SC_OPT updates its health word (R279, R281, R282). -/
def State.health (s : State) (k : Fin 16) (h : Fin 64) (o : OptDesc) (tid groups zgroups marks : Nat) : State :=
  let acc := s.accOf h
  let x := Health.parse (s.loadNat acc o.hw 32)
  let now := s.entry 0x3020 5 % 2 ^ 32
  let closing := x.step ≠ now ∧ 0 < x.groups
  let y := if closing then x.close (s.entry 0x3200 1) else x
  let becomes := decide closing && o.qen && y.qrun != x.qrun && y.qrun == s.entry 0x3200 2
  let leaves := decide closing && o.qen && !becomes && x.quiet && y.qrun == 0
  let payload : List Int := [o.layer, tid, y.live, y.qrun, x.step]
  let s := if becomes then (s.bump 0x3208 2 1).raiseScull k h 0x3051 payload
    else if leaves then s.raiseScull k h 0x3052 payload else s
  let z := { y with
    quiet := (y.quiet || becomes) && !leaves
    step := now
    groups := (if y.step = now then y.groups else 0) + groups
    zgroups := (if y.step = now then y.zgroups else 0) + zgroups
    marks := y.marks + marks }
  s.storeNat acc o.hw 32 z.encode

/-! ## SC_OPT -/

/-- Running counts of an SC_OPT. -/
structure OptAcc where
  s : State
  sats : Nat := 0
  dom : Nat := 0
  groups : Nat := 0
  zgroups : Nat := 0
  marks : Nat := 0
  first : Option (Nat × Nat) := none
  st1 : StatusWord
  st2 : StatusWord
deriving DecidableEq, Repr

/-- A moment block is written and joins the status of its tensor (R274). -/
def State.putMoment (s : State) (acc : Acc) (t : Tensor) (r j0 : Nat) (st : StatusWord)
    (m : Option (Int × List Elem × List Elem × Int)) : State × StatusWord :=
  match m with
  | none => (s, st)
  | some (e, out, v, a) =>
    let b : Block := { exp := e, elems := out ++ List.replicate (64 - out.length) (some 0) }
    (s.writeBlock acc t r (j0 / 64) b,
      { st with top := max st.top (topList v a), wceil := t.expo, marks := st.marks + markCount out
                zeros := st.zeros + (if b.isZero then 1 else 0), blocks := st.blocks + 1 })

/-- One group of SC_OPT: read, updated, written. -/
def OptAcc.group (st : OptAcc) (acc : Acc) (x : OptNames) (seed lrm : Nat) (cg c1 c2 : Int) (r j0 : Nat) : OptAcc :=
  let s := st.s
  let n := min 64 (x.sd.col0 + x.sd.ncol - j0)
  let js := (List.range n).map (j0 + ·)
  let w := js.map (s.flatElem acc x.p r)
  let g := js.map (s.gradAt acc x cg r)
  let m1 := match x.m1 with | some t => js.map (s.momentAt acc t c1 r) | none => []
  let m2 := match x.m2 with | some t => js.map (s.momentAt acc t c2 r) | none => []
  let out := optGroup x.o seed x.p.tid x.p.expo lrm ((x.m1.map (·.expo)).getD 0) ((x.m2.map (·.expo)).getD 0) r j0 w g m1 m2
  let s := out.w.zipIdx.foldl (fun s y => s.putFlat acc x.p r (j0 + y.2) y.1) s
  let (s, st1) := match x.m1 with | some t => s.putMoment acc t r j0 st.st1 out.m1 | none => (s, st.st1)
  let (s, st2) := match x.m2 with | some t => s.putMoment acc t r j0 st.st2 out.m2 | none => (s, st.st2)
  let newMarks := (out.w.zipIdx.filter (·.1.isNone)).map (·.2)
  { s := s, sats := st.sats + out.sats, dom := st.dom + out.dom, groups := st.groups + 1
    zgroups := st.zgroups + (if g.all (·.1 == some 0) then 1 else 0), marks := st.marks + newMarks.length
    first := st.first.or (newMarks.head?.map fun i => (r, j0 + i)), st1 := st1, st2 := st2 }

/-- The narrow copy of the region, under the rule of R230 (R275): the state, the saturations, the zero blocks. -/
def State.narrowCopy (s : State) (acc : Acc) (x : OptNames) (t : Tensor) : State × Nat × Nat :=
  let blocks := (t.blocksIn x.sd.row0 x.sd.rows x.sd.col0 x.sd.ncol).map fun b =>
    (b, gatherBlock t b.1 b.2 fun r c => (s.flatElem acc x.p r c, x.p.expo))
  let qs := blocks.map fun b => (b.1, quantizeSat b.2.1 b.2.2 t.expo t.fmt.width)
  let zeros := qs.countP (·.2.block.isZero)
  let s := qs.foldl (fun s y => s.writeBlock acc t y.1.1 y.1.2 y.2.block) s
  (s.updateStatus acc t
    { top := blocks.foldl (fun m b => max m (topList b.2.1 b.2.2)) topNone, wceil := t.expo, done := false, redone := false
      marks := (qs.map fun y => markCount y.2.block.elems).sum, zeros := zeros, blocks := qs.length },
    (qs.map (·.2.sats)).sum, zeros)

/-- The part of two ranges that both hold. -/
def meetRange (a n b m : Nat) : Nat × Nat := (max a b, min (a + n) (b + m) - max a b)

/-- The elements of block (p, q) that satisfy `hit` take free values; the others keep theirs. The exponent is free where no element
of another value depends on it (R277). -/
def State.freeBlock (s : State) (acc : Acc) (t : Tensor) (b : Nat × Nat) (hit : Nat → Nat → Bool) : State :=
  let old := s.readBlock acc t b.1 b.2
  let (bs, s) := s.drawBytes (t.blockBytes + 1)
  let out := fun i => let (r, c) := t.elemCoord b.1 b.2 i; !hit r c && decide (r < t.rows ∧ c < t.cols)
  let keep := !old.isZero && (List.range 64).any fun i => out i && old.elems.getD i (some 0) != some 0
  s.writeBlock acc t b.1 b.2
    { exp := if keep then old.exp else expOfByte (bs.getD t.blockBytes 0).toNat
      elems := (List.range 64).map fun i =>
        if out i then (if old.isZero then some 0 else old.elems.getD i (some 0)) else elemAt t.fmt.width bs i }

/-- Elements of an overlap of two SC_OPT regions in flight are unspecified (R277): free values take the place of the
parameter elements, and of those of the moments and narrow copies of both. -/
def State.freeRegion (s : State) (acc : Acc) (x : OptNames) (o : List Tensor × Nat × Nat × Nat × Nat) : State :=
  let (others, r0, nr, c0, nc) := o
  let s := (List.range nr).foldl (fun s i => (List.range nc).foldl (fun s j =>
    { s.putFlat acc x.p (r0 + i) (c0 + j) (elemOfCode 32 (Config.freeWord s.draws).toNat) with draws := s.draws + 1 }) s) s
  (x.m1.toList ++ x.m2.toList ++ x.n.toList ++ others).eraseDups.foldl (fun s t => (t.blocksIn r0 nr c0 nc).foldl (fun s b =>
    s.freeBlock acc t b fun r c => decide (r0 ≤ r ∧ r < r0 + nr ∧ c0 ≤ c ∧ c < c0 + nc)) s) s

/-- The overlaps of a region with the SC_OPT that the other Sculls run on the same parameter plane, with their moments and
narrow copies. -/
def State.optOverlaps (s : State) (x : OptNames) : List (List Tensor × Nat × Nat × Nat × Nat) :=
  s.scullRuns.toList.filterMap fun r => r.bind fun r => r.opt.bind fun o =>
    let (a, n) := meetRange o.row0 o.rows x.sd.row0 x.sd.rows
    let (b, m) := meetRange o.col0 o.ncol x.sd.col0 x.sd.ncol
    if o.plane = x.p.eplane ∧ n ≠ 0 ∧ m ≠ 0 then some (o.copies, a, n, b, m) else none

/-- The ceiling of a moment, 0 where the variant has none. -/
def State.momentCeiling (s : State) (acc : Acc) (t : Option Tensor) : Int := (t.map (s.ceilingOf acc)).getD 0

/-- The blocks of an operand that enters are counted, where there is such an operand. -/
def State.optEntry (s : State) (k : Fin 16) (h : Fin 64) (t : Option Tensor) (c : Int) (r0 nr c0 nc : Nat) : State :=
  match t with
  | some t => s.countEntry (s.accOf h) t c r0 nr c0 nc fun s => s.raiseScull k h 0x3021 [t.tid]
  | none => s

/-- The groups of the region, row by row. -/
def OptAcc.groupAll (st : OptAcc) (acc : Acc) (x : OptNames) (seed lrm : Nat) (cg c1 c2 : Int) : OptAcc :=
  (List.range x.sd.rows).foldl (fun st i => (List.range (ceilDiv x.sd.ncol 64)).foldl (fun (st : OptAcc) q =>
    st.group acc x seed lrm cg c1 c2 (x.sd.row0 + i) (x.sd.col0 + 64 * q)) st) st

/-- The status word of a moment, where the variant has it. -/
def State.momentStatus (s : State) (acc : Acc) (t : Option Tensor) (w : StatusWord) : State :=
  match t with
  | some t => s.updateStatus acc t w
  | none => s

/-- The narrow copy, where the descriptor names one: saturations and zero blocks. -/
def State.optNarrow (s : State) (acc : Acc) (x : OptNames) : State × Nat × Nat :=
  match x.n with
  | some t => s.narrowCopy acc x t
  | none => (s, 0, 0)

/-- EV-3053 for the first marked group. -/
def State.optFirst (s : State) (k : Fin 16) (h : Fin 64) (x : OptNames) (e : Option (Nat × Nat)) : State :=
  match e with
  | some e => s.raiseScull k h 0x3053 [x.o.layer, x.p.tid, e.1, e.2]
  | none => s

/-- SC_OPT acts (R273 to R282). -/
def State.scOpt (s : State) (k : Fin 16) (h : Fin 64) (x : OptNames) : State :=
  let acc := s.accOf h
  let sd := x.sd
  let cg := s.ceilingOf acc x.g
  let c1 := s.momentCeiling acc x.m1
  let c2 := s.momentCeiling acc x.m2
  let g := x.gradRange
  let t := ((s.optEntry k h (if x.g.fmt.isSB then some x.g else none) cg g.1 g.2.1 g.2.2.1 g.2.2.2).optEntry k h x.m1 c1
    sd.row0 sd.rows sd.col0 sd.ncol).optEntry k h x.m2 c2 sd.row0 sd.rows sd.col0 sd.ncol
  let st := OptAcc.groupAll { s := t, st1 := StatusWord.opened (-128), st2 := StatusWord.opened (-128) } acc x s.seed
    (s.loadNat acc (s.schedAddr x) 2) cg c1 c2
  let n := ((st.s.momentStatus acc x.m1 st.st1).momentStatus acc x.m2 st.st2).optNarrow acc x
  let u := n.1.health k h x.o x.p.tid st.groups st.zgroups st.marks
  let u := ((u.bump 0x3028 4 (n.2.2 + st.st1.zeros + st.st2.zeros)).bump 0x3028 8 (st.sats + n.2.1)).bump 0x3028 9 st.dom
  let u := ((u.bump 0x3208 1 (sd.rows * sd.ncol)).bump 0x3208 4 st.marks).optFirst k h x st.first
  (s.optOverlaps x).foldl (fun s o => s.freeRegion acc x o) u

/-- The check of SC_OPT (R666): its operands, or the fault. -/
def State.optCheck (s : State) (h : Fin 64) (d : Nat) : Plan ⊕ OptNames :=
  match ScullDesc.parse (s.descOf h d) with
  | none => .inl .descReserved
  | some sd =>
    if sd.ha ≠ 0 ∨ sd.hb ≠ 0 ∨ sd.hd ≠ 0 ∨ sd.eo ≠ 0 ∨ sd.param ≠ 0 ∨ sd.sel ≠ 0 then .inl .descReserved
    else match lowestFault (s.innerFaults h sd.hx 10 fun x => (OptDesc.parse x).isSome) with
      | some p => .inl p
      | none =>
        match OptDesc.parse (s.descOf h sd.hx) with
        | none => .inl .descReserved
        | some o =>
          match lowestFault (s.optHandleFaults h o) with
          | some p => .inl p
          | none =>
            match s.optNames h sd o with
            | none => .inl .scullShape
            | some x =>
              match lowestFault x.faults with
              | some p => .inl p
              | none => if s.optReach h x then .inr x else .inl .addr

/-- SC_OPT is checked and executed. -/
def State.optRun (s : State) (k : Fin 16) (q : QItem) (d : Nat) : State × Option ScullRun :=
  match s.optCheck q.heat d with
  | .inl p => (s.faultHeat q.heat q.lane q.pc p, none)
  | .inr x =>
    let sd := x.sd
    (s.scOpt k q.heat x,
      some { item := q, vectors := sd.vectors, cost := 12 + scullCost 0x10 sd, spans := s.optSpans x
             opt := some { plane := x.p.eplane, row0 := sd.row0, rows := sd.rows, col0 := sd.col0, ncol := sd.ncol
                           copies := x.m1.toList ++ x.m2.toList ++ x.n.toList } })

/-- The bytes that a SCULL instruction needs; none where it faults. -/
def State.scullWants (s : State) (q : QItem) (op d : Nat) : List Span :=
  if op = 0x10 then match s.optCheck q.heat d with
    | .inl _ => []
    | .inr x => s.optSpans x
  else s.scullNeeds q op d

/-! ## The Scull queues -/

/-- An idle Scull takes the instruction at the head of its queue; one that faults leaves the Scull to the next. Its reads look up the
cache (R306). A request on a FAILED channel is not delivered, and it waits (R332); a unit whose MAC cannot match stops the job (R330). -/
def State.scullHead (k : Fin 16) : Nat → State → State
  | 0, s => s
  | fuel + 1, s =>
    if s.scullRuns[k].isSome then s
    else match s.sculls[k].waiting with
      | [] => s
      | q :: rest =>
        if s.slicing (scullUnit k) then s.awaitSlice (scullUnit k) else
        let s' := s.setQueue (.scull k) { s.sculls[k] with waiting := rest }
        match q.op with
        | .scull op d =>
          let xs := s.scullWants q op d
          let crew := (crewOf q.heat).val
          let dom := s.entry (0x7300 + q.heat.val) 5
          if !s.delivers xs then s else
          match s.badUnit dom xs with
          | some (ch, addr) => s'.integrityFailure ch addr crew
          | none =>
          let s := s'.readSpans crew dom true xs
          let (s, r) := if op = 0x10 then s.optRun k q d else s.scullRun k q op d
          match r with
          | some r =>
            let s := s.setQueue (.scull k) { s.sculls[k] with started := [q] }
            { s with scullRuns := s.scullRuns.set k (some r) }
          | none => State.scullHead k fuel s
        | _ => State.scullHead k fuel s'

/-- A SCULL instruction issues (R225): UNIT_ABSENT outside the Crew, the descriptor's range and kind, then its queue. -/
def State.issueScull (s : State) (h : Fin 64) (l : Fin 4) (op : Nat) (scull : Fin 16) (handle : BitVec 16) (xi : BitVec 4)
    (csem : BitVec 9) (rsv : BitVec 19) : Host.Outcome State Fault Refusal :=
  let d := (s.lane h l).handle handle.toNat xi.toNat
  s.issue h l
    ([rsvBad rsv, (.semRange, semBad true csem.toNat), (.unitAbsent, !s.crewHas h 2 scull.val)] ++ s.descFaults h d 6)
    fun s => State.scullHead scull 8 (s.enqueue h l (.scull scull) (.scull op d) csem.toNat)

/-- SCULL_COMPLETE (R228): the Scull's last write and status update have landed; it counts (Table 05-20), posts csem, and
takes the next instruction of its queue. -/
def execScullComplete (k : Fin 16) (x : ScullReport) (s : State) : Host.Outcome State Fault Refusal :=
  .next (match s.scullRuns[k] with
    | none => s
    | some r =>
      let i := 0x3140 + k.val
      let crew := (crewOf r.item.heat).val
      let (ok, s) := s.memReport crew x.mem
      if !ok then s else
      let s := s.holdSpans crew r.spans
      let s := match r.flags with
        | some (ad, w) => s.mergeFlags (s.accOf r.item.heat) ad w
        | none => s
      let s := ((((s.bump i 1 1).bump i 2 r.vectors).bump i 3 (r.cost + x.waits)).bump i 4 x.waits).bump i 5 r.marks
      let s := { s with scullRuns := s.scullRuns.set k none }
      let s := s.setQueue (.scull k) { s.sculls[k] with started := [] }
      (State.scullHead k 8 (s.postItem r.item)).wakeFences r.item.heat)

/-! ## The rows of the family -/

/-- SC_EXPAND (R227). -/
def execScExpand (h : Fin 64) (l : Fin 4) (scull : Fin 16) (handle : BitVec 16) (xi : BitVec 4) (csem : BitVec 9)
    (rsv : BitVec 19) (s : State) : Host.Outcome State Fault Refusal := s.issueScull h l 0x01 scull handle xi csem rsv

/-- SC_QUANT (R230). -/
def execScQuant (h : Fin 64) (l : Fin 4) (scull : Fin 16) (handle : BitVec 16) (xi : BitVec 4) (csem : BitVec 9)
    (rsv : BitVec 19) (s : State) : Host.Outcome State Fault Refusal := s.issueScull h l 0x02 scull handle xi csem rsv

/-- SC_BIAS (R227). -/
def execScBias (h : Fin 64) (l : Fin 4) (scull : Fin 16) (handle : BitVec 16) (xi : BitVec 4) (csem : BitVec 9)
    (rsv : BitVec 19) (s : State) : Host.Outcome State Fault Refusal := s.issueScull h l 0x03 scull handle xi csem rsv

/-- SC_ACT (R227). -/
def execScAct (h : Fin 64) (l : Fin 4) (scull : Fin 16) (handle : BitVec 16) (xi : BitVec 4) (csem : BitVec 9)
    (rsv : BitVec 19) (s : State) : Host.Outcome State Fault Refusal := s.issueScull h l 0x04 scull handle xi csem rsv

/-- SC_GATE (R227). -/
def execScGate (h : Fin 64) (l : Fin 4) (scull : Fin 16) (handle : BitVec 16) (xi : BitVec 4) (csem : BitVec 9)
    (rsv : BitVec 19) (s : State) : Host.Outcome State Fault Refusal := s.issueScull h l 0x05 scull handle xi csem rsv

/-- SC_RESID (R227). -/
def execScResid (h : Fin 64) (l : Fin 4) (scull : Fin 16) (handle : BitVec 16) (xi : BitVec 4) (csem : BitVec 9)
    (rsv : BitVec 19) (s : State) : Host.Outcome State Fault Refusal := s.issueScull h l 0x06 scull handle xi csem rsv

/-- SC_SMAX (R231). -/
def execScSmax (h : Fin 64) (l : Fin 4) (scull : Fin 16) (handle : BitVec 16) (xi : BitVec 4) (csem : BitVec 9)
    (rsv : BitVec 19) (s : State) : Host.Outcome State Fault Refusal := s.issueScull h l 0x07 scull handle xi csem rsv

/-- SC_STATS (R231). -/
def execScStats (h : Fin 64) (l : Fin 4) (scull : Fin 16) (handle : BitVec 16) (xi : BitVec 4) (csem : BitVec 9)
    (rsv : BitVec 19) (s : State) : Host.Outcome State Fault Refusal := s.issueScull h l 0x08 scull handle xi csem rsv

/-- SC_MARK (R227). -/
def execScMark (h : Fin 64) (l : Fin 4) (scull : Fin 16) (handle : BitVec 16) (xi : BitVec 4) (csem : BitVec 9)
    (rsv : BitVec 19) (s : State) : Host.Outcome State Fault Refusal := s.issueScull h l 0x09 scull handle xi csem rsv

/-- SC_LEDGER (R227). -/
def execScLedger (h : Fin 64) (l : Fin 4) (scull : Fin 16) (handle : BitVec 16) (xi : BitVec 4) (csem : BitVec 9)
    (rsv : BitVec 19) (s : State) : Host.Outcome State Fault Refusal := s.issueScull h l 0x0A scull handle xi csem rsv

/-- SC_ADD (R227). -/
def execScAdd (h : Fin 64) (l : Fin 4) (scull : Fin 16) (handle : BitVec 16) (xi : BitVec 4) (csem : BitVec 9)
    (rsv : BitVec 19) (s : State) : Host.Outcome State Fault Refusal := s.issueScull h l 0x0B scull handle xi csem rsv

/-- SC_RSUM (R229). -/
def execScRsum (h : Fin 64) (l : Fin 4) (scull : Fin 16) (handle : BitVec 16) (xi : BitVec 4) (csem : BitVec 9)
    (rsv : BitVec 19) (s : State) : Host.Outcome State Fault Refusal := s.issueScull h l 0x0C scull handle xi csem rsv

/-- SC_CARRY (R355). -/
def execScCarry (h : Fin 64) (l : Fin 4) (scull : Fin 16) (handle : BitVec 16) (xi : BitVec 4) (csem : BitVec 9)
    (rsv : BitVec 19) (s : State) : Host.Outcome State Fault Refusal := s.issueScull h l 0x0D scull handle xi csem rsv

/-- SC_CADD (R227). -/
def execScCadd (h : Fin 64) (l : Fin 4) (scull : Fin 16) (handle : BitVec 16) (xi : BitVec 4) (csem : BitVec 9)
    (rsv : BitVec 19) (s : State) : Host.Outcome State Fault Refusal := s.issueScull h l 0x0E scull handle xi csem rsv

/-- SC_UNCARRY (R227). -/
def execScUncarry (h : Fin 64) (l : Fin 4) (scull : Fin 16) (handle : BitVec 16) (xi : BitVec 4) (csem : BitVec 9)
    (rsv : BitVec 19) (s : State) : Host.Outcome State Fault Refusal := s.issueScull h l 0x0F scull handle xi csem rsv

/-- SC_OPT (R273). -/
def execScOpt (h : Fin 64) (l : Fin 4) (scull : Fin 16) (handle : BitVec 16) (xi : BitVec 4) (csem : BitVec 9)
    (rsv : BitVec 19) (s : State) : Host.Outcome State Fault Refusal := s.issueScull h l 0x10 scull handle xi csem rsv

/-- SC_LOSS (R283). -/
def execScLoss (h : Fin 64) (l : Fin 4) (scull : Fin 16) (handle : BitVec 16) (xi : BitVec 4) (csem : BitVec 9)
    (rsv : BitVec 19) (s : State) : Host.Outcome State Fault Refusal := s.issueScull h l 0x11 scull handle xi csem rsv

end Sys2Proof.Machine
end

