-- ==== Sys2Proof/Machine/Launch.lean ====
section
/-! DEFINITION. Launch engines: moves, windows, hints (R233, R234, R314 to R322). -/
namespace Sys2Proof.Machine

/-! ## Rows of bytes -/

/-- Whether a row lies in its buffer, its region or the Crew's Tank scratch (Table 07-8). Kinds: 0 address, 1 Catch buffer,
2 Finish buffer. -/
def State.rowOk (s : State) (h : Fin 64) (kind blade : Nat) (a : Int) (n : Nat) : Bool :=
  let k := a.toNat
  decide (0 ≤ a) && match kind with
    | 0 => s.decodes (s.accLaunch h) k n && s.regionAt k == s.regionAt (k + n - 1)
    | 1 => s.reachesBlade h blade && k + n ≤ 2 ^ 23
    | _ => s.reachesBlade h blade && k + n ≤ 2 ^ 22

/-- The bytes of a row, and the row written. -/
def State.readRow (s : State) (h : Fin 64) (kind blade a n : Nat) : List Byte :=
  match kind with
  | 0 => s.load (s.accLaunch h) a n
  | 1 => s.cells (catchKey blade a) n
  | _ => s.cells (finishKey blade a) n
@[inherit_doc State.readRow] def State.writeRow (s : State) (h : Fin 64) (kind blade a : Nat) (bs : List Byte) : State :=
  match kind with
  | 0 => s.store (s.accLaunch h) a bs
  | 1 => s.setCells (catchKey blade a) bs
  | _ => s.setCells (finishKey blade a) bs

/-- The pack region and the pages of a row: region, first page, pages. -/
def State.packPages (s : State) (kind a n : Nat) : Option (Fin 64 × Nat × Nat) :=
  if kind ≠ 0 then none
  else match s.regionAt a with
    | none => none
    | some r =>
      let g := s.regions[r]
      let off := a - g.base
      if g.pack then some (r, off / 4096, (off + n - 1) / 4096 + 1 - off / 4096) else none

/-- The pack pages that bytes `[lo, lo + n)` of a row at `a` touch first: decoded pages are counted where a read first touches them
(0x45ee.04). -/
def State.decodedPages (s : State) (kind a lo n : Nat) : Option (Fin 64 × List Nat) :=
  (s.packPages kind (a + lo) n).map fun x =>
    (x.1, ((List.range x.2.2).map (x.2.1 + ·)).filter fun p => lo = 0 || a + lo ≤ s.regions[x.1].base + 4096 * p)

/-- The pack pages whose last byte stands in `[a, a + n)`: a page is encoded once it is whole (0x45ee.05). -/
def State.encodedPages (s : State) (kind a n : Nat) : Option (Fin 64 × List Nat) :=
  (s.packPages kind a n).map fun x =>
    (x.1, ((List.range x.2.2).map (x.2.1 + ·)).filter fun p => s.regions[x.1].base + 4096 * p + 4096 ≤ a + n)

/-- The accesses to pack pages go through the pack-table cache and are counted on the engine at `sub`. -/
def State.countPack (s : State) (crew e sub : Nat) (pages : Option (Fin 64 × List Nat)) : State :=
  match pages with
  | none => s
  | some (r, ps) => (ps.foldl (fun s p => s.touchPack crew r p) s).bump (0x4500 + e) sub ps.length

/-- A read of a pack page leaves the page's units in the buffer (R290, R302). -/
def State.bufferPages (s : State) (pages : Option (Fin 64 × List Nat)) : State :=
  match pages with
  | none => s
  | some (r, ps) =>
    let g := s.regions[r]
    ps.foldl (fun s p => match g.place (4096 * p) with
      | none => s
      | some (c, _) => (s.pageUnits g p).foldl (fun s u => s.bufferUnit (Fin.ofNat 384 c) u) s) s

/-! ## Moves in flight (R317) -/

/-- The spans of a part of a row that memory takes: its source and its destination. -/
def MoveRow.spans (r : MoveRow) (lo n : Nat) : List Span :=
  (if r.skind = 0 then [{ at_ := r.src + lo, len := n }] else [])
    ++ if r.dkind = 0 then [{ at_ := r.dst + lo, len := n, write := true }] else []

/-- Whether a part of a row can still be read and written (R318). -/
def State.rowReach (s : State) (h : Fin 64) (r : MoveRow) (lo n : Nat) : Bool :=
  s.reaches (s.accLaunch h) (r.spans lo n) && (r.skind == 0 || s.reachesBlade h r.sblade) && (r.dkind == 0 || s.reachesBlade h r.dblade)

/-- Bytes `[lo, lo + n)` of a row land, and its engine counts them. -/
def State.landBytes (s : State) (h : Fin 64) (r : MoveRow) (lo n : Nat) : State :=
  let crew := (crewOf h).val
  let xs := r.spans lo n
  let bs := s.readRow h r.skind r.sblade (r.src + lo) n
  let dec := s.decodedPages r.skind r.src lo n
  let s := ((s.countPack crew r.engine 4 dec).bufferPages dec).readSpans crew (s.entry (0x7300 + h.val) 5) r.alloc xs
  let s := (s.writeRow h r.dkind r.dblade (r.dst + lo) bs).holdSpans crew xs
  let s := s.countPack crew r.engine 5 (s.encodedPages r.dkind (r.dst + lo) n)
  (s.bump (0x4500 + r.engine) 2 n).bump (0x4500 + r.engine) 3 n

/-- A part of a row: the row, its first byte, its length. -/
abbrev Piece : Type := MoveRow × Nat × Nat

/-- What lands when `k` more rows land whole and then `b` bytes of the next, the first `off` bytes having landed: the pieces, the rows
left, the bytes of the first of them that have landed. -/
def landedRows : Nat → List MoveRow → Nat → Nat → List Piece × List MoveRow × Nat
  | _, [], _, _ => ([], [], 0)
  | off, r :: rs, 0, b =>
    let n := min b (r.len - off)
    if n = 0 then ([], r :: rs, off)
    else if off + n = r.len then ([(r, off, n)], rs, 0)
    else ([(r, off, n)], r :: rs, off + n)
  | off, r :: rs, k + 1, b =>
    let x := landedRows 0 rs k b
    ((r, off, r.len - off) :: x.1, x.2)

/-- Two pieces write a common byte by one engine. -/
def piecesMeet (x y : Piece) : Bool :=
  x.1.engine == y.1.engine && x.1.dkind == y.1.dkind && x.1.dblade == y.1.dblade
    && decide (x.1.dst + x.2.1 < y.1.dst + y.2.1 + y.2.2) && decide (y.1.dst + y.2.1 < x.1.dst + x.2.1 + x.2.2)

/-- What a move still has to land. -/
def MoveRun.left (m : MoveRun) : List Piece := (landedRows m.off m.rows m.rows.length 0).1

/-- The moves in flight that started before the `n`-th, in the order in which they started. -/
def State.movesBefore (s : State) (n : Nat) : List MoveRun :=
  let all := s.engines.toList.flatMap (·.moves)
  (List.range n).filterMap fun i => all.find? (·.order == i)

/-- The earlier moves whose writes come before these pieces (R32, R317): those with a common byte, and what they wait for in turn. -/
def earlierMoves (ms : List MoveRun) (ps : List Piece) : List MoveRun :=
  (ms.foldr (fun m acc =>
    if m.left.any (fun x => acc.2.any (piecesMeet x)) then (m :: acc.1, m.left ++ acc.2) else acc) (([] : List MoveRun), ps)).1

/-- Change the move in flight that started as the `n`-th. -/
def State.onMove (s : State) (n : Nat) (f : MoveRun → MoveRun) : State :=
  { s with engines := s.engines.map fun (x : Engine) => { x with moves := x.moves.map fun m => if m.order = n then f m else m } }

/-! ## Checks (Table 07-8) -/

/-- The engines of a span stand on one die and belong to the Crew (R316, Table 07-8). -/
def State.spanOk (s : State) (h : Fin 64) (e : Fin 16) (span : Nat) : Bool :=
  e.val % 8 + span ≤ 8 && (List.range span).all fun i => s.crewHas h 3 (e.val + i)

/-- Two rows of `n` bytes share a byte. -/
def rowsMeet (a b : Int) (n : Nat) : Bool := decide (a < b + n) && decide (b < a + n)

/-- The rows of a move that starts on engine `e`: row y goes to engine first + y mod n (R316). -/
def MoveDesc.moveRows (m : MoveDesc) (e : Fin 16) : List MoveRow :=
  (List.range m.ycount).map fun y =>
    { skind := m.skind, sblade := m.sblade, src := (m.srcRow y).toNat, dkind := m.dkind, dblade := m.dblade
      dst := (m.dstRow y).toNat, len := m.xlen, engine := e.val + y % m.span, alloc := m.alloc }

/-- Every row of a move lies in a region or in scratch (Table 07-8). -/
def State.moveInside (s : State) (h : Fin 64) (m : MoveDesc) : Bool :=
  (List.range m.ycount).all fun y =>
    s.rowOk h m.skind m.sblade (m.srcRow y) m.xlen && s.rowOk h m.dkind m.dblade (m.dstRow y) m.xlen

/-- What the execution of a move finds: a destination that may not be written (R199, R313). -/
def State.moveReach (s : State) (h : Fin 64) (m : MoveDesc) : List (Plan × Bool) :=
  [(.addr, m.dkind == 0 && !(List.range m.ycount).all fun y => s.writable (s.accLaunch h) (m.dstRow y).toNat m.xlen)]

/-- What the check of a move finds: the conditions of Table 07-8. -/
def State.moveFaults (s : State) (h : Fin 64) (e : Fin 16) (m : MoveDesc) : List (Plan × Bool) :=
  let ys := List.range m.ycount
  let pack := fun (a : Int) => (s.packPages m.dkind a.toNat m.xlen).isSome
  let packBad := ys.any (fun y => pack (m.dstRow y)) &&
    (decide (m.dstRow 0 % 4096 ≠ 0) || decide (m.dstride ≠ m.xlen) || m.xlen * m.ycount % 4096 != 0 ||
      !ys.all fun y => pack (m.dstRow y))
  [(.launchDesc, m.mode != 0 || m.pin || m.unpin || !s.spanOk h e m.span || !s.moveInside h m || packBad
      || (m.skind == m.dkind && m.sblade == m.dblade && ys.any fun y => ys.any fun z => rowsMeet (m.srcRow y) (m.dstRow z) m.xlen)
      || ys.any fun y => (List.range y).any fun z => rowsMeet (m.dstRow y) (m.dstRow z) m.xlen)]

/-- The layers of a window (R320) from its table, or `none` where the table is too short, an entry breaks its reserved bits, a
layer does not fit its slot, or a part is not in its region or scratch. -/
def State.windowLayers (s : State) (h : Fin 64) (w : WindowDesc) (at_ len : Nat) : Option (List ((Nat × Nat) × (Nat × Nat))) :=
  if len < 32 * w.count then none
  else
    (List.range w.count).foldr (fun i acc =>
      match acc, parseLayer (s.loadNat (s.accOf h) (at_ + 32 * i) 32) with
      | some ls, some l =>
        let len0 := l.1.2
        let fits := decide (if l.2.2 = 0 then len0 ≤ w.slot else ceilDiv len0 256 * 256 + l.2.2 ≤ w.slot)
        if fits ∧ 0 < len0 ∧ s.rowOk h 0 0 l.1.1 len0 ∧ (l.2.2 = 0 ∨ s.rowOk h 0 0 l.2.1 l.2.2) then some (l :: ls) else none
      | _, _ => none) (some [])

/-! ## Engines in flight (0x45ee.06) -/

/-- A move or window starts on the engines of its span, or ends on them: an engine is busy while any move of it is in
flight. -/
def State.startFlight (s : State) (e : Fin 16) (span : Nat) : State :=
  { s with engines := Vector.ofFn fun i : Fin 16 =>
      let x := s.engines[i]
      if e ≤ i ∧ i.val < e.val + span then
        { x with flights := x.flights + 1, busySince := if x.flights = 0 then s.clock.now else x.busySince }
      else x }
@[inherit_doc State.startFlight] def State.endFlight (s : State) (e : Fin 16) (span : Nat) : State :=
  (List.finRange 16).foldl (fun s i =>
    if e ≤ i ∧ i.val < e.val + span then
      let x := s.engines[i]
      let s := s.onEngine i fun x => { x with flights := x.flights - 1 }
      if x.flights = 1 then s.bump (0x4500 + i.val) 6 (s.clock.now - x.busySince) else s
    else s) s

/-- A move leaves its engines (R317). -/
def State.dropMove (s : State) (m : MoveRun) : State :=
  (List.finRange 16).foldl (fun s e =>
    if s.engines[e].moves.any (·.order == m.order) then
      (s.onEngine e fun x => { x with
        moves := x.moves.filter (·.order != m.order), queue := { x.queue with started := x.queue.started.erase m.item } }).endFlight e m.span
    else s) s

/-- Pieces of a move land. One that can no longer be read or written is an ADDR fault, and the move ends there (R251, R318). -/
def State.landPieces (s : State) (m : MoveRun) (ps : List Piece) (rest : List MoveRow) (off : Nat) : State :=
  let h := m.item.heat
  let ok := ps.takeWhile fun x => s.rowReach h x.1 x.2.1 x.2.2
  let s := ok.foldl (fun s x => s.landBytes h x.1 x.2.1 x.2.2) s
  if ok.length = ps.length then s.onMove m.order fun m => { m with rows := rest, off := off }
  else (s.dropMove m).faultHeat h m.item.lane m.item.pc .addr

/-- The rows that the next `n` bytes of a move fill, and the bytes left for the row after them. -/
def rowsWithin : Nat → List MoveRow → Nat → Nat × Nat
  | _, [], _ => (0, 0)
  | off, r :: rs, n =>
    if r.len - off ≤ n then
      let x := rowsWithin 0 rs (n - (r.len - off))
      (x.1 + 1, x.2)
    else (0, n)

/-- What lands of a part of a move, as `landedRows` gives it. Of a pack region only whole pages do: the accesses to a page are
serialised, and no reader sees a page of which a part has been written (R298, R302). -/
def State.landedPart (s : State) (m : MoveRun) (part : Option (Nat × Nat)) : List Piece × List MoveRow × Nat :=
  let x := landedRows m.off m.rows ((part.map (·.1)).getD m.rows.length) ((part.map (·.2)).getD 0)
  match x.1.getLast? with
  | none => x
  | some (r, lo, n) =>
    if (s.packPages r.dkind (r.dst + lo) n).isNone then x
    else
      let y := rowsWithin m.off m.rows ((x.1.map fun p => p.2.2).sum - (r.dst + lo + n) % 4096)
      landedRows m.off m.rows y.1 y.2

/-- A part of a move lands, all of it for `none`; what earlier moves of an engine have to write to the same bytes lands before
(R317). -/
def State.landMove (s : State) (m : MoveRun) (part : Option (Nat × Nat)) : State :=
  let x := s.landedPart m part
  let s := (earlierMoves (s.movesBefore m.order) x.1).foldl (fun s e => s.landPieces e e.left [] 0) s
  s.landPieces m x.1 x.2.1 x.2.2

/-- The bytes of a part of a move. -/
def MoveRun.spans (m : MoveRun) (part : Option (Nat × Nat)) : List Span :=
  (landedRows m.off m.rows ((part.map (·.1)).getD m.rows.length) ((part.map (·.2)).getD 0)).1.flatMap fun x => x.1.spans x.2.1 x.2.2

/-- A move in flight whose requests are delivered lands a part: nothing lands on or from a FAILED channel (R332), nor where a MAC does
not match (R330). Whether the part has landed. -/
def State.advanceMove (s : State) (m : MoveRun) (part : Option (Nat × Nat)) (rep : MemReport) : Bool × State :=
  let crew := (crewOf m.item.heat).val
  let xs := m.spans part
  if s.delivers xs = false then (false, s)
  else match s.badUnit (s.entry (0x7300 + m.item.heat.val) 5) xs with
    | some (ch, addr) => (false, s.integrityFailure ch addr crew)
    | none =>
      let (ok, s) := s.memReport crew rep
      if ok then (true, s.landMove m part) else (false, s)

/-- Whether a window stream holds an engine: its engines take no other move until it ends (R321). -/
def State.windowHolds (s : State) (i : Nat) : Bool :=
  (List.finRange 16).any fun e => match s.engines[e].window with
    | some w => e.val ≤ i && i < e.val + w.desc.span
    | none => false

/-! ## Windows (R321) -/

/-- A move starts on engine `e` (R317): it joins the moves in flight of its engines. -/
def State.startMove (s : State) (e : Fin 16) (q : QItem) (span : Nat) (rows : List MoveRow) (layer : Bool) : State :=
  let m : MoveRun := { item := q, span := span, order := s.moveCount, rows := rows, layer := layer }
  ({ s with moveCount := s.moveCount + 1 }.startFlight e span).onEngine e fun x => { x with moves := x.moves ++ [m] }

/-- Layer `i` of a window is fetched into slot i mod W as one move of the span. -/
def State.fetchLayer (s : State) (e : Fin 16) (w : WindowRun) (i : Nat) : State :=
  let l := w.layers.getD i ((0, 0), (0, 0))
  let base := w.desc.tbase + i % w.slots * w.desc.slot
  let row := fun (src dst len k : Nat) =>
    { skind := 0, sblade := 0, src := src, dkind := 0, dblade := 0, dst := dst, len := len, engine := e.val + k % w.desc.span : MoveRow }
  let rows := row l.1.1 base l.1.2 0 :: if l.2.2 = 0 then [] else [row l.2.1 (base + ceilDiv l.1.2 256 * 256) l.2.2 1]
  (s.startMove e w.item w.desc.span rows true).onEngine e fun x =>
    { x with window := some { w with next := i + 1, fetching := some s.moveCount } }

/-- What the check of LA_WINDOW finds before its layer table is read: the semaphores (R204), the table's handle (R206, R212), the
descriptor itself. -/
def State.windowFaults (s : State) (h : Fin 64) (d : Nat) : List (Plan × Bool) :=
  let n := s.descOf h d
  let inner := if bitsOf n 252 4 = 1 then s.innerFaults h (bitsOf n 0 16) 5 fun x => (parseTable x).isSome else []
  [(.semRange, bitsOf n 252 4 == 1 && (semBad false (bitsOf n 120 9) || semBad false (bitsOf n 129 9))),
    (.launchDesc, (WindowDesc.parse n).isNone)] ++ inner

/-- The check of LA_WINDOW: its run, or the fault. -/
def State.windowRun (s : State) (e : Fin 16) (q : QItem) (d : Nat) : Plan ⊕ WindowRun :=
  let h := q.heat
  match lowestFault (s.windowFaults h d), WindowDesc.parse (s.descOf h d) with
  | some p, _ => .inl p
  | none, none => .inl .launchDesc
  | none, some w =>
    let slots := s.entry (0x4300 + (crewOf h).val) 1
    let t := (parseTable (s.descOf h w.ltab)).getD (0, 0)
    match s.windowLayers h w t.1 t.2 with
    | none => .inl .launchDesc
    | some ls =>
      if s.spanOk h e w.span ∧ 0xF000000000 ≤ w.tbase ∧ s.decodes (s.accLaunch h) w.tbase (slots * w.slot) then
        .inr { item := q, desc := w, layers := ls, slots := slots }
      else .inl .launchDesc

/-! ## Hints (R306, R310, R311, R318) -/

/-- The rows of a hint are in cacheable regions of the Crew. -/
def State.hintOk (s : State) (h : Fin 64) (q : QItem) (e : Fin 16) (m : MoveDesc) : Bool :=
  m.mode == 2 && m.skind == 0 && m.dst == 0 && !(m.pin && m.unpin) && q.csem == 511 && s.spanOk h e m.span &&
  (List.range m.ycount).all fun y => s.rowOk h 0 0 (m.srcRow y) m.xlen &&
    match s.regionAt (m.srcRow y).toNat with
    | some r => s.regions[r].cacheable
    | none => false

/-- The lines from the first to the last byte of a hint's rows: first line, number. -/
def MoveDesc.lineRange (m : MoveDesc) : Nat × Nat :=
  let starts := (List.range m.ycount).map fun y => (m.srcRow y).toNat
  let lo := starts.foldl Min.min (m.srcRow 0).toNat / 256
  let hi := (starts.foldl Max.max 0 + m.xlen - 1) / 256
  (lo, hi + 1 - lo)

/-- The dies that are home to a line of a range. -/
def State.homesOf (s : State) (crew line lines : Nat) : List (Fin 2) :=
  (List.finRange 2).filter fun d => (List.range lines).any fun i => s.homeOf crew (line + i) == some d

/-- What a hint does: it pins, unpins, or touches every line of its rows so that it is looked up and allocated. -/
def State.hint (s : State) (h : Fin 64) (m : MoveDesc) : State :=
  let crew := (crewOf h).val
  let r := m.lineRange
  if m.pin then (s.homesOf crew r.1 r.2).foldl (fun s d => s.pinOn d h r.1 r.2 m.shared) s
  else if m.unpin then (s.homesOf crew r.1 r.2).foldl (fun s d => s.unpinOn d h r.1 r.2) s
  else (List.range m.ycount).foldl (fun s y =>
    let a := (m.srcRow y).toNat
    (List.range ((a + m.xlen - 1) / 256 + 1 - a / 256)).foldl (fun s i =>
      (s.lookUp crew (s.entry (0x7300 + h.val) 5) (a / 256 + i)).2) s) s

/-! ## The engine queue -/

/-- An engine takes what stands at the head of its queue (R317): a move starts, a window begins, a hint acts; one that faults
leaves the engine to the next. Nothing starts on an engine that a window holds. Its rows land as MOVE_COMPLETE says. -/
def State.launchHead (e : Fin 16) : Nat → State → State
  | 0, s => s
  | fuel + 1, s =>
    if s.windowHolds e.val then s
    else match s.engines[e].queue.waiting with
      | [] => s
      | q :: rest =>
        if s.slicing (engineUnit e) then s.awaitSlice (engineUnit e) else
        let s' := s.setQueue (.engine e) { s.engines[e].queue with waiting := rest }
        let fault := fun p => State.launchHead e fuel (s'.faultHeat q.heat q.lane q.pc p)
        let free := fun span => (List.range span).all fun i => !s.windowHolds (e.val + i) && !s.slicing (Fin.ofNat 36 (16 + e.val + i))
        match q.op with
        | .launch 1 d =>
          match MoveDesc.parse (s.descOf q.heat d) with
          | none => fault .launchDesc
          | some m =>
            match checkFault (s.moveFaults q.heat e m) (s.moveReach q.heat m) with
            | some p => fault p
            | none =>
              if free m.span then
                State.launchHead e fuel ((s'.startMove e q m.span (m.moveRows e) false).onEngine e fun x =>
                  { x with queue := { x.queue with started := x.queue.started ++ [q] } })
              else s
        | .launch 2 d =>
          match s.windowRun e q d with
          | .inl p => fault p
          | .inr w =>
            if free w.desc.span then
              (s'.onEngine e fun x => { x with queue := { x.queue with started := x.queue.started ++ [q] } }).fetchLayer e w 0
            else s
        | .launch _ d =>
          match MoveDesc.parse (s.descOf q.heat d) with
          | none => fault .launchDesc
          | some m =>
            if s.hintOk q.heat q e m then State.launchHead e fuel ((s'.hint q.heat m).wakeFences q.heat)
            else fault .launchDesc
        | _ => State.launchHead e fuel s'

/-- A LAUNCH instruction issues (R233, R234): UNIT_ABSENT outside the Crew, the descriptor's range and kind, its queue. -/
def State.issueLaunch (s : State) (h : Fin 64) (l : Fin 4) (op : Nat) (e : Fin 16) (handle : BitVec 16) (xi : BitVec 4)
    (csem : BitVec 9) (rsv : BitVec 19) : Host.Outcome State Fault Refusal :=
  let d := (s.lane h l).handle handle.toNat xi.toNat
  s.issue h l
    ([rsvBad rsv, (.semRange, semBad true csem.toNat), (.unitAbsent, !s.crewHas h 3 e.val)] ++ s.descFaults h d 7)
    fun s => State.launchHead e 9 (s.enqueue h l (.engine e) (.launch op d) csem.toNat)

/-- LA_MOVE (R316). -/
def execLaMove (h : Fin 64) (l : Fin 4) (e : Fin 16) (handle : BitVec 16) (xi : BitVec 4) (csem : BitVec 9)
    (rsv : BitVec 19) (s : State) : Host.Outcome State Fault Refusal := s.issueLaunch h l 1 e handle xi csem rsv

/-- LA_WINDOW (R321). -/
def execLaWindow (h : Fin 64) (l : Fin 4) (e : Fin 16) (handle : BitVec 16) (xi : BitVec 4) (csem : BitVec 9)
    (rsv : BitVec 19) (s : State) : Host.Outcome State Fault Refusal := s.issueLaunch h l 2 e handle xi csem rsv

/-- LA_HINT, prefetch (R306): the descriptor at hand says what the hint does. -/
def execLaHintPrefetch (h : Fin 64) (l : Fin 4) (e : Fin 16) (handle : BitVec 16) (xi : BitVec 4) (csem : BitVec 9)
    (rsv : BitVec 19) (s : State) : Host.Outcome State Fault Refusal := s.issueLaunch h l 4 e handle xi csem rsv

/-- LA_HINT, pin (R310). -/
def execLaHintPin (h : Fin 64) (l : Fin 4) (e : Fin 16) (handle : BitVec 16) (xi : BitVec 4) (csem : BitVec 9)
    (rsv : BitVec 19) (s : State) : Host.Outcome State Fault Refusal := s.issueLaunch h l 4 e handle xi csem rsv

/-- LA_HINT, unpin (R311). -/
def execLaHintUnpin (h : Fin 64) (l : Fin 4) (e : Fin 16) (handle : BitVec 16) (xi : BitVec 4) (csem : BitVec 9)
    (rsv : BitVec 19) (s : State) : Host.Outcome State Fault Refusal := s.issueLaunch h l 4 e handle xi csem rsv

/-! ## Completions -/

/-- MOVE_COMPLETE (R317): a part of a move in flight has landed; or its last byte has, and it is counted and posts its csem. A
layer of a window completes with WINDOW_LAYER_LANDED. -/
def execMoveComplete (e : Fin 16) (x : MovePart) (s : State) : Host.Outcome State Fault Refusal :=
  .next (match s.engines[e].moves[x.move]? with
    | none => s
    | some m =>
      if m.layer && x.part.isNone then s
      else
        let (ok, s) := s.advanceMove m x.part x.mem
        if ok && x.part.isNone && s.engines[e].moves.any (·.order == m.order) then
          let s := ((s.dropMove m).bump (0x4500 + e.val) 1 1).postItem m.item
          State.launchHead e 9 (s.wakeFences m.item.heat)
        else s)

/-- The engines of a span go on with their queues. -/
def State.resumeSpan (s : State) (e : Fin 16) (span : Nat) : State :=
  (List.finRange 16).foldl (fun s i => if e ≤ i ∧ i.val < e.val + span then State.launchHead i 9 s else s) s

/-- The move that fetches a layer of a window. -/
def Engine.layerMove (x : Engine) (w : WindowRun) : Option MoveRun := w.fetching.bind fun i => x.moves.find? (·.order == i)

/-- A layer of the window of an engine has landed (R321): arr is posted; after the last layer csem is, and the window ends; of the
first W layers the next is fetched at once. -/
def State.layerLanded (s : State) (e : Fin 16) (w : WindowRun) (m : MoveRun) : State :=
  let w := { w with fetching := none, landed := w.landed + 1 }
  let s := ((s.onEngine e fun x => { x with window := some w, moves := x.moves.filter (·.order != m.order) }).endFlight e m.span).bump
    (0x4500 + e.val) 1 1
  let s := s.post w.item.heat w.item.lane w.item.pc w.desc.arr 1
  match s.engines[e].window with
  | none => s
  | some w =>
    if w.landed = w.desc.count then
      let s := s.onEngine e fun x => { x with window := none, queue := { x.queue with started := x.queue.started.erase w.item } }
      ((s.postItem w.item).wakeFences w.item.heat).resumeSpan e w.desc.span
    else if w.next < w.slots ∧ !s.heats[w.item.heat].savesWork then s.fetchLayer e w w.next
    else s

/-- WINDOW_LAYER_LANDED (R321): the rest of the layer that is being fetched lands. A fault in flight has ended the window with its
Heat. -/
def execWindowLayerLanded (x : LayerReport) (s : State) : Host.Outcome State Fault Refusal :=
  let e := x.engine
  .next (match s.engines[e].window with
    | some w =>
      match s.engines[e].layerMove w with
      | some m =>
        let (ok, s) := s.advanceMove m none x.mem
        if ok && s.engines[e].window.isSome then s.layerLanded e w m else s
      | none => s
    | none => s)

/-- WINDOW_RELEASE (R321): once rel is at least 1, the engine consumes it and fetches the next layer into the freed slot. -/
def execWindowRelease (e : Fin 16) (s : State) : Host.Outcome State Fault Refusal :=
  .next (match s.engines[e].window with
    | some w =>
      let h := w.item.heat
      if w.fetching.isNone ∧ !s.heats[h].savesWork ∧ w.slots ≤ w.next ∧ w.next < w.desc.count ∧ 1 ≤ s.sem h w.desc.rel then
        (s.setSem h w.desc.rel (s.sem h w.desc.rel - 1)).fetchLayer e w w.next
      else s
    | none => s)

end Sys2Proof.Machine
end

