-- ==== Sys2Proof/Machine/Link.lean ====
section
/-! DEFINITION. The Oarlocks: training and admission (R388 to R423), the loss of a partner (R435), acknowledgement and
replay (R404 to R407), the arrival of frames (R394 to R411). -/
namespace Sys2Proof

/-- Header field of a received frame (Table 09-4). -/
def RxFrame.field (f : RxFrame) (lo w : Nat) : Nat := bitsOf f.hdr.toNat lo w

/-- The fields of Table 09-4 that every handler reads. -/
def RxFrame.ftype (f : RxFrame) : Nat := f.field 244 4
@[inherit_doc RxFrame.ftype] def RxFrame.vc (f : RxFrame) : Nat := f.field 242 2
@[inherit_doc RxFrame.ftype] def RxFrame.crew (f : RxFrame) : Nat := f.field 240 2
@[inherit_doc RxFrame.ftype] def RxFrame.hops (f : RxFrame) : Nat := f.field 224 8
@[inherit_doc RxFrame.ftype] def RxFrame.origin (f : RxFrame) : Nat := f.field 184 24
@[inherit_doc RxFrame.ftype] def RxFrame.dest (f : RxFrame) : Nat := f.field 160 24
@[inherit_doc RxFrame.ftype] def RxFrame.seq (f : RxFrame) : Nat := f.field 128 32
@[inherit_doc RxFrame.ftype] def RxFrame.ts (f : RxFrame) : Nat := f.field 64 64

/-- Whether the CRC of a control word holds, in a codeword that was corrected (R399). -/
def RxWord.good (w : RxWord) : Bool := w.whole && Machine.withCrc w.bits.toNat == w.bits.toNat

/-- The body of an arriving TRAIN frame of subtype 1 and a kind, where it can be read. -/
def RxFrame.keyBody (f : RxFrame) (kind : Nat) : Option (List Byte) :=
  if f.whole ∧ f.ftype = 5 ∧ f.payload.take 2 = [1, BitVec.ofNat 8 kind] ∧ 8 ≤ f.payload.length then some (f.payload.drop 8)
  else none

end Sys2Proof

namespace Sys2Proof.Machine

/-! ## States of an Oarlock and of a Sweep -/

/-- The Sweep of an Oarlock, `none` for 0xFF. -/
def State.sweepOf (s : State) (o : Fin 24) : Option (Fin 12) :=
  let w := s.entry (0x5100 + o.val) 3
  if h : w < 12 then some ⟨w, h⟩ else none

/-- The entries and the state of a Sweep follow its Oarlocks (R413). An ADMITTED Sweep starts with fresh credits (R409);
one that is no longer ADMITTED keeps no waiting frame, and the buffers that those held are free. -/
def State.refreshSweep (s : State) (w : Fin 12) : State :=
  let st := s.sweepStateNow w.val
  let os := (s.sweepOars w.val).filter fun o => s.oarlocks[o].state == .admitted
  let mask := (os.map fun o => 2 ^ o.val).sum
  let s := (((s.setEntry (0x5200 + w.val) 2 st).setEntry (0x5200 + w.val) 3 mask).setEntry (0x5200 + w.val) 4
    (if st = 2 then 200 * os.length else 0)).setEntry (0x5200 + w.val) 5 (if st = 2 ∧ s.fleetHop w.val then 1 else 0)
  if st = s.sweeps[w].state then s
  else
    let old := s.sweeps[w].egress
    let s := (s.onSweep w fun x => { x with state := st, egress := [] }).settleCredit w
    let s := old.foldl (fun s f => match f.held with
      | some v => s.freeCredit v f.crew f.vc
      | none => s) s
    let s := s.raiseSweep w.val 0x5002 [w.val, st, mask]
    if st = 2 then
      (s.onSweep w fun x => { x with
        peerGrant := [], spent := [], granted := [], used := [], freed := []
        telemAt := some s.clock.now, telemMissing := false }).topUp w
    else s

/-- The key of an equalisation engine among Marshal's instances (Table 09-14). -/
def equaliserKey (d : Fin 2) (e : Nat) : Nat := 2 ^ 22 + 8 * d.val + e

/-- The Oarlocks of a die. -/
def dieOars (d : Fin 2) : List (Fin 24) := (List.finRange 24).filter fun o => dieOf 12 o.val == d

/-- An Oarlock enters a state (0x51oo.01), and its wire carries what Table 09-9 says: below ALIGN the transmitters are idle, or send
the patterns of the standard; from ALIGN on IDLE words fill the gaps (R390, R392, R417). -/
def State.enterOar (s : State) (o : Fin 24) (st : OarState) : State :=
  let s := (s.onOar o fun x => { x with state := st, since := s.clock.now, engine := if st = .equalise then x.engine else none }).setEntry
    (0x5100 + o.val) 1 st.code
  (if st.code < 3 then s.emit { kind := .signal, unit := o.val, fields := [st.code] } else s).fillIdle o

/-- A free equalisation engine is granted to an Oarlock of its die in DETECT with signal (R418, R427). -/
def State.grantEqualiser (s : State) (d : Fin 2) (e : Nat) : State :=
  if (dieOars d).any fun o => s.oarlocks[o].engine == some e then s
  else
    let p := s.port (equaliserKey d e)
    let t := s.clock.now / 10000
    let want := (dieOars d).filter fun o => s.oarlocks[o].state == .detect && s.oarlocks[o].signal
    match firstBy (fun (a b : Fin 24) => p.before t a.val b.val) want with
    | none => s
    | some o =>
      let s := s.noteWin (equaliserKey d e) t o.val (want.map (·.val)) 0
      (s.onOar o fun x => { x with engine := some e }).enterOar o .equalise

/-- Every free engine of a die is granted. -/
def State.grantEqualisers (s : State) (d : Fin 2) : State := (List.range 6).foldl (fun s e => s.grantEqualiser d e) s

/-- An Oarlock enters DOWN and forgets what it had trained and keyed. -/
def State.downOar (s : State) (o : Fin 24) : State :=
  let s := (s.onOar o fun x => { x with
    signal := false, peer := none, peerId := [], own := none, proofOk := false, readySeen := false, key := none, secret := []
    oldSecret := [], crewKeys := .replicate 4 {}, txNext := 0, rxNext := 0, sealed := 0, opened := 0, replay := []
    gap := none, badTag := none, sinceAck := 0, tick := none }).enterOar o .down
  let s := s.grantEqualisers (dieOf 12 o.val)
  match s.sweepOf o with
  | some w => s.refreshSweep w
  | none => s

/-- A training attempt ends without admission (R418): f rises, 0x51oo.17 counts. -/
def State.failOar (s : State) (o : Fin 24) : State :=
  ((s.onOar o fun x => { x with fails := x.fails + 1, trained := true }).bump (0x5100 + o.val) 0x17 1).downOar o

/-- Conditions of loss (Table 09-15). -/
inductive LossCond where
  | idle | lock | silent | notReady | replay
deriving DecidableEq, Repr

/-- The row of Table 09-15. -/
def LossCond.code : LossCond → Nat
  | .idle => 0 | .lock => 1 | .silent => 2 | .notReady => 3 | .replay => 4

/-- An Oarlock in ALIGN or a later state is lost (R435): DOWN, EV-5020 with the timestamp of the last valid word, and the
jobs with a share of its ADMITTED Sweep stop (R436). The loss of an ADMITTED Oarlock sets f to 0 (R418). -/
def State.loseOar (s : State) (o : Fin 24) (c : LossCond) : State :=
  let x := s.oarlocks[o]
  if x.state.code < 3 then s
  else
    let sw := (s.sweepOf o).filter fun w => s.sweeps[w].state == 2
    let s := (s.bump (0x5100 + o.val) 0x18 1).raiseOar o 0x5020 [o.val, c.code, s.stampAt x.lastValid]
    let s := if x.state = .admitted then (s.onOar o fun x => { x with fails := 0 }).downOar o else s.failOar o
    match sw with
    | none => s
    | some w => (List.finRange 4).foldl (fun s k => if s.hasShare k.val w.val then s.stopJob k .linkLost o.val else s) s

/-! ## Training (R417, R418) -/

/-- OARLOCK_DOWN_WAIT (R418): after 2^min(f, 6) ms an enabled Oarlock enters DETECT, once link training has begun. -/
def execOarlockDownWait (o : Fin 24) (s : State) : Host.Outcome State Fault Refusal :=
  .next (
    let x := s.oarlocks[o]
    if x.state = .down ∧ s.linkTraining ∧ s.entry (0x5100 + o.val) 2 = 1 then
      ((s.advanceTo (x.since + 2 ^ min x.fails 6 * 1000000)).enterOar o .detect).bump (0x5100 + o.val) 0x16 1
    else s)

/-- SIGNAL_DETECT (R417): signal on all 8 lanes of an Oarlock in DETECT; with an engine granted it enters EQUALISE. -/
def execSignalDetect (o : Fin 24) (s : State) : Host.Outcome State Fault Refusal :=
  .next (if s.oarlocks[o].state = .detect then
    (s.onOar o fun x => { x with signal := true }).grantEqualisers (dieOf 12 o.val) else s)

/-- LOSS_OF_SIGNAL (R417): DETECT and EQUALISE return to DETECT. -/
def execLossOfSignal (o : Fin 24) (s : State) : Host.Outcome State Fault Refusal :=
  .next (if s.oarlocks[o].state = .detect ∨ s.oarlocks[o].state = .equalise then
    ((s.onOar o fun x => { x with signal := false }).enterOar o .detect).grantEqualisers (dieOf 12 o.val) else s)

/-- EQUALISE_DONE (R417): both ends report receiver ready. -/
def execEqualiseDone (o : Fin 24) (s : State) : Host.Outcome State Fault Refusal :=
  .next (if s.oarlocks[o].state = .equalise then
    (s.enterOar o .align).grantEqualisers (dieOf 12 o.val) else s)

/-- ALIGN_DONE (R417): codeword lock, deskew, polarity and lane order are found. -/
def execAlignDone (o : Fin 24) (polarity : BitVec 8) (reversed : Bool) (s : State) : Host.Outcome State Fault Refusal :=
  .next (if s.oarlocks[o].state = .align then
    ((((s.setEntry (0x5100 + o.val) 0xC polarity.toNat).setEntry (0x5100 + o.val) 0xD (if reversed then 1 else 0)).onOar o
      fun x => { x with lastValid := s.clock.now, lastSent := s.clock.now })).enterOar o .identify
    else s)

/-- The time limit of a training state, in ns (Table 09-9). -/
def OarState.limit : OarState → Option Nat
  | .equalise => some 20000000
  | .align | .identify | .readyWait => some 1000000
  | .keying => some 5000000
  | _ => none

/-- TRAINING_LIMIT (R417): a training state reaches its limit; the Oarlock goes DOWN and EV-5040 names the state. -/
def execTrainingLimit (o : Fin 24) (s : State) : Host.Outcome State Fault Refusal :=
  .next (
    let x := s.oarlocks[o]
    match x.state.limit with
    | some l => ((s.advanceTo (x.since + l)).raiseOar o 0x5040 [o.val, x.state.code]).failOar o
    | none => s)

/-! ## Identity (R419 to R421) -/

/-- The module id, with bit 24 where none is assigned, and whether this module has coordinates (0x1020.01). -/
def State.hasCoords (s : State) : Bool := !bitOf (s.entry 0x1020 1) 24

/-- The opposite direction of a role. -/
def oppositeRole (r : Nat) : Nat := if r = 0 then 0 else if r % 2 = 1 then r + 1 else r - 1

/-- The role of an Oarlock's Sweep. -/
def State.oarRole (s : State) (o : Fin 24) : Nat :=
  match s.sweepOf o with
  | some w => s.entry (0x5200 + w.val) 1
  | none => 0

/-- Reads an identity frame's payload (Table 09-10). -/
def Identity.parse (bs : List Byte) : Option Identity :=
  let f := fun at_ n => ofBeBytes ((bs.drop at_).take n)
  if bs.length ≠ 64 ∨ f 0 1 ≠ 0 then none
  else some
    { flags := f 1 1, oar := f 2 1, sweep := f 3 1, role := f 4 1, module := f 5 3, proto := f 8 2, oldProto := f 10 2
      schema := f 12 2, oldSchema := f 14 2, stamp := f 16 8, echo := f 24 8, digest := bs.drop 32 }

/-- The identity frame that an Oarlock sends. -/
def State.identityBytes (s : State) (o : Fin 24) : List Byte :=
  let x := s.oarlocks[o]
  beBytes 1 0 ++ beBytes 1 ((if s.hasCoords then 1 else 0) + if x.state = .hold then 2 else 0) ++ beBytes 1 o.val
    ++ beBytes 1 (s.entry (0x5100 + o.val) 3) ++ beBytes 1 (s.oarRole o) ++ beBytes 3 s.moduleId
    ++ beBytes 2 (s.entry 0x5000 1) ++ beBytes 2 (s.entry 0x5000 2) ++ beBytes 2 (s.entry 0x5000 3)
    ++ beBytes 2 (s.entry 0x5000 4) ++ beBytes 8 s.stamp ++ beBytes 8 ((x.peer.map (·.stamp)).getD 0)
    ++ identityDigest

/-- The hold cause of Table 09-11; 0: every check passes. -/
def State.identityCause (s : State) (o : Fin 24) (p : Identity) : Nat :=
  let e := s.entry (0x5100 + o.val)
  if !s.hasCoords then 1
  else if bitOf (e 4) 24 || e 5 == 0xFF then 2
  else if p.module ≠ e 4 % 2 ^ 24 then 3
  else if p.oar ≠ e 5 then 4
  else if p.proto < s.entry 0x5000 2 ∨ s.entry 0x5000 1 < p.oldProto then 5
  else if p.schema < s.entry 0x5000 4 ∨ s.entry 0x5000 3 < p.oldSchema then 6
  else if p.role ≠ oppositeRole (s.oarRole o) then 7
  else 0

/-- The FRAME_START word of a TRAIN frame (Table 09-4): one hop, to the module that the peer shows, or before it has shown any to the
expected one; seq is 0, and neither a virtual channel nor a Crew nor a tag belongs to it. -/
def State.trainHeader (s : State) (o : Fin 24) (plen : Nat) : Nat :=
  let x := s.oarlocks[o]
  let dest := (x.peer.map (·.module)).getD (s.entry (0x5100 + o.val) 4)
  1 * 2 ^ 248 + 5 * 2 ^ 244 + 1 * 2 ^ 224 + plen * 2 ^ 211 + s.moduleId % 2 ^ 24 * 2 ^ 184 + dest % 2 ^ 24 * 2 ^ 160
    + s.stamp % 2 ^ 64 * 2 ^ 64 + x.acked

/-- A TRAIN frame leaves (R394 to R396): neither counted nor authenticated, its payload padded to whole words. -/
def State.sendTrain (s : State) (o : Fin 24) (payload : List Byte) : State :=
  let hdr := s.trainHeader o payload.length
  s.emit { kind := .frame, unit := o.val, fields := [hdr], bytes := beBytes 32 hdr ++ padWords payload }

/-- A key-exchange payload (Table 12-8). -/
def keyPayload (kind part parts : Nat) (body : List Byte) : List Byte :=
  [1, BitVec.ofNat 8 kind, BitVec.ofNat 8 part, BitVec.ofNat 8 parts, 0, 0, 0, 0] ++ body

/-- KEYING starts (R537): the end draws an ML-KEM-768 key pair, whose bytes are free, and sends ENCAPS. While the TRNG of its die is
not healthy it draws none, and the Oarlock stays in KEYING until the limit (R505). -/
def State.startKeying (s : State) (o : Fin 24) : State :=
  let own := s.identityBytes o
  let s := (s.enterOar o .keying).onOar o fun x => { x with own := some own }
  if s.dies[dieOf 12 o.val].trngBad then s
  else
    let (ek, s) := s.drawBytes 1184
    (s.onOar o fun x => { x with key := some { encaps := ek } }).sendTrain o (keyPayload 1 0 1 ek)

/-- The checks of R420 are made against the identity that the peer shows: KEYING where all pass, HOLD with the cause where
one fails; EV-5010 on entry to HOLD (R421). -/
def State.checkIdentity (s : State) (o : Fin 24) : State :=
  let x := s.oarlocks[o]
  match x.peer with
  | none => s
  | some p =>
    if x.state = .identify ∨ x.state = .hold then
      let c := s.identityCause o p
      let s := s.setEntry (0x5100 + o.val) 0xA c
      if c = 0 then s.startKeying o
      else if x.state = .hold then s
      else
        ((s.enterOar o .hold).onOar o fun x => { x with trained := true }).raiseOar o 0x5010
          [s.moduleId, o.val, s.entry (0x5100 + o.val) 4, s.entry (0x5100 + o.val) 5, p.module, p.oar, p.role,
            s.entry 0x5000 1, p.proto, s.entry 0x5000 3, p.schema, c]
    else s

/-- Every held Oarlock re-runs the checks, at the commit of wiring or coordinates (R421). -/
def State.recheckHolds (s : State) : State :=
  (List.finRange 24).foldl (fun s o => if s.oarlocks[o].state = .hold then s.checkIdentity o else s) s

/-- An uncorrectable codeword is counted (0x51oo.11, Table 09-13). -/
def State.badCodeword (s : State) (o : Fin 24) : State :=
  { s.bump (0x5100 + o.val) 0x11 1 with telem := { s.telem with bad := s.telem.bad + 1 } }

/-- The FEC counters, the valid word of an arriving frame. -/
def State.arrive (s : State) (o : Fin 24) (f : RxFrame) : State :=
  let s := { s.bump (0x5100 + o.val) 0x10 f.corrected with telem := { s.telem with corrected := s.telem.corrected + f.corrected } }
  if f.whole then s.onOar o fun x => { x with lastValid := s.clock.now } else s.badCodeword o

/-- IDENTITY_FRAME (R419 to R421): what the peer shows is recorded, the latency measured, the checks made. A held Oarlock
re-runs them when the peer's identity changes. The latency comes from echo stamps by no formula that the spec gives: it is
a free value. -/
def execIdentityFrame (o : Fin 24) (f : RxFrame) (s : State) : Host.Outcome State Fault Refusal :=
  .next (
    let st := s.oarlocks[o].state
    let s := s.arrive o f
    match Identity.parse f.payload with
    | none => s
    | some p =>
      if f.whole ∧ f.ftype = 5 ∧ (st = .identify ∨ st = .hold) then
        let old := s.oarlocks[o].peer
        let changed := old.map (fun q : Identity => { q with stamp := 0, echo := 0, flags := 0 })
          != some { p with stamp := 0, echo := 0, flags := 0 }
        let e := 0x5100 + o.val
        let s := (((s.setEntry e 6 p.module).setEntry e 7 p.oar).setEntry e 8 p.proto).setEntry e 9 p.schema
        let s := s.onOar o fun x => { x with peer := some p, peerId := f.payload }
        let s := if p.echo = 0 then s else
          let (n, s) := s.draw
          s.setEntry e 0xB (n % 2 ^ 32)
        if st = .identify ∨ changed then s.checkIdentity o else s
      else s)

/-- IDENTITY_FRAME_SEND (R417): every 10 µs in IDENTIFY, every 1 ms in HOLD. -/
def execIdentityFrameSend (o : Fin 24) (s : State) : Host.Outcome State Fault Refusal :=
  .next (
    let x := s.oarlocks[o]
    if x.state = .identify ∨ x.state = .hold then
      let s := s.advanceTo (x.lastSent + if x.state = .hold then 1000000 else 10000)
      (s.onOar o fun x => { x with lastSent := s.clock.now }).sendTrain o (s.identityBytes o)
    else s)

/-! ## Keys (R537 to R539) -/

/-- The end signs the transcript and sends PROOF once both ENCAPS and both CIPHER have passed (R538). Without a leaf index
it sends none (R522). -/
def State.sendProof (s : State) (o : Fin 24) : State :=
  match s.oarlocks[o].key with
  | none => s
  | some k =>
    if k.peerEncaps.isSome ∧ k.peerCipher.isSome ∧ k.sentSwitch.isNone then
      match s.sign with
      | none => s
      | some (sig, s) =>
        let body := attestKey ++ sig
        let s := s.onOar o fun x => { x with key := some { k with sentSwitch := some 0 } }
        (s.sendTrain o (keyPayload 3 0 2 (body.take 2728))).sendTrain o (keyPayload 3 1 2 (body.drop 2728))
    else s

/-- ENCAPS (R537): the end encapsulates to the peer's key and answers with CIPHER, whose bytes are free. -/
def execEncaps (o : Fin 24) (f : RxFrame) (s : State) : Host.Outcome State Fault Refusal :=
  .next (
    let s := s.arrive o f
    match f.keyBody 1, s.oarlocks[o].key with
    | some body, some k =>
      if s.oarlocks[o].state = .keying ∧ body.length = 1184 ∧ k.peerEncaps = none then
        let (ct, s) := s.drawBytes 1088
        ((s.onOar o fun x => { x with key := some { k with peerEncaps := some body, cipher := ct } }).sendTrain o
          (keyPayload 2 0 1 ct)).sendProof o
      else s
    | _, _ => s)

/-- CIPHER (R537, R538): the end decapsulates, signs the transcript and sends PROOF. -/
def execCipher (o : Fin 24) (f : RxFrame) (s : State) : Host.Outcome State Fault Refusal :=
  .next (
    let s := s.arrive o f
    match f.keyBody 2, s.oarlocks[o].key with
    | some body, some k =>
      if s.oarlocks[o].state = .keying ∧ body.length = 1088 ∧ k.peerCipher = none then
        (s.onOar o fun x => { x with key := some { k with peerCipher := some body } }).sendProof o
      else s
    | _, _ => s)

/-- PROOF (R539): a part of the peer's proof. When both parts are there, `sigOk` says whether the signature over the
transcript verifies and `digest` is the SHA-256 of its public key. A proof that passes sets the link keys; one that fails
takes the Oarlock DOWN with EV-8020 and EV-5040 (R423). -/
def execProof (o : Fin 24) (f : RxFrame) (sigOk : Bool) (digest : List (BitVec 8)) (s : State) :
    Host.Outcome State Fault Refusal :=
  .next (
    let s := s.arrive o f
    match f.keyBody 3, s.oarlocks[o].key, s.oarlocks[o].peer with
    | some body, some k, some p =>
      if s.oarlocks[o].state = .keying then
        let part := (f.payload.getD 2 0).toNat
        let parts := (part, body) :: k.proof.filter (·.1 != part)
        let s := s.onOar o fun x => { x with key := some { k with proof := parts } }
        if parts.length < 2 then s
        else
          let want := (s.blob (0x8500 + o.val) 1 32).take 32
          let s := s.setBlob (0x8500 + o.val) 2 digest
          if sigOk ∧ digest = p.digest ∧ (want.all (· == 0) ∨ digest = want) then
            let key := s.linkSecret o k
            (s.onOar o fun x => { x with
              proofOk := true, secret := key, oldSecret := [], key := none, crewKeys := .replicate 4 {}
              txNext := 0, rxNext := 0, sealed := 0, opened := 0, lastSent := s.clock.now }).enterOar o .readyWait
          else
            ((s.raiseOar o 0x8020 [o.val, ofBeBytes want, ofBeBytes digest]).raiseOar o 0x5040
              [o.val, OarState.keying.code]).failOar o
      else s
    | _, _, _ => s)

/-- READY_SEND (R417): a READY word every 1 µs in READY_WAIT. -/
def execReadySend (o : Fin 24) (s : State) : Host.Outcome State Fault Refusal :=
  .next (
    let x := s.oarlocks[o]
    if x.state = .readyWait then
      let s := s.advanceTo (x.lastSent + 1000)
      (s.onOar o fun x => { x with lastSent := s.clock.now }).sendWord o .ready
    else s)

/-- A control word arrives (R399): one that fails its CRC or lies in an uncorrectable codeword is discarded and counted, and so is one
of a type that Table 09-6 does not list; FRAME_START is no such word. -/
def State.takeWord (s : State) (o : Fin 24) (w : RxWord) (ctype : Nat) : State × Bool :=
  let t := bitsOf w.bits.toNat 248 8
  if s.oarlocks[o].state.code < 3 then (s, false)
  else if w.whole = false then ((s.badCodeword o).bump (0x5100 + o.val) 0x14 1, false)
  else if w.good = false then (s.bump (0x5100 + o.val) 0x14 1, false)
  else
    let s := s.onOar o fun x => { x with lastValid := s.clock.now }
    if t = 0 ∨ 8 < t then (s.bump (0x5100 + o.val) 0x14 1, false) else (s, t == ctype)

/-- READY (R417): an Oarlock in READY_WAIT becomes ADMITTED, EV-5001; its Sweep follows (R413). -/
def execReady (o : Fin 24) (w : RxWord) (s : State) : Host.Outcome State Fault Refusal :=
  .next (
    let (s, ok) := s.takeWord o w 6
    if ok ∧ s.oarlocks[o].state = .readyWait then
      let p := s.oarlocks[o].peer
      let s := (s.onOar o fun x => { x with fails := 0, trained := true, lastAck := s.clock.now }).enterOar o .admitted
      let s := s.raiseOar o 0x5001 [((p.map (·.module)).getD 0 : Nat), ((p.map (·.oar)).getD 0 : Nat),
        min (s.entry 0x5000 1) ((p.map (·.proto)).getD 0)]
      match s.sweepOf o with
      | some k => s.refreshSweep k
      | none => s
    else s)

/-! ## Losses (R435) -/

/-- OARLOCK_LOSS (R435): a condition of Table 09-15 holds. -/
def execOarlockLoss (o : Fin 24) (c : BitVec 3) (s : State) : Host.Outcome State Fault Refusal :=
  .next (match c.toNat with
    | 0 => s.loseOar o .idle
    | 1 => s.loseOar o .lock
    | 2 => s.loseOar o .silent
    | 3 => if s.oarlocks[o].state = .admitted then s.loseOar o .notReady else s
    | 4 => if s.oarlocks[o].state = .admitted then s.loseOar o .replay else s
    | _ => s)

/-- ELECTRICAL_IDLE_TIMER (R435): a lane has been electrically idle for 500 ns since `from_`. -/
def execElectricalIdleTimer (o : Fin 24) (from_ : Nat) (s : State) : Host.Outcome State Fault Refusal :=
  .next (if 3 ≤ s.oarlocks[o].state.code then (s.advanceTo (from_ + 500)).loseOar o .idle else s)

/-- CODEWORD_LOCK_TIMER (R435): codeword lock has been lost for 1 µs since `from_`. -/
def execCodewordLockTimer (o : Fin 24) (from_ : Nat) (s : State) : Host.Outcome State Fault Refusal :=
  .next (if 3 ≤ s.oarlocks[o].state.code then (s.advanceTo (from_ + 1000)).loseOar o .lock else s)

/-- NO_VALID_WORD_TIMER (R435): no valid word for 2 µs. -/
def execNoValidWordTimer (o : Fin 24) (s : State) : Host.Outcome State Fault Refusal :=
  .next (
    let x := s.oarlocks[o]
    if 3 ≤ x.state.code then (s.advanceTo (x.lastValid + 2000)).loseOar o .silent else s)

/-- NOT_READY (R422): an ADMITTED Oarlock that receives it is lost. -/
def execNotReady (o : Fin 24) (w : RxWord) (s : State) : Host.Outcome State Fault Refusal :=
  .next (
    let (s, ok) := s.takeWord o w 7
    if ok ∧ s.oarlocks[o].state = .admitted then s.loseOar o .notReady else s)

/-! ## Words -/

/-- IDLE (R399): the peer's link status and the Crews that it scrubs. -/
def execIdle (o : Fin 24) (w : RxWord) (s : State) : Host.Outcome State Fault Refusal :=
  .next (
    let (s, ok) := s.takeWord o w 2
    if ok then s.onOar o fun x => { x with
      peerStatus := bitsOf w.bits.toNat 240 8, peerScrub := bitsOf w.bits.toNat 236 4 } else s)

/-- ALIGN (R392): the lanes stay aligned. -/
def execAlign (o : Fin 24) (w : RxWord) (s : State) : Host.Outcome State Fault Refusal := .next (s.takeWord o w 8).1

/-- ALIGN_SEND (R392): one ALIGN word in every 16,384 words, from ALIGN onward. -/
def execAlignSend (o : Fin 24) (s : State) : Host.Outcome State Fault Refusal :=
  .next (if 3 ≤ s.oarlocks[o].state.code then s.sendWord o .align else s)

/-- CREDIT (R409): four entries of cumulative counts; waiting frames leave on what they return. -/
def execCredit (o : Fin 24) (w : RxWord) (s : State) : Host.Outcome State Fault Refusal :=
  .next (
    let (s, ok) := s.takeWord o w 3
    match ok, s.sweepOf o with
    | true, some k =>
      let n := w.bits.toNat
      let s := (List.range 4).foldl (fun s i =>
        let lo := 192 - 32 * i
        if bitOf n (lo + 31) then s.onSweep k fun x => x.takeGrant (bitsOf n (lo + 28) 2) (bitsOf n (lo + 26) 2) (bitsOf n lo 16)
        else s) s
      (s.pump k).openWindows
    | _, _ => s)

/-- The replay timeout of an Oarlock (R406). -/
def State.replayTimeout (s : State) (o : Fin 24) : Nat :=
  let fleet := s.oarlocks[o].peer.any fun p => boatOf p.module != boatOf s.moduleId
  s.entry 0x5000 (if fleet then 0xE else 0xD)

/-- Frames up to `ack` are acknowledged and leave the replay buffer (R404). -/
def State.freeReplay (s : State) (o : Fin 24) (ack : Nat) : State :=
  s.onOar o fun x => { x with replay := x.replay.filter fun f => !((ack + 2 ^ 32 - f.seq % 2 ^ 32) % 2 ^ 32 < 2 ^ 31) }

/-- The frames in the replay buffer are resent, byte for byte, in order (R406). A frame that has been resent 0x5000.0F
times takes the Oarlock DOWN instead, with EV-5031 (R407). -/
def State.resend (s : State) (o : Fin 24) : State :=
  let x := s.oarlocks[o]
  if x.replay.any fun f => s.entry 0x5000 0xF ≤ f.resent then
    (s.raiseOar o 0x5031 [o.val]).loseOar o .replay
  else
    let n := x.replay.length
    let s := x.replay.foldl (fun s f =>
      s.emit { kind := .frame, unit := o.val, fields := [f.hdr, f.ext], bytes := f.wire }) s
    let s := { s with telem := { s.telem with replayed := s.telem.replayed + n } }
    (s.bump (0x5100 + o.val) 0x12 n).onOar o fun x =>
      { x with replay := x.replay.map fun f => { f with resent := f.resent + 1, sentAt := s.clock.now } }

/-- ACK (R404, R406): frees replay space; with nak, the frames before the named seq are free and the rest is resent. -/
def execAck (o : Fin 24) (w : RxWord) (s : State) : Host.Outcome State Fault Refusal :=
  .next (
    let (s, ok) := s.takeWord o w 4
    if ok ∧ s.oarlocks[o].state = .admitted then
      let seq := bitsOf w.bits.toNat 216 32
      let s := if bitOf w.bits.toNat 215 then (s.freeReplay o ((seq + 2 ^ 32 - 1) % 2 ^ 32)).resend o else s.freeReplay o seq
      match s.sweepOf o with
      | some k => (s.pump k).openWindows
      | none => s
    else s)

/-- ACK_SEND (R404, R405): an acknowledgement every 200 ns while frames arrive, or the nak of an open gap once per replay
timeout. -/
def execAckSend (o : Fin 24) (s : State) : Host.Outcome State Fault Refusal :=
  .next (
    let x := s.oarlocks[o]
    if x.state ≠ .admitted then s
    else match x.gap with
      | some t => (s.advanceTo (t + s.replayTimeout o)).sendAck o true
      | none => if x.sinceAck = 0 then s else (s.advanceTo (x.lastAck + 200)).sendAck o false)

/-- REPLAY_TIMEOUT (R406): the oldest unacknowledged frame has waited the replay timeout. -/
def execReplayTimeout (o : Fin 24) (s : State) : Host.Outcome State Fault Refusal :=
  .next (match s.oarlocks[o].replay with
    | [] => s
    | f :: _ => (s.advanceTo (f.sentAt + s.replayTimeout o)).resend o)

/-! ## The arrival of an authenticated frame -/

/-- A damaged frame (R405): it is discarded; when no gap was open, one opens with a nak. -/
def State.damaged (s : State) (o : Fin 24) : State := if s.oarlocks[o].gap.isSome then s else s.sendAck o true

/-- A tag failure (R407): counted, EV-5030; the second on one seq takes the Oarlock DOWN. -/
def State.tagFailure (s : State) (o : Fin 24) : State :=
  let n := s.oarlocks[o].rxNext
  let s := (s.bump (0x5100 + o.val) 0x13 1).raiseOar o 0x5030 [o.val, n % 2 ^ 32]
  if s.oarlocks[o].badTag = some n then s.loseOar o .replay
  else (s.onOar o fun x => { x with badTag := some n }).damaged o

/-- The peer record of an origin and a Crew is used (R402). `none`: all 4,096 records are in use by others. -/
def State.usePeer (s : State) (origin crew : Nat) : Option State :=
  let now := s.strokeAt s.clock.now
  if s.peers.any fun p => p.origin == origin && p.crew == crew then
    some { s with peers := s.peers.map fun p => if p.origin = origin ∧ p.crew = crew then { p with stroke := now } else p }
  else if s.peers.length < 4096 then
    let s := { s with peers := s.peers ++ [{ origin := origin, crew := crew, stroke := now }] }
    some (if s.entry 0x5400 2 < s.peers.length then s.setEntry 0x5400 2 s.peers.length else s)
  else none

/-- The buffer of a frame that goes no further is free (R409); a STOP has none. -/
def State.freeFrame (s : State) (w : Fin 12) (f : RxFrame) : State := if f.ftype = 4 then s else s.freeCredit w f.crew f.vc

/-- A frame for another module goes on along its path (R373, R401), and keeps its buffer until it leaves (R410); or it is discarded at
hops 0. A Relay segment of a ring keeps the direction of its header. -/
def State.forward (s : State) (w : Fin 12) (f : RxFrame) : State :=
  if f.hops ≤ 1 then (s.freeFrame w f).bump (0x5200 + w.val) 0xE 1
  else
    let op := bitsOf f.ext.toNat 120 4
    let dir := if f.ftype = 1 ∧ op ≠ 3 then some (bitsOf f.ext.toNat 102 2, bitOf f.ext.toNat 101)
      else (s.route f.crew f.dest).1
    match dir with
    | none => (s.freeFrame w f).bump (0x5200 + w.val) 0xE 1
    | some (a, minus) =>
      s.sendFrame (s.axisSweep a minus)
        { ftype := f.ftype, vc := f.vc, crew := f.crew, hops := f.hops - 1, origin := f.origin, dest := f.dest, ts := f.ts
          ext := f.ext.toNat, payload := f.payload, held := if f.ftype = 4 then none else some w }

/-- An accepted frame is counted; the acknowledgement and the credit that its header carries are taken (R404, R409). -/
def State.noteAccepted (s : State) (o : Fin 24) (w : Fin 12) (f : RxFrame) : State :=
  let s := s.onOar o fun x => { x with
    rxNext := x.rxNext + 1, opened := x.opened + 1, gap := none, badTag := none, sinceAck := x.sinceAck + 1, lastTs := f.ts }
  let s := if 32 ≤ s.oarlocks[o].sinceAck then s.sendAck o false else s
  let s := ((s.bump (0x5200 + w.val) 7 1).bump (0x5200 + w.val) 9 f.payload.length).freeReplay o (f.field 0 32)
  let s := if bitOf f.hdr.toNat 43 then
    s.onSweep w fun x => x.takeGrant (f.field 46 2) (f.field 44 2) (f.field 48 16) else s
  (s.pump w).openWindows

/-- A frame of no record left waits for one (R402); EV-5050 once while all are in use. -/
def State.holdFrame (s : State) (o : Fin 24) (f : RxFrame) : State :=
  let s := (if s.peersFull then s else { s with peersFull := true }.raiseOar o 0x5050 [o.val]).bump 0x5400 3 1
  { s with heldFrames := s.heldFrames ++ [(o.val, f)] }

/-- What becomes of a frame whose credit is accounted for: the discard of a scrubbing or unkeyed Crew (R411, R543), the peer
record (R402), forwarding (R401). `some w`: the frame, which arrived by Sweep `w`, is for this module. -/
def State.deliver (s : State) (o : Fin 24) (w : Fin 12) (f : RxFrame) : State × Option (Fin 12) :=
  if s.crewBlocked o f.ftype f.crew then ((s.freeFrame w f).bump (0x5200 + w.val) 0xD 1, none)
  else match (if sameModule f.origin s.moduleId then some s else s.usePeer f.origin f.crew) with
    | none => (s.holdFrame o f, none)
    | some s =>
      if !sameModule f.dest s.moduleId then (s.forward w f, none)
      else (if f.ftype = 3 then s.freeFrame w f else s, some w)

/-- An accepted frame: a frame without a credit breaks the rule of R409 and takes the Oarlock DOWN; every other frame, a STOP
apart, uses one. -/
def State.accepted (s : State) (o : Fin 24) (w : Fin 12) (f : RxFrame) : State × Option (Fin 12) :=
  let s := s.noteAccepted o w f
  let k := vcKey f.crew f.vc
  if f.ftype = 4 then s.deliver o w f
  else if sparseGet 0 s.sweeps[w].granted k ≤ sparseGet 0 s.sweeps[w].used k then
    ((s.raiseOar o 0x5032 [o.val, f.crew, f.vc]).loseOar o .replay, none)
  else
    (s.onSweep w fun x => { x with used := sparseSet 0 x.used k (sparseGet 0 x.used k + 1) }).deliver o w f

/-- A frame other than TRAIN arrives on an Oarlock (R394, R397, R405, R422). -/
def State.receive (s : State) (o : Fin 24) (f : RxFrame) : State × Option (Fin 12) :=
  let st := s.oarlocks[o].state
  if st.code < 3 ∨ f.ftype = 5 then (s, none)
  else
    let s := s.arrive o f
    if f.field 248 8 ≠ 1 ∨ f.ftype = 0 ∨ 5 < f.ftype then (s.bump (0x5100 + o.val) 0x14 1, none)
    else if st ≠ .admitted then ((s.sendWord o (.notReady f.ftype)).bump (0x5100 + o.val) 0x15 1, none)
    else if !f.whole ∨ f.seq ≠ s.oarlocks[o].rxNext % 2 ^ 32 then (s.damaged o, none)
    else if !f.tagOk then (s.tagFailure o, none)
    else match s.sweepOf o with
      | none => (s, none)
      | some w => s.accepted o w f

/-- A frame that is not of the type of a command: one of a reserved type is discarded and counted (R394); every other belongs to another
command and changes nothing here. -/
def State.otherFrame (s : State) (o : Fin 24) (f : RxFrame) : State :=
  if f.ftype = 0 ∨ 5 < f.ftype then (s.receive o f).1 else s

/-! ## STOP and telemetry (R436, R437) -/

/-- A STOP for this module, which arrived by Sweep `w`: the first of the Crew's current job epoch stops its job and goes on; every other
is discarded and counted (R436). -/
def State.stopFrame (s : State) (w : Fin 12) (f : RxFrame) : State :=
  let s := s.bump (0x5200 + w.val) 0xC 1
  let i := StopInfo.parse f.payload
  let c : Fin 4 := Fin.ofNat 4 i.crew
  if i.epoch = s.epoch c.val ∧ s.crews[c].stopSeen ≠ some i.epoch then s.stopWith c i (some w.val)
  else s.bump 0x5600 2 1

/-- STOP_FRAME (R436). -/
def execStopFrame (o : Fin 24) (f : RxFrame) (s : State) : Host.Outcome State Fault Refusal :=
  .next (
    if f.ftype ≠ 4 then s.otherFrame o f
    else match s.receive o f with
      | (s, some w) => s.stopFrame w f
      | (s, none) => s)

/-- The state of a Crew as telemetry reports it (Table 09-13). -/
def State.crewCode (s : State) (c : Fin 4) : Nat :=
  match s.crews[c].state with
  | .stopped => 2
  | .scrub => 3
  | .recovery => 4
  | .normal =>
    if (List.finRange 64).any fun h => crewOf h == c && (s.heats[h].status == .running || s.heats[h].status == .preempted)
    then 1 else 0

/-- The telemetry body (Table 09-13). -/
def State.telemBody (s : State) : List Byte :=
  let t := s.telem
  let oars := (List.range 12).map fun i =>
    BitVec.ofNat 8 (16 * s.oarlocks[Fin.ofNat 24 (2 * i)].state.code + s.oarlocks[Fin.ofNat 24 (2 * i + 1)].state.code)
  beBytes 3 s.moduleId ++ beBytes 1 (s.entry 0xD000 1) ++ beBytes 8 s.stamp
    ++ ((List.finRange 4).map fun c => BitVec.ofNat 8 (s.crewCode c)) ++ beBytes 2 (ofSigned 16 t.maxTj)
    ++ beBytes 2 (s.entry 0x9000 2) ++ beBytes 4 (ofSigned 32 t.slack) ++ beBytes 4 t.overruns
    ++ beBytes 4 (min t.corrected (2 ^ 32 - 1)) ++ beBytes 4 t.replayed ++ beBytes 4 t.bad ++ oars ++ List.replicate 76 0

/-- TELEM_SEND (R437): one TELEM frame on every ADMITTED Sweep every 0x5000.10 strokes. -/
def execTelemSend (s : State) : Host.Outcome State Fault Refusal :=
  .next (
    let now := s.strokeAt s.clock.now
    if s.telem.last.all fun t => t + s.entry 0x5000 0x10 ≤ now then
      let body := s.telemBody
      let s := (List.range 12).foldl (fun s w =>
        if s.sweeps[Fin.ofNat 12 w].state = 2 then s.sendFrame w (s.neighbourFrame w 3 3 0 body) else s) s
      { s with telem := { last := some now } }
    else s)

/-- A TELEM body is kept with its arrival (R437). -/
def State.telemFrame (s : State) (w : Fin 12) (f : RxFrame) : State :=
  ((s.setBlob (0x5500 + w.val) 1 f.payload).setEntry (0x5500 + w.val) 2 s.stamp).onSweep w fun x =>
    { x with telemAt := some s.clock.now, telemMissing := false }

/-- TELEM (R437): the last body of each Sweep is kept. -/
def execTelem (o : Fin 24) (f : RxFrame) (s : State) : Host.Outcome State Fault Refusal :=
  .next (
    if f.ftype ≠ 3 then s.otherFrame o f
    else match s.receive o f with
      | (s, some w) => s.telemFrame w f
      | (s, none) => s)

/-- TELEMETRY_MISSING (R437): an ADMITTED Sweep without TELEM for 0x5000.11 periods raises EV-5060 once. -/
def execTelemetryMissing (w : Fin 12) (s : State) : Host.Outcome State Fault Refusal :=
  .next (match s.sweeps[w].telemAt with
    | some t =>
      if s.sweeps[w].state = 2 ∧ s.sweeps[w].telemMissing = false then
        let s := s.advanceTo (t + s.entry 0x5000 0x11 * s.entry 0x5000 0x10 * s.period)
        (s.onSweep w fun x => { x with telemMissing := true }).raiseSweep w.val 0x5060 [w.val]
      else s
    | none => s)

/-! ## In-place re-keys and Crew keys (R540 to R543) -/

/-- LINK_REKEY_START (R540): a direction has sealed 2³⁹ frames under its link secret; the end with the larger count starts
the re-key. At 2⁴⁰ the Oarlock is lost with EV-8021. -/
def execLinkRekeyStart (o : Fin 24) (s : State) : Host.Outcome State Fault Refusal :=
  .next (
    let x := s.oarlocks[o]
    if x.state ≠ .admitted then s
    else if 2 ^ 40 ≤ max x.sealed x.opened then (s.raiseOar o 0x8021 [o.val]).loseOar o .replay
    else if x.key.isNone ∧ 2 ^ 39 ≤ max x.sealed x.opened
        ∧ (x.opened < x.sealed ∨ (x.opened = x.sealed ∧ s.endA o)) ∧ s.dies[dieOf 12 o.val].trngBad = false then
      let (ek, s) := s.drawBytes 1184
      (s.onOar o fun x => { x with key := some { encaps := ek, starter := true } }).sendTrain o (keyPayload 4 0 1 (1 :: ek))
    else s)

/-- The switch word of a re-key (R540): its inner kind 7, the counter and the code of T′ under the old secret. -/
def State.sendSwitch (s : State) (o : Fin 24) (k : KeyExchange) : State :=
  let n := s.oarlocks[o].txNext
  let mac := linkCode s.oarlocks[o].secret (s.transcript o k)
  (s.onOar o fun x => { x with key := some { k with sentSwitch := some n } }).sendTrain o
    (keyPayload 4 0 1 (7 :: beBytes 12 n ++ mac))

/-- Both switch counters are known: the new secret is in force, every generation is 0 again (R540, R541). -/
def State.endRekey (s : State) (o : Fin 24) : State :=
  match s.oarlocks[o].key with
  | some k =>
    match k.sentSwitch, k.peerSwitch with
    | some a, some b =>
      let key := s.linkSecret o k
      ((s.onOar o fun x => { x with
        oldSecret := x.secret, secret := key, key := none, sealed := 0, opened := 0
        crewKeys := x.crewKeys.map fun (c : CrewKey) =>
          { c with gen := 0, random := [], sendSwitch := a, recvSwitch := b } }).bump (0x8500 + o.val) 4 1).setEntry
        (0x8500 + o.val) 5 0
    | _, _ => s
  | none => s

/-- REKEY (R540): a frame of the in-place exchange. Inner kind 1 is answered with a key of this end's own and a
ciphertext, 2 completes the exchange, 7 carries the peer's switch counter; `macOk` says whether its code verifies. -/
def execRekey (o : Fin 24) (f : RxFrame) (macOk : Bool) (s : State) : Host.Outcome State Fault Refusal :=
  .next (
    let s := s.arrive o f
    if s.oarlocks[o].state ≠ .admitted then s
    else match f.keyBody 4 with
      | none => s
      | some body =>
        let inner := (body.getD 0 0).toNat
        let rest := body.drop 1
        match inner, s.oarlocks[o].key with
        | 1, none =>
          let (ek, s) := s.drawBytes 1184
          let (ct, s) := s.drawBytes 1088
          ((s.onOar o fun x => { x with key := some { encaps := ek, cipher := ct, peerEncaps := some rest } }).sendTrain o
            (keyPayload 4 0 1 (1 :: ek))).sendTrain o (keyPayload 4 0 1 (2 :: ct))
        | 1, some k =>
          let (ct, s) := s.drawBytes 1088
          let k := { k with peerEncaps := some rest, cipher := ct }
          let s := (s.onOar o fun x => { x with key := some k }).sendTrain o (keyPayload 4 0 1 (2 :: ct))
          if k.starter ∧ k.peerCipher.isSome then s.sendSwitch o k else s
        | 2, some k =>
          let k := { k with peerCipher := some rest }
          let s := s.onOar o fun x => { x with key := some k }
          if k.starter ∧ k.peerEncaps.isSome then s.sendSwitch o k else s
        | 7, some k =>
          if macOk then
            let k := { k with peerSwitch := some (ofBeBytes (rest.take 12)) }
            let s := s.onOar o fun x => { x with key := some k }
            (if k.sentSwitch.isNone then s.sendSwitch o k else s).endRekey o
          else s
        | _, _ => s)

/-- The body of CREW_UPDATE and CREW_ACK (R542), with the code of the bytes before it. -/
def crewBody (secret : List Byte) (c gen : Nat) (random : List Byte) (switch : Nat) : List Byte :=
  let body := beBytes 1 c ++ beBytes 4 gen ++ random ++ beBytes 12 switch
  body ++ linkCode secret body

/-- An update of a Crew's keys leaves on an Oarlock (R542). -/
def State.sendCrewUpdate (s : State) (o : Fin 24) (c : Fin 4) : State :=
  let (r, s) := s.drawBytes 32
  let g := s.oarlocks[o].crewKeys[c].gen + 1
  let n := s.oarlocks[o].txNext
  (s.onOar o fun x => { x with crewKeys := updAt x.crewKeys c fun k => { k with proposed := some (g, r, s.clock.now) } }).sendTrain
    o (keyPayload 5 0 1 (crewBody s.oarlocks[o].secret c.val g r n))

/-- Frames that waited for keys on an Oarlock leave (R542). -/
def State.pumpOar (s : State) (o : Fin 24) : State :=
  match s.sweepOf o with
  | some w => s.pump w
  | none => s

/-- Crew `c` is keyed at generation `g` on an Oarlock (R542). -/
def State.keyCrew (s : State) (o : Fin 24) (c : Fin 4) (g : Nat) (random : List Byte) (send recv : Nat) : State :=
  s.onOar o fun x => { x with crewKeys := updAt x.crewKeys c fun _ =>
    { gen := g, random := random, sendSwitch := send, recvSwitch := recv } }

/-- CREW_UPDATE (R542): answered with CREW_ACK at the greater of the two generations, and the Crew is keyed. Where this end
has an update of its own under way, that of end A proceeds. -/
def execCrewUpdate (o : Fin 24) (f : RxFrame) (macOk : Bool) (s : State) : Host.Outcome State Fault Refusal :=
  .next (
    let s := s.arrive o f
    if s.oarlocks[o].state ≠ .admitted ∨ macOk = false then s
    else match f.keyBody 5 with
      | none => s
      | some body =>
        let c : Fin 4 := Fin.ofNat 4 (body.getD 0 0).toNat
        let k := s.oarlocks[o].crewKeys[c]
        if k.proposed.isSome ∧ s.endA o then s
        else
          let g := max (ofBeBytes ((body.drop 1).take 4)) (k.gen + 1)
          let (r, s) := s.drawBytes 32
          let n := s.oarlocks[o].txNext
          let theirs := (body.drop 5).take 32
          State.pumpOar ((s.keyCrew o c g (s.aFirst o r theirs) n (ofBeBytes ((body.drop 37).take 12))).sendTrain o
            (keyPayload 6 0 1 (crewBody s.oarlocks[o].secret c.val g r n))) o)

/-- CREW_ACK (R542): keys the Crew at the agreed generation; an UNKEYED Crew is keyed again. -/
def execCrewAck (o : Fin 24) (f : RxFrame) (macOk : Bool) (s : State) : Host.Outcome State Fault Refusal :=
  .next (
    let s := s.arrive o f
    if s.oarlocks[o].state ≠ .admitted ∨ macOk = false then s
    else match f.keyBody 6 with
      | none => s
      | some body =>
        let c : Fin 4 := Fin.ofNat 4 (body.getD 0 0).toNat
        match s.oarlocks[o].crewKeys[c].proposed with
        | none => s
        | some (_, r, _) =>
          let theirs := (body.drop 5).take 32
          (s.keyCrew o c (ofBeBytes ((body.drop 1).take 4)) (s.aFirst o r theirs)
            s.oarlocks[o].txNext (ofBeBytes ((body.drop 37).take 12))).pumpOar o)

/-- CREW_UPDATE_TIMEOUT (R543): no CREW_ACK within 1 ms marks the Crew UNKEYED, with EV-8022, and the update is repeated. -/
def execCrewUpdateTimeout (o : Fin 24) (c : Fin 4) (s : State) : Host.Outcome State Fault Refusal :=
  .next (match s.oarlocks[o].crewKeys[c].proposed with
    | some (_, _, t) =>
      let s := s.advanceTo (t + 1000000)
      let s := if s.oarlocks[o].crewKeys[c].unkeyed then s else s.raiseOar o 0x8022 [o.val, c.val]
      (s.onOar o fun x => { x with crewKeys := updAt x.crewKeys c fun k => { k with unkeyed := true } }).sendCrewUpdate o c
    | none => s)

end Sys2Proof.Machine
end

