-- ==== Sys2Proof/Machine/Relay.lean ====
section
/-! DEFINITION. Relay: the collectives, their segments and consensus words (R337 to R385). A stage acts on a segment as soon
as it is due; what is not due waits in the Crew's pool (R348). -/
namespace Sys2Proof.Machine

/-! ## The descriptor and its stages (R339, R341, R376) -/

/-- Reads Table 08-1; `none` where a reserved field, op or value is used. -/
def RelayDesc.parse (n : Nat) : Option RelayDesc :=
  let d : RelayDesc :=
    { op := bitsOf n 0 4, tag := bitsOf n 4 12, axes := bitsOf n 16 3, rdst := bitOf n 19, rblade := bitsOf n 20 2
      rslot := bitsOf n 22 6, aexp0 := s8 (bitsOf n 28 8), hs := bitsOf n 36 16, hd := bitsOf n 52 16, hw := bitsOf n 68 16
      hp := bitsOf n 84 16, split := bitOf n 100, b0 := bitsOf n 128 32, nb := bitsOf n 160 32 }
  if d.op = 0 ∨ 4 < d.op ∨ d.axes = 0 ∨ d.aexp0 = -128 ∨ bitsOf n 101 27 ≠ 0 ∨ bitsOf n 192 64 ≠ 0
      ∨ (d.rdst = false ∧ (d.rblade ≠ 0 ∨ d.rslot ≠ 0)) ∨ (d.rdst ∧ d.op ≠ 2)
      ∨ (d.aexp0 ≠ 0 ∧ d.op ≠ 1 ∧ d.op ≠ 3) ∨ (d.hp ≠ 0 ∧ d.op ≠ 4) then none
  else some d

/-- The axes of a mask. -/
def axesOf (m : Nat) : List Nat := (List.range 3).filter (bitOf m)

/-- Whether a descriptor reduces. -/
def RelayDesc.reduces (d : RelayDesc) : Bool := d.op == 1 || d.op == 3

/-- The order of stages (R339): extent, then inner stages, then the axis. -/
def RelayStage.before (a b : RelayStage) : Bool :=
  let k := fun (g : RelayStage) => g.n * 8 + (if g.kind = .inner then 0 else 4) + g.axis
  k a < k b

/-- Inserts a stage in order. -/
def insertStage (g : RelayStage) : List RelayStage → List RelayStage
  | [] => [g]
  | x :: xs => if g.before x then g :: x :: xs else x :: insertStage g xs

/-- The stages of a descriptor on this module, in stage order (R339, R376). -/
def State.stagesOf (s : State) (c : Nat) (d : RelayDesc) : List RelayStage :=
  ((axesOf d.axes).flatMap fun a =>
    let n : Nat := s.sliceExtent c a
    let p : Nat := (s.slicePos c a s.moduleId).toNat
    if d.split ∧ 4 < n then [⟨a, .inner, 4, p % 4⟩, ⟨a, .outer, n / 4, p / 4⟩] else [⟨a, .ring, n, p⟩]).foldl
      (fun l g => insertStage g l) []

/-- The size of the group (R338). -/
def groupSize (gs : List RelayStage) : Nat := (gs.map (·.n)).foldl (· * ·) 1

/-- The shard index (R339). -/
def shardOf (gs : List RelayStage) : Nat := gs.foldl (fun s g => s * g.n + g.p) 0

/-- The positions of a shard index, last stage first. -/
def shardDigits : List RelayStage → Nat → List (RelayStage × Nat)
  | [], _ => []
  | g :: gs, s => (g, s % g.n) :: shardDigits gs (s / g.n)

/-- The module of a shard index (R372). -/
def State.moduleOfShard (s : State) (c : Nat) (gs : List RelayStage) (k : Nat) : Nat :=
  (axesOf 7).foldl (fun id a =>
    let ds := (shardDigits gs.reverse k).filter (·.1.axis == a)
    if ds.isEmpty then id
    else withCoord id a (s.sliceOrigin c a + (ds.map fun x => match x.1.kind with
      | .outer => 4 * x.2
      | _ => x.2).sum)) s.moduleId

/-! ## Units (R342, R346) -/

/-- Units of a tensor. -/
def Tensor.units (t : Tensor) : Nat :=
  if t.fmt.isSB then
    (if t.shape = 0 then t.rows else if t.shape = 1 then ceilDiv t.rows 64 else ceilDiv t.rows 8) * t.gridCols
  else if t.fmt = .wl32 then t.rows * ceilDiv t.cols 64
  else ceilDiv (t.rows * t.cols) 64

/-- Units of a full segment. -/
def Format.segUnits : Format → Nat
  | .sb4 => 128 | .sb8 => 64 | .sb16 => 32 | _ => 16

/-- Element bytes and exponent bytes of a unit. -/
def Tensor.unitBytes (t : Tensor) : Nat := if t.fmt.isSB then t.blockBytes else 256
@[inherit_doc Tensor.unitBytes] def Tensor.unitExpBytes (t : Tensor) : Nat :=
  if t.fmt.isSB then 1 else if t.fmt = .wl32 then 2 else 0

/-- The addresses of a unit's elements and of its exponent. -/
def Tensor.unitAddr (t : Tensor) (u : Nat) : Nat × Nat :=
  if t.fmt.isSB then (t.eplane + u * t.blockBytes, t.xplane + u)
  else if t.fmt = .wl32 then
    let per := ceilDiv t.cols 64
    t.wlAddr (u / per) (64 * (u % per))
  else (t.eplane + 256 * u, 0)

/-- Bytes of a unit that belong to the tensor: the last unit of an MW32 or CW32 tensor may be short. -/
def Tensor.unitLen (t : Tensor) (u : Nat) : Nat :=
  if t.fmt.isSB || t.fmt == .wl32 then t.unitBytes else min 256 (4 * (t.rows * t.cols) - 256 * u)

/-- The bytes of a unit: elements, exponent. -/
def State.readUnit (s : State) (a : Acc) (t : Tensor) (u : Nat) : List Byte × List Byte :=
  let (ea, xa) := t.unitAddr u
  let es := s.load a ea (t.unitLen u)
  (es ++ List.replicate (t.unitBytes - es.length) 0, s.load a xa t.unitExpBytes)

/-- Lands a unit; in HBM its bytes are held until their 512-byte units are whole (R290). -/
def State.writeUnit (s : State) (a : Acc) (t : Tensor) (u : Nat) (es xs : List Byte) : State :=
  let (ea, xa) := t.unitAddr u
  ((s.store a ea (es.take (t.unitLen u))).store a xa xs).holdSpans a.crew
    [{ at_ := ea, len := min es.length (t.unitLen u), write := true }, { at_ := xa, len := xs.length, write := true }]

/-- Whether a range of units decodes. -/
def State.unitsReach (s : State) (a : Acc) (t : Tensor) (u0 n : Nat) (write : Bool) : Bool :=
  s.reaches a ((List.range n).flatMap fun i =>
    let (ea, xa) := t.unitAddr (u0 + i)
    [{ at_ := ea, len := t.unitLen (u0 + i), write := write }, { at_ := xa, len := t.unitExpBytes, write := write }])

/-- The payload of a segment (R346): the elements of its units, then their exponents. -/
def State.segmentOf (s : State) (a : Acc) (t : Tensor) (u0 n : Nat) : List Byte :=
  let us := (List.range n).map fun i => s.readUnit a t (u0 + i)
  us.flatMap (·.1) ++ us.flatMap (·.2)

/-- The units of a payload, in order. -/
def segmentUnits (t : Tensor) (n : Nat) (bs : List Byte) : List (List Byte × List Byte) :=
  (List.range n).map fun i =>
    ((bs.drop (i * t.unitBytes)).take t.unitBytes,
      (bs.drop (n * t.unitBytes + i * t.unitExpBytes)).take t.unitExpBytes)

/-- The CW32 elements of a payload, and the payload of CW32 elements. -/
def cwElems (bs : List Byte) : List Elem :=
  (List.range (bs.length / 4)).map fun i => elemOfCode 32 (ofLeBytes ((bs.drop (4 * i)).take 4))
@[inherit_doc cwElems] def cwBytes (es : List Elem) : List Byte := es.flatMap fun e => leBytes 4 (codeOfElem 32 e)

/-! ## The ring header and the consensus word (Tables 08-3 and 08-5) -/

/-- A ring header. -/
structure RingHeader where
  op : Nat
  tag : Nat
  attempt : Nat := 0
  axis : Nat
  minus : Bool
  step : Nat
  aexp : Int := 0
  spill : Bool := false
  mark : Bool := false
  stage : Nat
  hop : Nat
  seq : Nat
deriving DecidableEq, Repr

/-- A Bool as a number. -/
def bit (b : Bool) : Nat := if b then 1 else 0

/-- The bits of a ring header, and what they say. -/
def RingHeader.bits (r : RingHeader) : Nat :=
  1 * 2 ^ 124 + r.op * 2 ^ 120 + r.tag * 2 ^ 108 + r.attempt * 2 ^ 104 + r.axis * 2 ^ 102 + bit r.minus * 2 ^ 101
    + r.stage / 4 % 2 * 2 ^ 100 + r.step % 2 ^ 32 * 2 ^ 64 + ofSigned 8 r.aexp * 2 ^ 56 + bit r.spill * 2 ^ 55
    + bit r.mark * 2 ^ 54 + r.stage % 4 * 2 ^ 52 + r.hop % 64 * 2 ^ 46 + r.seq % 2 ^ 32
@[inherit_doc RingHeader.bits] def RingHeader.parse (n : Nat) : RingHeader :=
  { op := bitsOf n 120 4, tag := bitsOf n 108 12, attempt := bitsOf n 104 4, axis := bitsOf n 102 2, minus := bitOf n 101
    step := bitsOf n 64 32, aexp := s8 (bitsOf n 56 8), spill := bitOf n 55, mark := bitOf n 54
    stage := 4 * bitsOf n 100 1 + bitsOf n 52 2, hop := bitsOf n 46 6, seq := bitsOf n 0 32 }

/-- The bits of a consensus word, and what they say. -/
def ConsensusWord.bits (w : ConsensusWord) : Nat :=
  1 * 2 ^ 252 + w.tag * 2 ^ 240 + w.attempt * 2 ^ 236 + bit w.spill * 2 ^ 235 + bit w.bmark * 2 ^ 234 + bit w.fmv * 2 ^ 233
    + bit w.mark * 2 ^ 232 + ofSigned 8 w.aexp * 2 ^ 224 + ofSigned 8 w.naexp * 2 ^ 216 + ofSigned 16 w.top * 2 ^ 200
    + w.fmod % 2 ^ 24 * 2 ^ 168 + w.fts % 2 ^ 64 * 2 ^ 64 + w.step % 2 ^ 32 * 2 ^ 32
@[inherit_doc ConsensusWord.bits] def ConsensusWord.parse (n : Nat) : ConsensusWord :=
  { tag := bitsOf n 240 12, attempt := bitsOf n 236 4, spill := bitOf n 235, bmark := bitOf n 234, fmv := bitOf n 233
    mark := bitOf n 232, aexp := s8 (bitsOf n 224 8), naexp := s8 (bitsOf n 216 8), top := s16 (bitsOf n 200 16)
    fmod := bitsOf n 168 24, fts := bitsOf n 64 64, step := bitsOf n 32 32 }

/-- Two words combined (R361). Among equal timestamps the smaller module id stands. -/
def ConsensusWord.combine (w u : ConsensusWord) : ConsensusWord :=
  let takes := u.fmv && (!w.fmv || u.fts < w.fts || (u.fts == w.fts && u.fmod < w.fmod))
  { w with
    spill := w.spill || u.spill, bmark := w.bmark || u.bmark, mark := w.bmark || u.bmark, top := max w.top u.top
    fmv := w.fmv || u.fmv, fmod := if takes then u.fmod else w.fmod, fts := if takes then u.fts else w.fts }

/-- The carry-flag word that Relay keeps for the attempt (R354), as part of the member's own word. -/
def ConsensusWord.flags (w : ConsensusWord) : CarryFlags :=
  { aexp := w.aexp, spill := w.spill, mark := w.bmark, fmv := w.fmv, top := w.top, fmod := w.fmod, fts := w.fts }
@[inherit_doc ConsensusWord.flags] def ConsensusWord.withFlags (w : ConsensusWord) (f : CarryFlags) : ConsensusWord :=
  { w with spill := f.spill, bmark := f.mark, mark := f.mark, fmv := f.fmv, top := f.top, fmod := f.fmod, fts := f.fts }

/-! ## Collectives in the state -/

/-- The Crew of a collective. -/
def Collective.crew (k : Collective) : Fin 4 := crewOf k.item.heat

/-- Whether two records are of one collective. -/
def Collective.same (k j : Collective) : Bool := k.crew == j.crew && k.d.tag == j.d.tag

/-- The started collective of a Crew with a tag. -/
def State.collective? (s : State) (c : Fin 4) (tag : Nat) : Option Collective :=
  s.collectives.find? fun k => k.crew == c && k.d.tag == tag

/-- Replaces a collective. -/
def State.putCollective (s : State) (k : Collective) : State :=
  { s with collectives := s.collectives.map fun j => if j.same k then k else j }

/-- The present stage. -/
def Collective.stageNow (k : Collective) : RelayStage := k.stages.getD k.stage ⟨0, .ring, 2, 0⟩

/-- The access of a collective's Heat; Relay moves with Launch engines. -/
def State.accRelay (s : State) (k : Collective) : Acc := s.accLaunch k.item.heat

/-- What a collective holds for an operand that it does not use. -/
def noTensor : Tensor :=
  { eplane := 0, tid := 0, xplane := 0, expo := 0, fixed := false, shape := 0, fmt := .cw32, rows := 1, cols := 1, swaddr := 0, swen := false }

/-! ## Its Launch engines and Sculls (R345) -/

/-- The unit of a mask that takes part `i` of a collective's work: in turn, from the lowest number (DESIGN CHOICE); none of an empty mask. -/
def unitOf (mask i : Nat) : Option Nat :=
  let us := (List.range 16).filter (bitOf mask)
  us[i % us.length]?

/-- A convert or an add of `n` units from unit `u0` on: one Scull cycle per 512-lane vector, counted on a Scull of 0x61cc.0C. -/
def State.relayScull (s : State) (k : Collective) (u0 n : Nat) : State :=
  match unitOf (s.entry (0x6100 + k.crew.val) 0xC) (u0 / 16) with
  | some i =>
    let v := ceilDiv (64 * n) 512
    (s.bump (0x3140 + i) 2 v).bump (0x3140 + i) 3 v
  | none => s

/-- A move of a segment or unit by a Launch engine of 0x61cc.0B: the bytes that it reads and writes are counted. -/
def State.relayMove (s : State) (k : Collective) (i read written : Nat) : State :=
  match unitOf (s.entry (0x6100 + k.crew.val) 0xB) i with
  | some e => (s.bump (0x4500 + e) 2 read).bump (0x4500 + e) 3 written
  | none => s

/-- The frames of Relay leave by the axis Sweep of their direction (R340), segments within its window (R348, R375); those of an outer
stage travel 4 hops (R376). -/
def State.sendRing (s : State) (k : Collective) (g : RelayStage) (r : RingHeader) (payload : List Byte) : State :=
  let w := s.axisSweep g.axis r.minus
  let d : Int := if g.kind = .outer then 4 else 1
  let dest := if g.kind = .outer then s.moduleAlong k.crew.val g.axis (if r.minus then -d else d)
    else ((s.sweepPeer w).map (·.module)).getD 0
  let f : WaitFrame :=
    { ftype := 1, vc := if r.op = 4 then 1 else 0, crew := k.crew.val, hops := d.toNat, origin := s.moduleId, dest := dest
      ts := s.stamp, ext := r.bits, payload := payload }
  if r.op = 4 then s.sendFrame w f else s.sendSegment w f

/-- The header of a frame of the present stage. -/
def Collective.ring (k : Collective) (op : Nat) (minus : Bool) (hop seq : Nat) : RingHeader :=
  { op := op, tag := k.d.tag, attempt := if op = 1 ∨ op = 4 then k.attempt else 0, axis := k.stageNow.axis, minus := minus
    step := k.step, aexp := if op = 1 ∨ op = 4 then k.aexp else 0, stage := k.stage, hop := hop, seq := seq }

/-! ## Reduction (R355, R357, R377) -/

/-- Units of the range at stage `i` and where they begin in the work tensor (R357). -/
def Collective.rangeAt (k : Collective) (i : Nat) : Nat × Nat :=
  (k.stages.take i).foldl (fun (r : Nat × Nat) g => (r.1 / g.n, r.2 + if r.1 = k.d.nb then 0 else g.p * (r.1 / g.n)))
    (k.d.nb, 0)

/-- Units of a chunk, and of what one direction carries of it: half of it in a ring, all of it in an inner stage. -/
def Collective.chunkUnits (k : Collective) : Nat := (k.rangeAt k.stage).1 / k.stageNow.n
@[inherit_doc Collective.chunkUnits] def Collective.partUnits (k : Collective) : Nat :=
  if k.stageNow.kind = .inner then k.chunkUnits else k.chunkUnits / 2

/-- First unit, within the range, and number of units of a segment of chunk `c`. -/
def Collective.segRange (k : Collective) (c : Nat) (minus : Bool) (seq : Nat) : Nat × Nat :=
  let part := k.partUnits
  (c * k.chunkUnits + (if minus && k.stageNow.kind != .inner then part else 0) + 16 * seq, min 16 (part - 16 * seq))

/-- Segments of a part. -/
def Collective.segsOf (k : Collective) : Nat := ceilDiv k.partUnits 16

/-- Element `i` of unit `u` of a reduction's source with its row exponent and its coordinates; an SB16 block enters as
SC_EXPAND with sel 0 expands it (R342). Lanes beyond the tensor's columns are 0. -/
def State.sourceElem (s : State) (a : Acc) (t : Tensor) (ceil : Int) (u i : Nat) : Elem × Int × Nat × Nat :=
  if t.fmt = .wl32 then
    let r := u / ceilDiv t.cols 64
    let c := u % ceilDiv t.cols 64 * 64 + i
    if c < t.cols then
      let x := s.wlElem a t r c
      (x.1, x.2, r, c)
    else (some 0, 0, r, c)
  else
    let (r, c) := t.elemCoord (u / t.gridCols) (u % t.gridCols) i
    (expandAt ceil (s.entered a t ceil 0 r c), ceil - 7, r, c)

/-- What the conversion of elements leaves (R355): the carry words, the flags, the saturations, the coordinates of the first
mark. -/
structure Converted where
  elems : List Elem := []
  flags : CarryFlags
  sats : Nat := 0
  mark : Option (Nat × Nat) := none
deriving DecidableEq, Repr

/-- Converts the units of the source from `u0` on; `now` of an element is that of the Scull cycle of its vector (R345, R355). -/
def State.convertUnits (s : State) (k : Collective) (u0 n : Nat) : Converted :=
  let a := s.accRelay k
  let t := k.src
  let ceil := if t.fmt.isSB then s.ceilingOf a t else 0
  (List.range (64 * n)).foldl (fun c x =>
    let (e, ex, r, j) := s.sourceElem a t ceil (k.d.b0 + u0 + x / 64) (x % 64)
    let (y, f, m) := c.flags.convert e ex (keel k.seed 5 t.tid r j 0) s.moduleId (s.stampAt (s.clock.now + x / 512 * 20 / 33))
    { elems := c.elems ++ [y], flags := f, sats := c.sats + m
      mark := if e.isNone && c.mark.isNone then some (r, j) else c.mark })
    { flags := { aexp := k.aexp } }

/-- An SB16 block of the source that enters is trimmed and counted as SC_EXPAND's is (R342, R77). -/
def State.countSource (s : State) (k : Collective) (u0 n : Nat) : State :=
  let t := k.src
  if t.fmt.isSB then
    let a := s.accRelay k
    let es := (List.range n).map fun i =>
      let u := k.d.b0 + u0 + i
      enterBlock (s.readBlock a t (u / t.gridCols) (u % t.gridCols)) (s.ceilingOf a t)
    let above := es.countP (·.above)
    State.raiseTimes above ((s.bump 0x3028 5 (es.countP (·.trimmed))).bump 0x3028 6 above)
      fun s => s.raiseHeat k.item.heat 0x3021 [t.tid]
  else s

/-- Whether intermediate results go to the work tensor: the mask has two or three axes (Table 08-2). -/
def RelayDesc.usesWork (d : RelayDesc) : Bool := 1 < (axesOf d.axes).length

/-- The local contribution to a segment (R357): conversions of the source at stage 0, else what the stage before left. A
mark of the member's own raises EV-6002 once per attempt (R370). The flags are those of this segment's conversions. -/
def State.localSeg (s : State) (k : Collective) (u0 n : Nat) : State × Collective × List Elem × Bool × Bool :=
  if k.stage = 0 then
    let c := s.convertUnits k u0 n
    let s := ((s.countSource k u0 n).relayScull k u0 n).bump 0x3028 8 c.sats
    let s := match c.mark with
      | some (r, j) => if k.marked then s else s.raiseHeat k.item.heat 0x6002 [k.d.tag, r, j, s.moduleId, c.flags.fts]
      | none => s
    let k := { k with marked := k.marked || c.mark.isSome, word := k.word.withFlags (k.word.flags.merge c.flags) }
    (s, k, c.elems, c.flags.spill, c.flags.mark)
  else
    let base := (k.rangeAt k.stage).2
    let es := if k.d.usesWork then
        let t := k.work
        cwElems ((List.range n).flatMap fun i => (s.readUnit (s.accRelay k) t (base + u0 + i)).1)
      else ((k.inter.drop (64 * (base + u0))).take (64 * n)).map id
    (s, k, es, false, es.any (·.isNone))

/-- The sum of two contributions (R357): its elements and whether an add clamped. -/
def caddSeg (u v : List Elem) : List Elem × Nat :=
  let ys := List.zipWith caddElem u v
  (ys.map (·.1), ys.countP (·.2))

/-- Two contributions to the units from `u0` on are added (R357): the collective's word takes the spill; whether an add clamped. -/
def State.addSeg (s : State) (k : Collective) (u0 : Nat) (u v : List Elem) : State × Collective × List Elem × Bool :=
  let (out, cl) := caddSeg u v
  ((s.relayScull k u0 (out.length / 64)).bump 0x3028 8 cl,
    { k with word := { k.word with spill := k.word.spill || cl != 0 } }, out, cl != 0)

/-- A result of the stage is written (R357): to the destination when no stage follows, else to the work tensor. -/
def State.putResult (s : State) (k : Collective) (u0 : Nat) (es : List Elem) : State × Collective :=
  let off := u0 - k.stageNow.p * k.chunkUnits
  let n := es.length / 64
  let unit := fun i => cwBytes ((es.drop (64 * i)).take 64)
  if k.stage + 1 = k.stages.length then
    let t := k.dst
    let base := if k.d.op = 3 then k.shard * (k.d.nb / k.size) else 0
    ((List.range n).foldl (fun s i => s.writeUnit (s.accRelay k) t (base + off + i) (unit i) []) s, k)
  else
    let base := (k.rangeAt (k.stage + 1)).2
    if k.d.usesWork then
      let t := k.work
      ((List.range n).foldl (fun s i => s.writeUnit (s.accRelay k) t (base + off + i) (unit i) []) s, k)
    else
      let old := k.inter ++ List.replicate (64 * (base + off + n) - k.inter.length) (some 0)
      (s, { k with inter := old.take (64 * (base + off)) ++ es ++ old.drop (64 * (base + off + n)) })

/-- A segment of chunk `c` that this member starts is sent. -/
def State.startSeg (s : State) (k : Collective) (c : Nat) (minus : Bool) (hop seq : Nat) : State × Collective :=
  let (u0, n) := k.segRange c minus seq
  let (s, k, es, sp, mkd) := s.localSeg k u0 n
  (s.sendRing k k.stageNow { k.ring 1 minus hop seq with spill := sp, mark := mkd } (cwBytes es), k)

/-- The chunks that a member starts at the beginning of a reduction stage: with direction and hop field. -/
def RelayStage.starts (g : RelayStage) : List (Nat × Bool × Nat) :=
  match g.kind with
  | .inner =>
    if g.p = 0 then [(1, false, 2), (2, false, 3), (3, false, 4)]
    else if g.p = 3 then [(2, true, 3), (1, true, 2), (0, true, 1)] else []
  | _ => [((g.p + g.n - 1) % g.n, false, 1), ((g.p + 1) % g.n, true, 1)]

/-- A reduction stage begins: the member sends what it starts. -/
def State.beginReduce (s : State) (k : Collective) : State × Collective :=
  k.stageNow.starts.foldl (fun (st : State × Collective) x =>
    (List.range k.segsOf).foldl (fun (st : State × Collective) q => st.1.startSeg st.2 x.1 x.2.1 x.2.2 q) st)
    (s, { k with phase := .reduce, got := [], left := [] })

/-- Segments or words of the present stage that have been acted on in a direction. -/
def Collective.gotIn (k : Collective) (minus : Bool) : Nat := k.got.countP (·.1 == minus)

/-- The chunk of a ring segment that arrives at hop `h` (R357). -/
def RelayStage.chunkAt (g : RelayStage) (minus : Bool) (h : Nat) : Nat :=
  if minus then (g.p + h + 1) % g.n else (g.p + 2 * g.n - h - 1) % g.n

/-- A reduce segment that is due: the local contribution is added; the sum goes on, or is the result (R357, R377). -/
def State.reduceSeg (s : State) (k : Collective) (r : RingHeader) (payload : List Byte) : State × Collective :=
  let g := k.stageNow
  let k := { k with
    got := (r.minus, r.hop, r.seq) :: k.got
    word := { k.word with spill := k.word.spill || r.spill, bmark := k.word.bmark || r.mark, mark := k.word.bmark || r.mark } }
  let inn := cwElems payload
  let c := if g.kind = .inner then r.hop - 1 else g.chunkAt r.minus r.hop
  let (u0, n) := k.segRange c r.minus r.seq
  if c ≠ g.p then
    let (s, k, es, sp, mkd) := s.localSeg k u0 n
    let (s, k, out, cl) := s.addSeg k u0 inn es
    (s.sendRing k g { k.ring 1 r.minus (if g.kind = .inner then r.hop else r.hop + 1) r.seq with
        spill := r.spill || sp || cl, mark := r.mark || mkd } (cwBytes out), k)
  else if g.kind = .inner ∧ r.minus ∧ 0 < g.p then
    -- inR is added last (R377)
    match k.left.find? (·.1 == 2 * r.seq) with
    | some w =>
      let (s, k, out, _) := s.addSeg k u0 inn w.2
      s.putResult k u0 out
    | none => (s, { k with left := (2 * r.seq + 1, inn) :: k.left })
  else
    let (s, k, es, _, _) := s.localSeg k u0 n
    let (s, k, out, _) := s.addSeg k u0 inn es
    if g.kind = .inner ∧ r.minus = false ∧ g.p < 3 then
      match k.left.find? (·.1 == 2 * r.seq + 1) with
      | some w =>
        let (s, k, out, _) := s.addSeg k u0 w.2 out
        s.putResult k u0 out
      | none => (s, { k with left := (2 * r.seq, out) :: k.left })
    else s.putResult k u0 out

/-! ## Laps (R361) -/

/-- A lap begins: the member sends its own word, in the + direction of a ring, to both ends of an inner line. -/
def State.beginLap (s : State) (k : Collective) : State × Collective :=
  let g := k.stageNow
  let w := { k.word with tag := k.d.tag, attempt := k.attempt, aexp := k.aexp, naexp := 0, step := k.step, mark := k.word.bmark }
  let k := { k with phase := .lap, got := [], word := w, lapWord := w }
  let send := fun (s : State) minus hop => s.sendRing k g (k.ring 4 minus hop 0) (beBytes 32 w.bits)
  (match g.kind with
    | .inner =>
      let s := if g.p < 3 then send s false (g.p + 1) else s
      if 0 < g.p then send s true (g.p + 1) else s
    | _ => send s false 1, k)

/-- A word of the lap under way: it goes on until it has made n − 1 hops, and is combined (R361). -/
def State.lapSeg (s : State) (k : Collective) (r : RingHeader) (payload : List Byte) : State × Collective :=
  let g := k.stageNow
  let on := match g.kind with
    | .inner => if r.minus then decide (0 < g.p) else decide (g.p < 3)
    | _ => decide (r.hop + 1 < g.n)
  let s := if on then s.sendRing k g (k.ring 4 r.minus (if g.kind = .inner then r.hop else r.hop + 1) 0) payload else s
  (s, { k with
    got := (r.minus, r.hop, r.seq) :: k.got
    lapWord := k.lapWord.combine (ConsensusWord.parse (ofBeBytes payload)) })

/-! ## Gathers (R349 to R351, R371, R377) -/

/-- Shards that a member holds before the present stage of a gather. -/
def Collective.heldShards (k : Collective) : Nat := groupSize (k.stages.drop (k.stage + 1))

/-- Units of the range before the stage; its first unit for the member at position `q`. -/
def Collective.gatherUnits (k : Collective) : Nat := k.heldShards * (k.d.nb / k.size)
@[inherit_doc Collective.gatherUnits] def Collective.gatherBase (k : Collective) (q : Nat) : Nat :=
  let m := k.heldShards
  (k.shard / (m * k.stageNow.n) * (m * k.stageNow.n) + q * m) * (k.d.nb / k.size)

/-- What one direction carries: half of the range in a ring, all of it on an inner line. -/
def Collective.gatherPart (k : Collective) : Nat :=
  if k.stageNow.kind = .inner then k.gatherUnits else k.gatherUnits / 2

/-- First unit and number of units of a segment of the range of position `q`. -/
def Collective.gatherSeg (k : Collective) (per q : Nat) (minus : Bool) (seq : Nat) : Nat × Nat :=
  (k.gatherBase q + (if minus && k.stageNow.kind != .inner then k.gatherPart else 0) + per * seq,
    min per (k.gatherPart - per * seq))

/-- The tensor that a gather lands in, and its unit for unit `u` of the range: ALL_REDUCE from unit 0, ALL_GATHER from b0. -/
def Collective.gatherDest (k : Collective) : Tensor × Nat :=
  (k.dst, if k.d.op = 3 then 0 else k.d.b0)

/-- A unit lands in the destination, or in the receive slot that rdst names (R184, R351). A slot's bytes stand in the slot's record and
at no place of the Catch buffer that a move could name (DESIGN CHOICE, log 72). -/
def State.landUnit (s : State) (k : Collective) (u : Nat) (es xs : List Byte) : State :=
  if k.d.rdst then
    let n : Fin 4 := Fin.ofNat 4 k.d.rblade
    let r : Fin 64 := Fin.ofNat 64 k.d.rslot
    (s.onBlade n fun b => { b with recv := updAt b.recv r fun x => { x with landed := x.landed ++ [(u, es, xs.headD 0)] } }).countLanded
      n r
  else
    let (t, base) := k.gatherDest
    s.writeUnit (s.accRelay k) t (base + u) es xs

/-- The unit of the gathered range as this member holds it: what has landed, or the member's own shard at the source. -/
def State.heldUnit (s : State) (k : Collective) (u : Nat) : List Byte × List Byte :=
  let per := k.d.nb / k.size
  let a := s.accRelay k
  if k.d.op = 2 ∧ k.shard * per ≤ u ∧ u < (k.shard + 1) * per then
    s.readUnit a (k.src) (u - k.shard * per)
  else if k.d.rdst then
    match (s.blades[Fin.ofNat 4 k.d.rblade].recv[Fin.ofNat 64 k.d.rslot]).landed.find? (·.1 == u) with
    | some x => (x.2.1, [x.2.2])
    | none => ([], [])
  else
    let (t, base) := k.gatherDest
    s.readUnit a t (base + u)

/-- A gather stage begins: the member sends the range that it holds, halves in a ring, whole on an inner line. -/
def State.beginGather (s : State) (k : Collective) : State × Collective :=
  let g := k.stageNow
  let k := { k with phase := .gather, got := [] }
  let per := k.dst.fmt.segUnits
  let dirs := match g.kind with
    | .inner => (if g.p < 3 then [(false, g.p + 1)] else []) ++ if 0 < g.p then [(true, g.p + 1)] else []
    | _ => [(false, 1), (true, 1)]
  (dirs.foldl (fun s d => (List.range (ceilDiv k.gatherPart per)).foldl (fun s q =>
    let (u0, n) := k.gatherSeg per g.p d.1 q
    let us := (List.range n).map fun i => s.heldUnit k (u0 + i)
    let payload := us.flatMap (·.1) ++ us.flatMap (·.2)
    (s.relayMove k q payload.length 0).sendRing k g (k.ring 2 d.1 d.2 q) payload) s) s, k)

/-- A gather segment that is due lands, and goes on unless the next member is its origin (R350, R377). -/
def State.gatherRecv (s : State) (k : Collective) (r : RingHeader) (payload : List Byte) (w : Nat) : State × Collective :=
  let g := k.stageNow
  let t := k.dst
  let q := match g.kind with
    | .inner => r.hop - 1
    | _ => if r.minus then (g.p + r.hop) % g.n else (g.p + 2 * g.n - r.hop) % g.n
  let (u0, n) := k.gatherSeg t.fmt.segUnits q r.minus r.seq
  let s := (segmentUnits t n payload).zipIdx.foldl (fun s x => s.landUnit k (u0 + x.2) x.1.1 x.1.2)
    (s.relayMove k r.seq 0 payload.length)
  let s := if k.d.rdst then
      s.onBlade (Fin.ofNat 4 k.d.rblade) fun b => { b with
        recv := updAt b.recv (Fin.ofNat 64 k.d.rslot) fun x => { x with credits := x.credits ++ [w] } }
    else s.freeCredit (Fin.ofNat 12 w) k.crew.val 0
  let on := match g.kind with
    | .inner => if r.minus then decide (0 < g.p) else decide (g.p < 3)
    | _ => decide (r.hop + 1 < g.n)
  let s := if on then s.sendRing k g (k.ring 2 r.minus (if g.kind = .inner then r.hop else r.hop + 1) r.seq) payload else s
  (s, { k with got := (r.minus, r.hop, r.seq) :: k.got })

/-! ## Permutes (R372 to R374) -/

/-- The members that receive this member's shard. -/
def Collective.permTo (k : Collective) : List Nat :=
  (List.range k.size).filter fun j => k.perm.getD j j == k.shard && j != k.shard

/-- The outgoing segments are read and sent, axis by axis the shorter way (R373). -/
def State.beginPermute (s : State) (k : Collective) : State × Collective :=
  let t := k.src
  let per := t.fmt.segUnits
  let units := k.d.nb / k.size
  let k := { k with phase := .permute, got := [] }
  (k.permTo.foldl (fun s j =>
    let dest := s.moduleOfShard k.crew.val k.stages j
    match s.route k.crew.val dest with
    | (some (a, minus), hops) =>
      (List.range (ceilDiv units per)).foldl (fun s q =>
        let r : RingHeader := { op := 3, tag := k.d.tag, axis := 3, minus := minus, step := k.step, stage := 0, hop := 1, seq := q }
        let payload := s.segmentOf (s.accRelay k) t (per * q) (min per (units - per * q))
        (s.relayMove k q payload.length 0).sendSegment (s.axisSweep a minus)
          { ftype := 1, vc := 0, crew := k.crew.val, hops := hops, origin := s.moduleId, dest := dest, ts := s.stamp
            ext := r.bits, payload := payload }) s
    | (none, _) => s) s, k)

/-- A permute segment lands; this member has read its own outgoing segments (R374). -/
def State.permuteRecv (s : State) (k : Collective) (r : RingHeader) (payload : List Byte) : State × Collective :=
  let t := k.src
  let per := t.fmt.segUnits
  let n := min per (k.d.nb / k.size - per * r.seq)
  ((segmentUnits t n payload).zipIdx.foldl (fun s x =>
      s.writeUnit (s.accRelay k) t (per * r.seq + x.2) x.1.1 x.1.2) (s.relayMove k r.seq 0 payload.length),
    { k with got := (r.minus, r.hop, r.seq) :: k.got })

/-! ## Progress -/

/-- Segments that one half, chunk or shard of the present phase makes. -/
def Collective.segCount (k : Collective) : Nat :=
  match k.phase with
  | .reduce => k.segsOf
  | .lap => 1
  | .gather => ceilDiv k.gatherPart k.dst.fmt.segUnits
  | .permute => ceilDiv (k.d.nb / k.size) k.src.fmt.segUnits
  | _ => 0

/-- Whether the work of the present stage or lap is done. -/
def Collective.stageDone (k : Collective) : Bool :=
  let g := k.stageNow
  let q := k.segCount
  match k.phase with
  | .reduce =>
    match g.kind with
    | .inner => k.gotIn false == (if 0 < g.p then (4 - g.p) * q else 0) && k.gotIn true == (if g.p < 3 then (g.p + 1) * q else 0)
    | _ => k.got.length == 2 * (g.n - 1) * q
  | .lap => k.got.length == g.n - 1
  | .gather =>
    match g.kind with
    | .inner => k.got.length == 3 * q
    | _ => k.got.length == 2 * (g.n - 1) * q
  | .permute => k.perm.getD k.shard k.shard == k.shard || k.got.length == q
  | _ => false

/-- The collective goes on to its next stage or lap once the present one is done (R350, R357, R361). -/
def State.advance (s : State) (k : Collective) : State × Collective :=
  if k.stageDone then
    match k.phase with
    | .reduce =>
      if k.stage + 1 < k.stages.length then s.beginReduce { k with stage := k.stage + 1 } else s.beginLap { k with stage := 0 }
    | .lap =>
      let k := { k with word := k.lapWord }
      if k.stage + 1 < k.stages.length then s.beginLap { k with stage := k.stage + 1 } else (s, { k with phase := .decide })
    | .gather =>
      if 0 < k.stage then s.beginGather { k with stage := k.stage - 1 } else (s, { k with phase := .finished })
    | .permute => (s, { k with phase := .finished })
    | _ => (s, k)
  else (s, k)

/-- Whether the hop field and the direction are ones that the present stage brings to this member, and, in a ring, not of a later hop
(R348, R357, R361, R377). On an inner line the field is a chunk's or a member's number plus 1. -/
def Collective.hopDue (k : Collective) (r : RingHeader) : Bool :=
  let g := k.stageNow
  match k.phase, g.kind with
  | .permute, _ => true
  | .reduce, .inner => if r.minus then decide (1 ≤ r.hop ∧ r.hop ≤ g.p + 1 ∧ g.p < 3) else decide (g.p < r.hop ∧ r.hop ≤ 4 ∧ 0 < g.p)
  | _, .inner => if r.minus then decide (g.p + 1 < r.hop ∧ r.hop ≤ 4) else decide (1 ≤ r.hop ∧ r.hop ≤ g.p)
  | .lap, _ => !r.minus && decide (1 ≤ r.hop ∧ r.hop < g.n)
  | _, _ => decide (1 ≤ r.hop ∧ r.hop < g.n ∧ r.hop ≤ 1 + (if k.segCount = 0 then 0 else k.gotIn r.minus / k.segCount))

/-- Whether a segment is due (R348): the collective is at its op, step, attempt, stage, axis and hop, its number is one of the half's,
and no segment of that number has come before. -/
def Collective.due (k : Collective) (r : RingHeader) : Bool :=
  let g := k.stageNow
  r.step == k.step % 2 ^ 32 && decide (r.seq < k.segCount) && !k.got.contains (r.minus, r.hop, r.seq) && k.hopDue r
    && (match k.phase with
      | .reduce => r.op == 1 && r.attempt == k.attempt && r.stage == k.stage && r.axis == g.axis
      | .lap => r.op == 4 && r.attempt == k.attempt && r.stage == k.stage && r.axis == g.axis
      | .gather => r.op == 2 && r.stage == k.stage && r.axis == g.axis
      | .permute => r.op == 3 && r.axis == 3
      | _ => false)

/-- Acts on a due segment and lets the collective go on. -/
def State.actOn (s : State) (k : Collective) (x : HeldSegment) : State :=
  let r := RingHeader.parse x.hdr
  let free := fun (s : State) vc => s.freeCredit (Fin.ofNat 12 x.sweep) k.crew.val vc
  let (s, k) := match r.op with
    | 1 => (free s 0).reduceSeg k r x.payload
    | 2 => s.gatherRecv k r x.payload x.sweep
    | 3 => (free s 0).permuteRecv k r x.payload
    | _ => (free s 1).lapSeg k r x.payload
  let (s, k) := s.advance k
  s.putCollective k

/-- The first held segment of a Crew that is due. -/
def State.dueHeld (s : State) (c : Fin 4) : Option (HeldSegment × Collective) :=
  s.pools[c].findSome? fun x =>
    match s.collective? c (RingHeader.parse x.hdr).tag with
    | some k => if k.due (RingHeader.parse x.hdr) then some (x, k) else none
    | none => none

/-- Held segments are acted on while one is due. The fuel is the number held. -/
def State.drainN (c : Fin 4) : Nat → State → State
  | 0, s => s
  | n + 1, s =>
    match s.dueHeld c with
    | none => s
    | some (x, k) => State.drainN c n (({ s with pools := updAt s.pools c (·.erase x) }).actOn k x)

@[inherit_doc State.drainN] def State.drain (s : State) (c : Fin 4) : State :=
  (State.drainN c s.pools[c].length s).settlePeerWait c

/-- A segment or word for this module (R348): dropped with EV-6020 when its step is past or its tag not the Crew's; held
while it is not due; else acted on. -/
def State.takeSegment (s : State) (c : Fin 4) (x : HeldSegment) : State :=
  let r := RingHeader.parse x.hdr
  let first := s.entry (0x6100 + c.val) 7
  let n := s.entry (0x6100 + c.val) 8
  let vc := if r.op = 4 then 1 else 0
  let s := s.bump (0x6200 + c.val) 6 (if r.op = 4 then 0 else 1)
  if r.step < s.entry 0x3020 5 % 2 ^ 32 ∨ r.tag < first ∨ first + n ≤ r.tag then
    ((s.freeCredit (Fin.ofNat 12 x.sweep) c.val vc).bump (0x6200 + c.val) 8 1).raise 0x6020 [r.tag, x.sweep, x.hdr]
  else
    match (s.collective? c r.tag).filter (fun k => k.due r) with
    | some k => (s.actOn k x).drain c
    | none =>
      let s := ({ s with pools := updAt s.pools c (· ++ [x]) }).bump (0x6200 + c.val) 7 1
      let bytes : Nat := 4416 * s.pools[c].length
      if decide (s.entry (0x6200 + c.val) 0xB < bytes) then s.setEntry (0x6200 + c.val) 0xB bytes else s

/-- A DATA frame for this module, by the op of its ring header. -/
def State.dataFrame (s : State) (w : Fin 12) (f : RxFrame) : State :=
  s.takeSegment (Fin.ofNat 4 f.crew) { hdr := f.ext.toNat, payload := f.payload, sweep := w.val, origin := f.origin }

/-- Receives a DATA frame whose ring header has op `op`. -/
def State.receiveData (s : State) (o : Fin 24) (f : RxFrame) (op : Nat) : State :=
  if f.ftype = 1 ∧ bitsOf f.ext.toNat 120 4 = op then
    match s.receive o f with
    | (s, some w) => s.dataFrame w f
    | (s, none) => s
  else s.otherFrame o f

/-- REDUCE_SEGMENT (R357). -/
def execReduceSegment (o : Fin 24) (f : RxFrame) (s : State) : Host.Outcome State Fault Refusal := .next (s.receiveData o f 1)

/-- GATHER_SEGMENT (R350). -/
def execGatherSegment (o : Fin 24) (f : RxFrame) (s : State) : Host.Outcome State Fault Refusal := .next (s.receiveData o f 2)

/-- PERMUTE_SEGMENT (R374). -/
def execPermuteSegment (o : Fin 24) (f : RxFrame) (s : State) : Host.Outcome State Fault Refusal := .next (s.receiveData o f 3)

/-- CONSENSUS_WORD (R361). -/
def execConsensusWord (o : Fin 24) (f : RxFrame) (s : State) : Host.Outcome State Fault Refusal := .next (s.receiveData o f 4)

/-! ## The end of an attempt and of a collective (R344, R363 to R371) -/

/-- The next agreed exponent enters the word and the tag's entry as the reduction completes (R363). -/
def State.agree (s : State) (k : Collective) : State × Collective :=
  let ne := nextAgreed k.word.top k.first k.size (s.entry 0x6000 1)
  let v := ofSigned 8 ne + 2 ^ 8 + 2 ^ 9 + k.item.heat.val * 2 ^ 10
  ({ s with tags := sparseSet 0 s.tags k.d.tag v }, { k with word := { k.word with naexp := ne } })

/-- A reduction whose word is final: the result stands, or the gather of ALL_REDUCE begins (R371). -/
def State.settleReduction (s : State) (k : Collective) : State :=
  if k.d.op = 3 then
    let (s, k) := s.beginGather { k with stage := k.stages.length - 1 }
    (s.putCollective k).drain k.crew
  else (s.putCollective { k with phase := .finished }).settlePeerWait k.crew

/-- CONSENSUS_LAP_END (R364 to R366): the bucket completes when it is clean or marked; it repeats at an exponent raised by
4; at the repeat limit, or at exponent 127, it completes marked. -/
def execConsensusLapEnd (c : Fin 4) (tag : BitVec 12) (s : State) : Host.Outcome State Fault Refusal :=
  .next (match s.collective? c tag.toNat with
    | none => s
    | some k =>
      if k.phase ≠ .decide then s
      else if k.word.spill = false ∨ k.word.bmark then s.settleReduction k
      else if k.attempt = s.entry 0x6000 2 ∨ k.aexp = 127 then
        let k := { k with word := { k.word with bmark := true, mark := true, fmv := false } }
        ((s.raiseHeat k.item.heat 0x6003 [k.d.tag, k.aexp]).bump (0x6200 + c.val) 4 1).settleReduction k
      else
        let e := min (k.aexp + 4) 127
        let s := (s.bump (0x6200 + c.val) 2 1).raiseHeat k.item.heat 0x6001 [k.d.tag, k.attempt + 1, e]
        let (s, k) := s.beginReduce { k with
          attempt := k.attempt + 1, aexp := e, stage := 0, marked := false, inter := []
          word := { tag := k.d.tag, attempt := k.attempt + 1, aexp := e, step := k.step } }
        (s.putCollective k).drain c)

/-- The destination status word of a reduction (R367). -/
def State.relayStatus (s : State) (k : Collective) : State :=
  let a := s.accRelay k
  let t := k.dst
  let per := k.d.nb / k.size
  let base := if k.d.op = 3 then k.shard * per else 0
  let marks := ((List.range per).map fun i => (cwElems ((s.readUnit a t (base + i)).1)).countP (·.isNone)).sum
  s.putStatus a t { StatusWord.opened t.expo with top := k.word.top, wceil := k.aexp, marks := marks, blocks := per, done := true }

/-- COLLECTIVE_COMPLETE (R344, R363, R367 to R370): the status word, the step mark and the recorded word of a reduction;
the tag closes, csem is posted. -/
def execCollectiveComplete (c : Fin 4) (tag : BitVec 12) (s : State) : Host.Outcome State Fault Refusal :=
  .next (match s.collective? c tag.toNat with
    | none => s
    | some k =>
      if k.phase ≠ .finished then s
      else
        let h := k.item.heat
        let s := if k.d.reduces then
            let (s, k) := (s.relayStatus k).agree k
            let mark := s.heats[h].stepMark || k.word.bmark
            let word := { k.word with mark := mark }
            let s := s.onHeat h fun x => { x with stepMark := mark, skip := mark, consensus := beBytes 32 word.bits }
            if k.word.bmark then
              (s.raiseHeat h 0x6004 [k.d.tag, k.word.fmod, k.word.fts, bit k.word.fmv]).bump (0x6200 + c.val) 3 1
            else s
          else s
        let s := (s.bump (0x6200 + c.val) 1 1).closeTag k.d.tag
        let s := State.settlePeerWait { s with
          collectives := s.collectives.filter fun j => !j.same k
          relayQueues := updAt s.relayQueues h fun q => { q with started := q.started.erase k.item } } c
        (s.postItem k.item).wakeFences h)

/-! ## The checks and the start (R337 to R343, R385) -/

/-- The coordinates that the neighbour of a stage must have, and those that it shows (R340). A Crew without keys on the
Sweep fails the check too (R543). -/
def State.neighbourBad (s : State) (c : Fin 4) (a : Nat) (minus : Bool) : Bool :=
  let w := s.axisSweep a minus
  let want := s.moduleAlong c.val a (if minus then -1 else 1)
  !(s.sweeps[Fin.ofNat 12 w].state == 2 && w < 12 && (s.sweepPeer w).any fun p => sameModule p.module want)
    || (s.sweepOars w).any fun o => s.oarlocks[o].crewKeys[c].unkeyed

/-- The second condition of R376: Boats change between positions 4j + 3 and 4j + 4 and nowhere else. -/
def State.splitBad (s : State) (c a : Nat) : Bool :=
  let n := s.sliceExtent c a
  let p := (s.slicePos c a s.moduleId).toNat
  let same := fun minus => (s.sweepPeer (s.axisSweep a minus)).any fun q => boatOf q.module == boatOf s.moduleId
  n % 4 != 0 || same false != (p % 4 != 3) || same true != (p % 4 != 0)

/-- Whether a range of units of a tensor lies in Tank scratch of the Crew (Table 08-2). -/
def State.unitsInScratch (s : State) (crew : Nat) (t : Tensor) (u0 n : Nat) : Bool :=
  let a := t.unitAddr u0
  let z := t.unitAddr (u0 + n - 1)
  n == 0 || (s.inScratch crew a.1 (z.1 + t.unitBytes - a.1) && s.inScratch crew a.2 (z.2 + t.unitExpBytes - a.2))

/-- The permutation table: `none` where it breaks R372. -/
def State.permTable (s : State) (h : Fin 64) (d n : Nat) : Option (List Nat) :=
  if s.kindOf h d = 5 then
    match parseTable (s.descOf h d) with
    | some (addr, len) =>
      let es := (List.range n).map fun i => s.loadNat (s.accOf h) (addr + 2 * i) 2
      if len = 2 * n ∧ s.decodes (s.accOf h) addr len ∧ (List.range n).all (fun i => es.contains i) then some es else none
    | none => none
  else none

/-- Every condition of Table 08-9, and the faults of its handles. A handle of the wrong kind is RELAY_DESC, and so is a receive slot of
a Blade that the Crew does not own (R34). -/
def State.relayFaults (s : State) (h : Fin 64) (d : RelayDesc) : List (Plan × Bool) :=
  let c := crewOf h
  let gs := s.stagesOf c.val d
  let n := groupSize gs
  let per := d.nb / max 1 n
  let tens := fun d => (s.innerFaults h d 1 fun x => (Tensor.parse x).isSome).map fun x =>
    if x.1 = .descKind then (Plan.relayDesc, x.2) else x
  let hs := s.tensor? h d.hs
  let hd := s.tensor? h d.hd
  let hw := s.tensor? h d.hw
  let needs := d.reduces && d.usesWork
  let src := match hs with
    | some t => (match d.op with
        | 2 => [Format.sb4, .sb8, .sb16, .cw32].contains t.fmt && per ≤ t.units
        | 4 => per ≤ t.units && d.hs == d.hd
        | _ => [Format.wl32, .sb16].contains t.fmt && d.b0 + d.nb ≤ t.units && s.unitsInScratch c.val t d.b0 d.nb)
    | none => true
  let dst := match hd with
    | some t => (match d.op with
        | 2 => (hs.all fun x => x.fmt == t.fmt) && d.b0 + d.nb ≤ t.units
        | 4 => true
        | 3 => t.fmt == .cw32 && d.nb ≤ t.units && t.swen
        | _ => t.fmt == .cw32 && per ≤ t.units && t.swen)
    | none => true
  let wrk := if needs then
      (match hw with
        | some t => t.fmt == .cw32 && d.nb / max 1 ((gs.head?.map (·.n)).getD 1) ≤ t.units
        | none => true)
    else d.hw == 0
  let slot := d.rdst && ((s.blades[Fin.ofNat 4 d.rblade].recv[Fin.ofNat 64 d.rslot]).bound != some (h, d.tag)
    || !s.reachesBlade h d.rblade)
  let outside := (axesOf d.axes).any fun a =>
    let p := s.slicePos c.val a s.moduleId
    s.sliceExtent c.val a < 2 || p < 0 || (s.sliceExtent c.val a : Int) ≤ p
  let first := s.entry (0x6100 + c.val) 7
  tens d.hs ++ tens d.hd ++ (if needs then tens d.hw else [])
    ++ [(.relayDesc, !src || !dst || !wrk || d.nb == 0 || d.nb % (2 * max 1 n) != 0 || slot || outside
        || ((axesOf d.axes).any fun a => s.neighbourBad c a false || s.neighbourBad c a true)
        || d.tag < first || first + s.entry (0x6100 + c.val) 8 ≤ d.tag
        || (d.op == 4 && (s.permTable h d.hp n).isNone)
        || (d.split && (axesOf d.axes).any fun a => 4 < s.sliceExtent c.val a && s.splitBad c.val a)
        || s.entry (0x6100 + c.val) 0xB == 0 || s.entry (0x6100 + c.val) 0xC == 0 || s.entry (0x6100 + c.val) 0xA < 262144)]

/-- What the execution of an LA_RELAY finds: operands that do not decode, or may not be written (R666). Relay lands units, no whole
pages, so that none of its destinations may stand in a pack region (R298). -/
def State.relayReach (s : State) (h : Fin 64) (d : RelayDesc) : List (Plan × Bool) :=
  let gs := s.stagesOf (crewOf h).val d
  let per := d.nb / max 1 (groupSize gs)
  let acc := s.accLaunch h
  let put := s.accOf h
  let hd := s.tensor? h d.hd
  [(.addr, ((s.tensor? h d.hs).any fun t =>
        !s.unitsReach (if d.op = 4 then put else acc) t (if d.reduces then d.b0 else 0) (if d.reduces then d.nb else per) (d.op == 4))
      || (!d.rdst && hd.any fun t => d.op != 4 &&
        !s.unitsReach put t (if d.op = 2 then d.b0 else 0) (if d.op = 1 then per else d.nb) true)
      || (d.reduces && d.usesWork && (s.tensor? h d.hw).any fun t =>
        !s.unitsReach put t 0 (d.nb / max 1 ((gs.head?.map (·.n)).getD 1)) true)
      || (d.reduces && hd.any fun t => !s.statusReach put t))]

/-- EV-6021 for the first axis neighbour that fails the check (R340, R387): tag, axis, Sweep, expected and observed coordinates. -/
def State.raiseNeighbours (s : State) (h : Fin 64) (d : RelayDesc) : State :=
  match ((axesOf d.axes).flatMap fun a => [(a, false), (a, true)]).find? fun p => s.neighbourBad (crewOf h) p.1 p.2 with
  | some (a, minus) =>
    let w := s.axisSweep a minus
    s.raiseHeat h 0x6021 [d.tag, a, w, s.moduleAlong (crewOf h).val a (if minus then -1 else 1) % 2 ^ 18,
      (((s.sweepPeer w).map (·.module)).getD 0) % 2 ^ 18]
  | none => s

/-- The exponent with which a bucket opens (R359). -/
def State.openExponent (s : State) (h : Fin 64) (d : RelayDesc) : Int :=
  let v := sparseGet 0 s.tags d.tag
  if bitOf v 8 ∧ bitsOf v 10 6 = h.val then s8 (bitsOf v 0 8) else d.aexp0

/-- Starts a collective whose checks have passed (R343). -/
def State.startCollective (s : State) (q : QItem) (d : RelayDesc) : State :=
  let h := q.heat
  let gs := s.stagesOf (crewOf h).val d
  let e := s.openExponent h d
  let k : Collective :=
    { item := q, d := d, src := (s.tensor? h d.hs).getD noTensor, dst := (s.tensor? h d.hd).getD noTensor
      work := (s.tensor? h d.hw).getD noTensor, step := s.entry 0x3020 5, seed := s.seed, stages := gs, size := groupSize gs, shard := shardOf gs
      perm := if d.op = 4 then (s.permTable h d.hp (groupSize gs)).getD [] else []
      aexp := e, first := e, phase := .reduce
      word := { tag := d.tag, aexp := e, step := s.entry 0x3020 5 } }
  let v := sparseGet 0 s.tags d.tag
  let s := { s with tags := sparseSet 0 s.tags d.tag (if bitOf v 9 then v else v + 2 ^ 9) }
  let s := s.setQueue (.relay h) { s.relayQueues[h] with started := s.relayQueues[h].started ++ [q] }
  let s := { s with collectives := s.collectives ++ [k] }
  let (s, k) := match d.op with
    | 2 =>
      let per := d.nb / k.size
      let s := (List.range per).foldl (fun (s : State) i =>
        let u := s.readUnit (s.accRelay k) k.src i
        let n := u.1.length + u.2.length
        (s.relayMove k i n n).landUnit k (k.shard * per + i) u.1 u.2) s
      s.beginGather { k with stage := gs.length - 1 }
    | 4 =>
      let (s, k) := s.beginPermute k
      s.advance k
    | _ => s.beginReduce k
  (s.putCollective k).drain (crewOf h)

/-- The head of a Heat's Relay queue, when it is an operation `op`: it starts once its checks pass and its tag is not OPEN
(R343) and no save holds it back (R381); a check that fails faults the Heat. -/
def State.relayHead (s : State) (h : Fin 64) (op : Nat) : State :=
  match s.relayQueues[h].waiting with
  | [] => s
  | q :: rest =>
    if s.heats[h].savesWork then s else
    match q.op with
    | .launch 3 x =>
      if bitsOf (s.descOf h x) 0 4 ≠ op ∧ (1 ≤ bitsOf (s.descOf h x) 0 4 ∧ bitsOf (s.descOf h x) 0 4 ≤ 4) then s
      else match RelayDesc.parse (s.descOf h x) with
        | none => (s.setQueue (.relay h) { s.relayQueues[h] with waiting := rest }).faultHeat h q.lane q.pc .relayDesc
        | some d =>
          match checkFault (s.relayFaults h d) (s.relayReach h d) with
          | some p =>
            ((s.setQueue (.relay h) { s.relayQueues[h] with waiting := rest }).raiseNeighbours h d).faultHeat h q.lane q.pc p
          | none =>
            if bitOf (sparseGet 0 s.tags d.tag) 9 then s
            else (s.setQueue (.relay h) { s.relayQueues[h] with waiting := rest }).startCollective q d
    | _ => s

/-- LA_RELAY (R234): enters the Heat's Relay queue. The engine field must be 0. -/
def execLaRelay (h : Fin 64) (l : Fin 4) (engine : Fin 16) (handle : BitVec 16) (xi : BitVec 4) (csem : BitVec 9)
    (rsv : BitVec 19) (s : State) : Host.Outcome State Fault Refusal :=
  let d := (s.lane h l).handle handle.toNat xi.toNat
  s.issue h l
    ([rsvBad rsv, (.insnReserved, engine != 0), (.semRange, semBad true csem.toNat)] ++ s.descFaults h d 8)
    fun s => s.enqueue h l (.relay h) (.launch 3 d) csem.toNat

/-- REDUCE_SCATTER (R357). -/
def execReduceScatter (h : Fin 64) (s : State) : Host.Outcome State Fault Refusal := .next (s.relayHead h 1)

/-- ALL_GATHER (R350). -/
def execAllGather (h : Fin 64) (s : State) : Host.Outcome State Fault Refusal := .next (s.relayHead h 2)

/-- ALL_REDUCE (R371). -/
def execAllReduce (h : Fin 64) (s : State) : Host.Outcome State Fault Refusal := .next (s.relayHead h 3)

/-- PERMUTE (R372). -/
def execPermute (h : Fin 64) (s : State) : Host.Outcome State Fault Refusal := .next (s.relayHead h 4)

end Sys2Proof.Machine
end

