-- ==== Sys2Proof/Machine/HeatRun.lean ====
section
/-! DEFINITION. Heat commands, pre-emption, saves and restores (R202, R481 to R493). -/
namespace Sys2Proof.Machine

/-- QUEUE_SPACE (R202): a lane stopped by a full queue enters its instruction when there is space; the lost slots are
counted. Of two lanes that offer to one queue the lower-numbered enters first. An idle unit takes the instruction up. -/
def execQueueSpace (h : Fin 64) (l : Fin 4) (s : State) : Host.Outcome State Fault Refusal :=
  .next (match (s.lane h l).stop with
    | .stalled u q since =>
      let uq := s.queue u
      if uq.waiting.length < u.depth ∧ !s.yields h l u ∧ s.heats[h].acting then
        let s := ((s.setQueue u { uq with waiting := uq.waiting ++ [q] }).bump (0x7200 + h.val) 7
            (issueSlots (s.stopTime h l since))).onLane h l fun x => { x with pc := x.pc + 8, stop := .running, waited := 0 }
        match u with
        | .scull k => State.scullHead k 8 s
        | .engine e => State.launchHead e 9 s
        | _ => s
      else s
    | _ => s)

/-! ## Commands (R481) -/

/-- The plan header that a START reads, or `none`: ST-21 PLAN_INVALID (R198). -/
def State.planHeader (s : State) (h : Fin 64) : Option PlanHeader :=
  let acc := s.accOf h
  let at_ := s.entry (0x7300 + h.val) 1
  if s.decodes acc at_ 128 then
    (PlanHeader.parse (s.loadNat acc at_ 128)).filter fun p =>
      (p.lanes.all fun l => (List.range 4).all fun n => !bitOf l.blades n || s.reachesBlade h n)
        && (p.chist == 0 || (s.decodes acc p.chist 1 && (s.regionAt p.chist).isSome))
  else none

/-- Why a START is refused: 0 it is not, else the status code (R481, R629, R638; ST-21 PLAN_INVALID, ST-71 CREW_BUSY, ST-85
SCRUB_BUSY). -/
def State.startStatus (s : State) (h : Fin 64) : Nat :=
  let c := crewOf h
  match s.crews[c].state with
  | .stopped => 0x71
  | .scrub => 0x85
  | .recovery => if s.slipways[c].restore ≠ 2 then 0x71 else common
  | .normal => common
where
  /-- The conditions that hold in every Crew state. -/
  common : Nat :=
    if s.heats[h].status = .running ∨ s.heats[h].status = .preempted then 0x71
    else if (s.planHeader h).isNone then 0x21 else 0

/-- The lanes of a Heat that starts: program counters at their starts, counters 0, frame 0 to open at the next edge. -/
def PlanHeader.startLane (p : PlanHeader) (i : Nat) : Lane :=
  match p.lanes[i]? with
  | some e => { start := e.start, length := e.length, blades := e.blades, budget := e.budget, pc := e.start, stop := .unopened 0 }
  | none => {}

/-- START (R481, R638). -/
def State.startHeat (s : State) (h : Fin 64) : State :=
  match s.planHeader h with
  | none => s
  | some p =>
    let c := crewOf h
    let busy := s.crewBusy c
    let s := s.onHeat h fun x => { x with
      status := if busy then .preempted else .running
      header := p, lanes := Vector.ofFn fun i : Fin 4 => p.startLane i.val, sems := []
      held := false, request := none, services := [], restoring := none, restored := false, strokesRun := 0, starved := 0
      save := if busy then some { completedAt := s.clock.now } else none
      loss := { x.loss with acc := 0, mark := false, fed := false }, joinedFrame := none }
    (s.onCrew c fun x => { x with state := if x.state = .recovery then .normal else x.state }).raiseHeat h 0x7001 [h.val]

/-- STOP (R481): as a fault ends a Heat, but it becomes IDLE. -/
def State.stopHeat (s : State) (h : Fin 64) : State :=
  if s.heats[h].status = .running ∨ s.heats[h].status = .preempted then s.endHeat h .idle else s

/-- SUSPEND (R481): a RUNNING Heat is held; the scheduler pre-empts it (R482). -/
def State.suspendHeat (s : State) (h : Fin 64) : State :=
  if s.heats[h].status = .running then s.onHeat h fun x => { x with held := true } else s

/-- RESUME (R481): the hold is cleared, and the Heat is runnable. -/
def State.resumeHeat (s : State) (h : Fin 64) : State :=
  (s.onHeat h fun x => { x with held := false }).schedule (crewOf h)

/-- START, where it is not refused. -/
def execStart (h : Fin 64) (s : State) : Host.Outcome State Fault Refusal :=
  .next (if s.startStatus h = 0 then s.startHeat h else s)

/-- STOP. -/
def execStop (h : Fin 64) (s : State) : Host.Outcome State Fault Refusal := .next (s.stopHeat h)

/-- SUSPEND. -/
def execSuspend (h : Fin 64) (s : State) : Host.Outcome State Fault Refusal := .next (s.suspendHeat h)

/-- RESUME. -/
def execResume (h : Fin 64) (s : State) : Host.Outcome State Fault Refusal := .next (s.resumeHeat h)

/-! ## The scheduler (R482) -/

/-- Whether a PREEMPTED Heat that is not held has a priority of at least `p`. -/
def State.runnableAt (s : State) (c : Fin 4) (p : Nat) : Bool :=
  (List.finRange 64).any fun h =>
    crewOf h == c && s.heats[h].status == .preempted && !s.heats[h].held && p ≤ s.entry (0x7300 + h.val) 6

/-- Why the scheduler pre-empts a RUNNING Heat at an edge: 1 a higher priority, 2 the quantum, 3 SUSPEND. -/
def State.preemptReason (s : State) (h : Fin 64) : Option Nat :=
  let c := crewOf h
  let p := s.entry (0x7300 + h.val) 6
  if s.runnableAt c (p + 1) then some 1
  else if s.entry (0x7300 + h.val) 7 ≤ s.heats[h].strokesRun ∧ s.runnableAt c p then some 2
  else if s.heats[h].held then some 3 else none

/-- The pre-emption request at a stroke edge, EV-7010; one that is pending is not raised again (R482). -/
def State.requestPreemption (s : State) (h : Fin 64) : State :=
  if s.heats[h].status = .running ∧ s.heats[h].request = none then
    match s.preemptReason h with
    | some r => (s.onHeat h fun x => ({ x with request := some { at_ := s.clock.now } } : Heat).noteStop s.clock.now).raiseHeat h 0x7010 [h.val, r]
    | none => s
  else s

/-! ## Saves (R484 to R491) -/

/-- Whether a Crew's slice holds more than one module (R487). -/
def State.multiModule (s : State) (c : Fin 4) : Bool := (List.range 3).any fun a => 1 < s.sliceExtent c.val a

/-- Whether a started collective of the Heat is under way (R381). -/
def State.collecting (s : State) (h : Fin 64) : Bool := s.collectives.any (·.item.heat == h)

/-- Whether a window of the Heat is between two layers or there is none. -/
def State.windowsIdle (s : State) (h : Fin 64) : Bool :=
  s.engines.toList.all fun e => e.window.all fun w => w.item.heat != h || w.fetching.isNone

/-- Whether all that the Heat issued has completed, but for windows, collectives that have not started (R381) and INGESTs
that wait for entries (R485). -/
def State.issuedDone (s : State) (h : Fin 64) : Bool :=
  !(s.outstanding fun q => q.heat == h && (match q.op with
      | .launch 2 _ | .launch 3 _ => false
      | _ => true))
    && !s.collecting h && s.windowsIdle h && s.heats[h].services.all fun v => match v.op with
      | .ingest _ => true
      | _ => false

/-- The live ranges of the last CT_PMARK of a lane (R485): as they were read there, else as the save reads them; or the fault of
a chain that is invalid. -/
def State.markRead (s : State) (h : Fin 64) (l : Fin 4) : Plan ⊕ (List (Nat × Nat) × Bool) :=
  match (s.lane h l).live, (s.lane h l).pmark with
  | some r, _ => .inr r
  | none, none => .inr ([], false)
  | none, some d => s.liveRanges h d

/-- Those ranges and the fin; none for an invalid chain. -/
def State.markOf (s : State) (h : Fin 64) (l : Fin 4) : List (Nat × Nat) × Bool :=
  match s.markRead h l with
  | .inl _ => ([], false)
  | .inr r => r

/-- The first lane whose chain is invalid, with its fault. -/
def State.markFault (s : State) (h : Fin 64) : Option (Fin 4 × Plan) :=
  (List.finRange 4).findSome? fun l => match s.markRead h l with
    | .inl p => some (l, p)
    | .inr _ => none

/-- PMARK_SAVE (R484, R485): every lane has stopped and the issued work is done; the save begins. A chain that is invalid
faults with PMARK (R246). With a deadline of 0, but for a Crew of several modules (R487), the full save comes instead. -/
def execPmarkSave (h : Fin 64) (s : State) : Host.Outcome State Fault Refusal :=
  .next (
    let x := s.heats[h]
    if x.acting ∧ x.request.isSome ∧ x.lanesStopped ∧ s.issuedDone h
        ∧ (s.entry 0x7100 2 ≠ 0 ∨ s.multiModule (crewOf h)) then
      match s.markFault h with
      | some (l, p) => s.faultHeat h l (s.lane h l).pc p
      | none => s.onHeat h fun x => { x with request := x.request.map fun r => { r with save := some (r.stopped.getD s.clock.now, false) } }
    else s)

/-- PMARK_DEADLINE (R484, R486): the deadline passes first: EV-7013, every lane stops at its current instruction, and a full
save follows. The Heats of a Crew of several modules have no deadline (R487). -/
def execPmarkDeadline (h : Fin 64) (s : State) : Host.Outcome State Fault Refusal :=
  .next (match s.heats[h].request with
    | some r =>
      if s.heats[h].acting ∧ !s.multiModule (crewOf h) then
        let s := (s.advanceTo (r.at_ + s.entry 0x7100 2 * 1000)).raiseHeat h 0x7013 [h.val]
        s.onHeat h fun x => { x with request := some { r with save := some (s.clock.now, true) } }
      else s
    | none => s)

/-- COLLECTIVE_WAIT_LIMIT (R487): started collectives of a Heat of several modules that have not completed within 0x7100.03 stop
the job with LOCAL_FAULT. -/
def execCollectiveWaitLimit (h : Fin 64) (s : State) : Host.Outcome State Fault Refusal :=
  .next (match s.heats[h].request with
    | some r =>
      if s.multiModule (crewOf h) ∧ s.collecting h then
        (s.advanceTo (r.at_ + s.entry 0x7100 3 * 1000)).stopJob (crewOf h) .localFault 0xFF
      else s
    | none => s)

/-- Whether a memory key is a byte of the Crew's Tank scratch, or of a Catch or Finish buffer of a Blade in `blades`. -/
def State.tankKeyOf (s : State) (c : Fin 4) (key : Nat) : Bool :=
  let off := key - 2 ^ 40
  2 ^ 40 ≤ key && off < 2 ^ 29 && s.ownsBank c.val (off / 2 ^ 28) (off % 2 ^ 28 / 2 ^ 22)
@[inherit_doc State.tankKeyOf] def bufferKeyOf (blades key : Nat) : Bool :=
  2 ^ 41 ≤ key && bitOf blades ((key % 2 ^ 41) / 2 ^ 24)

/-- The Crew's Blade mask. -/
def State.crewBlades (s : State) (c : Fin 4) : Nat := s.entry (0x7000 + c.val) 1

/-- The bits of a mask below 16, counted. -/
def popCount (m : Nat) : Nat := (List.range 16).countP (bitOf m)

/-- The Tank scratch banks of a Crew. -/
def State.scratchBanks (s : State) (c : Fin 4) : Nat :=
  ((List.range 2).map fun d => (List.range 64).countP fun b => s.ownsBank c.val d b).sum

/-- The full-save size in KiB (R489, 0x73hh.09). -/
def State.fullSaveKiB (s : State) (c : Fin 4) : Nat :=
  4096 * s.scratchBanks c + (12288 + 512) * popCount (s.crewBlades c) + 64 * popCount (s.entry (0x7000 + c.val) 2) + 64

/-- The Blades whose Catch and Finish state a PMARK save keeps (R246). -/
def State.finBlades (s : State) (h : Fin 64) : Nat :=
  (List.finRange 4).foldl (fun m l =>
    if (s.markOf h l).2 then m ||| (s.lane h l).blades else m) 0

/-- The ranges of a PMARK save. -/
def State.markRanges (s : State) (h : Fin 64) : List (Nat × Nat) :=
  (List.finRange 4).flatMap fun l => (s.markOf h l).1

/-- The Tank slots of the windows of a Heat: a save keeps them with what has landed (R322). -/
def State.windowRanges (s : State) (h : Fin 64) : List (Nat × Nat) :=
  s.engines.toList.filterMap fun e => e.window.bind fun w =>
    if w.item.heat = h then some (w.desc.tbase, w.slots * w.desc.slot) else none

/-- What a save writes: the state of the Heat's units as it stands now. -/
def State.buildSave (s : State) (h : Fin 64) (full : Bool) : Save :=
  let c := crewOf h
  let rs := s.markRanges h
  let fin := if full then s.crewBlades c else s.finBlades h
  let inRange := fun key => (rs ++ s.windowRanges h).any fun r => tankKey (r.1 - 0xF000000000) ≤ key && key < tankKey (r.1 - 0xF000000000) + r.2
  let bytes : Nat := (rs.map (·.2)).sum
  { full := full
    sizeKiB := if full then s.fullSaveKiB c else 64 + ceilDiv bytes 1024 + 12288 * popCount fin
    cells := s.mem.filter fun x => (if full then s.tankKeyOf c x.1 else inRange x.1) || bufferKeyOf fin x.1
    recv := (List.finRange 4).flatMap fun n => (List.finRange 64).filterMap fun k =>
      let v := s.blades[n].recv[k]
      if v.bound.any (·.1 == h) then
        some { blade := n, rslot := k, slot := if bitOf fin n.val then v else { v with landed := [], posted := 0 } }
      else none
    blades := (List.finRange 4).filterMap fun n =>
      if bitOf fin n.val then
        some (n, if full then s.blades[n] else { s.blades[n] with active := {}, shadow := {} })
      else none
    sculls := if full then
        (List.finRange 16).filterMap fun k =>
          if s.crewHas h 2 k.val then some (k, s.sculls[k], s.scullRuns[k]) else none
      else []
    engines := (List.finRange 16).filterMap fun e => if s.crewHas h 3 e.val then some (e, s.engines[e]) else none
    relay := s.relayQueues[h]
    completedAt := s.clock.now }

/-- The Crew's Tank scratch and the Catch and Finish buffers of its Blades are cleared (R488), with the state of its Blades,
Sculls and engines. -/
def State.clearCrewUnits (s : State) (c : Fin 4) : State :=
  let m := s.crewBlades c
  { s with
    mem := s.mem.filter fun x => !(s.tankKeyOf c x.1 || bufferKeyOf m x.1)
    blades := Vector.ofFn fun n : Fin 4 =>
      let b := s.blades[n]
      if bitOf m n.val then
        { b with
          queue := {}, runs := [], slots := .replicate 4 {}, recv := .replicate 64 {}, active := {}, shadow := {}
          gate := none, rampWait := none, arrival := none }
      else b
    sculls := Vector.ofFn fun k : Fin 16 => if bitOf (s.entry (0x7000 + c.val) 2) k.val then {} else s.sculls[k]
    scullRuns := Vector.ofFn fun k : Fin 16 => if bitOf (s.entry (0x7000 + c.val) 2) k.val then none else s.scullRuns[k]
    engines := Vector.ofFn fun e : Fin 16 => if bitOf (s.entry (0x7000 + c.val) 3) e.val then {} else s.engines[e] }

/-- An engine that is busy counts its time up to now (0x45ee.06). -/
def State.settleEngine (s : State) (e : Fin 16) : State :=
  if 0 < s.engines[e].flights then
    (s.bump (0x4500 + e.val) 6 (s.clock.now - s.engines[e].busySince)).onEngine e fun x => { x with busySince := s.clock.now }
  else s

/-- The engines of a Crew, so. -/
def State.settleEngines (s : State) (c : Fin 4) : State :=
  (List.finRange 16).foldl (fun s e => if bitOf (s.entry (0x7000 + c.val) 3) e.val then s.settleEngine e else s) s

/-- A lane whose stop a save interrupts at `t` keeps how long it lasted. -/
def Lane.saveAt (x : Lane) (t : Nat) : Lane :=
  match x.stop with
  | .waiting _ _ _ _ _ _ _ | .fenced _ _ | .stalled _ _ _ => { x with waited := x.waited + (t - x.stop.since) }
  | _ => x

/-- Whether the Crew's Blades, Sculls and engines still run instructions of a Heat that satisfies `p` (R251): those of a Heat that
has ended run to completion. -/
def State.unitsRun (s : State) (c : Fin 4) (p : Fin 64 → Bool) : Bool :=
  s.outstanding fun q => crewOf q.heat == c && p q.heat && (match q.op with
    | .launch 3 _ => false
    | _ => true)

/-- SAVE_COMPLETE (R381, R488, R489, R491, R492): the save is written: EV-7011 with its kind (0 PMARK, 1 full), size and time;
slots are unbound and their credits return; held shared semaphores are parked; the Heat is PREEMPTED; the Crew's Tank
and buffers are cleared; the scheduler restores the next Heat. -/
def execSaveComplete (h : Fin 64) (s : State) : Host.Outcome State Fault Refusal :=
  .next (match (s.heats[h].request.bind (·.save)) with
    | some (t, full) =>
      if s.collecting h ∨ !s.windowsIdle h ∨ s.unitsRun (crewOf h) (· != h) then s
      else
        let c := crewOf h
        let s := s.settleEngines c
        let v := s.buildSave h full
        let s := v.recv.foldl (fun s r => s.freeSlotCredits c.val r.slot.credits) s
        let s := s.onCrew c fun x => { x with parked := (List.range 64).foldl (fun m k =>
          if sparseGet 0 x.holders k = h.val + 1 then sparseSet 0 m k 1 else m) x.parked }
        let k := 0x7300 + h.val
        let s := (s.bump k (if full then 0xA else 0xB) 1).setEntry k 0xC v.sizeKiB
        let s := s.setEntry k 0xD ((s.clock.now - t) % 2 ^ 32)
        let s := { s.clearCrewUnits c with relayQueues := s.relayQueues.set h {} }
        let s := s.onHeat h fun x => { x with 
          status := .preempted, request := none, save := some v, saveValid := true, lanes := x.lanes.map (·.saveAt t) }
        (s.raiseHeat h 0x7011 [h.val, if full then 1 else 0, v.sizeKiB, s.clock.now - t]).schedule c
    | none => s)

/-! ## Restores (R490 to R492) -/

/-- A saved Blade comes back; what belongs to the Blade and not to the Heat stays. -/
def Blade.restoredBy (b v : Blade) : Blade :=
  { b with
    queue := v.queue, runs := v.runs, slots := v.slots, active := v.active, shadow := v.shadow, gate := v.gate
    rampWait := v.rampWait, arrival := v.arrival }

/-- The state that a save holds is put back. A slot's credits leave the pool again (R491). -/
def State.putSave (s : State) (h : Fin 64) (v : Save) : State :=
  let s := { s with mem := v.cells.foldl (fun m x => sparseSet 0 m x.1 x.2) s.mem, relayQueues := s.relayQueues.set h v.relay }
  let s := v.blades.foldl (fun s p => s.onBlade p.1 (·.restoredBy p.2)) s
  let s := v.recv.foldl (fun s r =>
    let s := s.onBlade r.blade fun b => { b with recv := b.recv.set r.rslot r.slot }
    r.slot.credits.foldl (fun s w => s.onSweep (Fin.ofNat 12 w) fun x =>
      let k := vcKey (crewOf h).val 0
      { x with freed := sparseSet 0 x.freed k (sparseGet 0 x.freed k - 1) }) s) s
  let s := v.sculls.foldl (fun s p =>
    { s with sculls := s.sculls.set p.1 p.2.1, scullRuns := s.scullRuns.set p.1 p.2.2 }) s
  v.engines.foldl (fun s p => s.onEngine p.1 fun _ => { p.2 with busySince := s.clock.now }) s

/-- RESTORE_COMPLETE (R488, R491, R492): EV-7012 with the time; the Heat resumes at the next edge. The units are cleared once no
instruction of a Heat that has ended runs on them (R251). -/
def execRestoreComplete (h : Fin 64) (s : State) : Host.Outcome State Fault Refusal :=
  .next (match s.heats[h].restoring with
    | some t =>
      if s.heats[h].restored ∨ s.unitsRun (crewOf h) (fun _ => true) then s
      else
        let c := crewOf h
        let s := (s.clearCrewUnits c).putSave h (s.heats[h].save.getD {})
        let s := s.onCrew c fun x => { x with parked := (List.range 64).foldl (fun m k =>
          if sparseGet 0 x.holders k = h.val + 1 then sparseSet 0 m k 0 else m) x.parked }
        let s := s.setEntry (0x7300 + h.val) 0xE ((s.clock.now - t) % 2 ^ 32)
        (s.onHeat h fun x => { x with restored := true }).raiseHeat h 0x7012 [h.val, s.clock.now - t]
    | none => s)

/-- A lane resumes at edge `t` (R490): a lane at its CT_PMARK goes past it; a wait goes on from here; an open frame takes this
edge as the one at which it opened. -/
def Lane.resumeAt (x : Lane) (t : Nat) : Lane :=
  let x := { x with openedAt := t }
  match x.stop with
  | .atPmark => { x with pc := x.pc + 8, stop := .running }
  | .unopened n => { x with frame := n, leftAt := t, stop := .running }
  | .waiting m n c w a _ warned => { x with stop := .waiting m n c w a t warned }
  | .fenced m _ => { x with stop := .fenced m t }
  | .stalled u q _ => { x with stop := .stalled u q t }
  | .halted => x
  | _ => x

/-- A Heat that resumes a wait on a semaphore which another Heat has parked meanwhile faults with WAIT_ON_PARKED (R238). -/
def State.faultParked (s : State) (h : Fin 64) : State :=
  (List.finRange 4).foldl (fun s l => match (s.lane h l).stop with
    | .waiting sem _ _ _ _ _ _ => if s.parkedForOther h sem then s.faultHeat h l (s.lane h l).pc .waitOnParked else s
    | _ => s) s

/-- A restored Heat runs from a stroke edge on (R490), and its windows go on. -/
def State.resumeRestored (s : State) (h : Fin 64) : State :=
  if s.heats[h].restored then
    let s := s.onHeat h fun x => { x with
      status := .running, restoring := none, restored := false, request := none, save := none, strokesRun := 0
      lanes := x.lanes.map (·.resumeAt s.clock.now) }
    (List.finRange 16).foldl (fun s e =>
      match s.engines[e].window with
      | some w => if w.item.heat = h ∧ w.fetching.isNone ∧ w.next < w.slots ∧ w.next < w.desc.count then s.fetchLayer e w w.next else s
      | none => if s.crewHas h 3 e.val then State.launchHead e 9 s else s) (s.faultParked h)
  else s

end Sys2Proof.Machine
end

