-- ==== Sys2Proof/Machine/StepLoop.lean ====
section
/-! DEFINITION. The step loop of CT_STEP (R67 to R70, R247, R284, R368). -/
namespace Sys2Proof.Machine

/-- The tensors with automatic ceilings, in ascending order of descriptor handle (R67, R68). -/
def State.autoTensors (s : State) (h : Fin 64) : List (Nat × Tensor) :=
  if s.entry 0x3020 4 = 0 ∨ s.heats[h].header.chist = 0 then []
  else (List.range s.heats[h].header.dcount).filterMap fun d =>
    if s.kindOf h d = 1 then
      match Tensor.parse (s.descOf h d) with
      | some t => if t.fmt.isSB ∧ t.swen ∧ !t.fixed then some (d, t) else none
      | none => none
    else none

/-- The slot of the ceiling history of the `i`-th tensor for step `n` (R68). -/
def historySlot (chist i n : Nat) : Nat := chist + 512 * i + 2 * (n % 256)

/-- Whether the step loop reaches the history table and every status word (R68). -/
def State.historyOk (s : State) (h : Fin 64) (ts : List (Nat × Tensor)) : Bool :=
  let acc := s.accOf h
  let chist := s.heats[h].header.chist
  (ts.isEmpty || (s.writable acc chist (512 * ts.length) && s.regionAt chist == s.regionAt (chist + 512 * ts.length - 1)))
    && ts.all fun t => s.decodes acc t.2.swaddr 32

/-- CEILING_UPDATE (R67, R68): each tensor's top enters the history, and its descriptor takes the ceiling of the next step. -/
def State.updateCeilings (s : State) (h : Fin 64) (ts : List (Nat × Tensor)) : State :=
  let acc := s.accOf h
  let x := s.heats[h].header
  let n := s.entry 0x3020 5
  ts.zipIdx.foldl (fun s p =>
    let t := p.1.2
    let s := s.storeNat acc (historySlot x.chist p.2 n) 2 (s.loadNat acc t.swaddr 2)
    let tops := (List.range (s.entry 0x3020 1)).map fun k =>
      s16 (s.loadNat acc (historySlot x.chist p.2 (n + 256 - k % 256)) 2)
    let c := nextCeiling tops (s.entry 0x3020 2) t.fmt.width t.expo
    s.storeNat acc (x.dtab + 32 * p.1.1 + 13) 1 (ofSigned 8 c)) s

/-- The loss entries of a Heat (Table 06-8). -/
def State.putLoss (s : State) (h : Fin 64) (m : LossMonitor) : State :=
  let k := 0x3220 + h.val
  ((((s.setEntry k 1 (ofSigned 64 m.last)).setEntry k 2 (ofSigned 64 m.mean)).setEntry k 3 (ofSigned 32 m.meanExp)).setEntry
    k 4 m.steps).onHeat h fun x => { x with loss := m }

/-- EV-3050 with the Heat, the step number, L, M and the mark flag. -/
def State.raiseLoss (s : State) (h : Fin 64) (m : LossMonitor) (mark : Bool) : State :=
  (s.setEntry (0x3220 + h.val) 7 (s.entry 0x3020 5)).raiseHeat h 0x3050
    [h.val, s.entry 0x3020 5, m.last, m.mean, if mark then 1 else 0]

/-- LOSS_SPIKE_CHECK (R284). -/
def State.checkLoss (s : State) (h : Fin 64) : State :=
  let m := s.heats[h].loss
  if s.entry 0x3200 6 = 0 ∨ !m.fed then s
  else
    let l := sat m.acc 48
    let k := s.entry 0x3200 4
    let idx := 0x3220 + h.val
    let m := { m with last := l, lastMark := m.mark }
    let moved := { m with mean := m.mean + asr (l - m.mean) k, steps := m.steps + 1 }
    if m.mark then ((s.putLoss h m).raiseLoss h m true).bump idx 6 1
    else if m.steps = 0 ∨ m.accExp ≠ m.meanExp then s.putLoss h { m with mean := l, meanExp := m.accExp, steps := 1 }
    else if m.steps < s.entry 0x3200 5 then s.putLoss h moved
    else if 0 < m.mean ∧ s.entry 0x3200 3 * m.mean < l * 256 then
      (((s.putLoss h m).raiseLoss h m false).bump idx 5 1).bump 0x3208 3 1
    else s.putLoss h moved

/-- STEP_LOOP (R247): every lane at CT_STEP with its work done and no request pending: the frame is measured, the ceilings and
the loss are handled, the step number advances, and each lane's next frame opens at the next stroke edge. -/
def execStepLoop (h : Fin 64) (s : State) : Host.Outcome State Fault Refusal :=
  .next (
    let x := s.heats[h]
    let lanes := (List.finRange 4).filter fun l => decide (l.val < x.header.lanes.length)
    if x.acting ∧ x.request = none ∧ lanes ≠ [] ∧ lanes.all (fun l => (s.lane h l).stop == .closing true true && s.frameWorkDone h l) then
      let s := lanes.foldl (fun s l => s.closeFrame h l) s
      let ts := s.autoTensors h
      if s.historyOk h ts = false then s.faultHeat h 0 (s.lane h 0).pc .addr
      else
        let s := (s.updateCeilings h ts).checkLoss h
        let s := s.setEntry 0x3020 5 (wrap64 (s.entry 0x3020 5 + 1))
        s.onHeat h fun x => { x with
          stepMark := false, loss := { x.loss with acc := 0, mark := false, fed := false }
          lanes := x.lanes.map fun (l : Lane) =>
            if l.stop = .closing true true then { l with pc := l.pc + 8, stop := .unopened (l.frame + 1) } else l }
    else s)

end Sys2Proof.Machine
end

