-- ==== Sys2Proof/Machine/Service.lean ====
section
/-! DEFINITION. The services of CT_SVC: INGEST, ADMIT, NOTE (R249, R460 to R464, R497 to R501). CHECKPOINT is in Slipway. -/
namespace Sys2Proof.Machine

/-! ## Arguments -/

/-- The table that a service argument names: address and length; `none` is DESC_RESERVED. -/
def State.argTable (s : State) (h : Fin 64) (d : Nat) : Option (Nat × Nat) := parseTable (s.descOf h d)

/-- Whether a range lies in Tank scratch or in a spread region of the Heat. -/
def State.plainRange (s : State) (h : Fin 64) (at_ n : Nat) : Bool := s.decodes (s.accOf h) at_ n

/-- Reads Table 10-5. -/
def IngestArg.parse (n : Nat) : Option IngestArg :=
  let a : IngestArg := { ring := bitsOf n 0 64, k := bitsOf n 64 5, esize := 64 * bitsOf n 80 16, dst := bitsOf n 96 40, n := bitsOf n 136 24 }
  if bitsOf n 69 11 ≠ 0 ∨ bitsOf n 160 96 ≠ 0 ∨ a.ring % 4096 ≠ 0 ∨ a.k = 0 ∨ 24 < a.k ∨ a.esize = 0 ∨ a.dst % 256 ≠ 0
      ∨ a.n = 0 ∨ 2 ^ a.k < a.n then none
  else some a

/-- Reads Table 11-5. -/
def AdmitArg.parse (n : Nat) : Option AdmitArg :=
  let a : AdmitArg :=
    { rq := bitsOf n 0 64, cq := bitsOf n 64 64, krq := bitsOf n 128 5, kcq := bitsOf n 133 5, pool := bitsOf n 144 40
      ptok := bitsOf n 184 8, npages := bitsOf n 192 24, psize := bitsOf n 216 32, stab := bitsOf n 248 40, ctxmax := bitsOf n 288 16 }
  if bitsOf n 138 6 ≠ 0 ∨ bitsOf n 304 208 ≠ 0 ∨ a.rq % 4096 ≠ 0 ∨ a.cq % 4096 ≠ 0 ∨ a.krq = 0 ∨ 16 < a.krq ∨ a.kcq = 0 ∨ 16 < a.kcq
      ∨ a.pool % 4096 ≠ 0 ∨ a.ptok = 0 ∨ a.npages = 0 ∨ a.stab % 256 ≠ 0 ∨ a.ctxmax = 0 then none
  else some a

/-- A CT_SVC issues (R249): its faults at issue; `run` acts on the argument's table; a table descriptor with a reserved bit
faults with DESC_RESERVED. -/
def State.issueService (s : State) (h : Fin 64) (l : Fin 4) (handle : BitVec 16) (csem : BitVec 9) (rsv : BitVec 15)
    (run : State → Nat → Nat → State) : Host.Outcome State Fault Refusal :=
  s.issue h l ([rsvBad rsv, (.semRange, semBad true csem.toNat)] ++ s.descFaults h handle.toNat 5) fun s =>
    match s.argTable h handle.toNat with
    | none => s.faultHeat h l (s.lane h l).pc .descReserved
    | some (at_, len) => run s at_ len

/-- A service waits; the lane goes on. -/
def State.addService (s : State) (h : Fin 64) (l : Fin 4) (csem : Nat) (op : ServiceOp) : State :=
  let n := s.serviceCount
  (State.onHeat { s with serviceCount := n + 1 } h fun x => { x with
    services := x.services ++ [{ op := op, lane := l, pc := (x.lanes[l]).pc, csem := csem, order := n }] }).nextPc h l

/-- A service completes: it is forgotten, and its csem is posted. -/
def State.endService (s : State) (h : Fin 64) (v : Service) : State :=
  let s := s.onHeat h fun x => { x with services := x.services.erase v }
  if v.csem = 511 then s else s.post h v.lane v.pc v.csem 1

/-! ## NOTE -/

/-- NOTE (R249): 1 to 32 bytes enter the Logbook as EV-D001 with the Heat and the lane; csem is posted. -/
def execNote (h : Fin 64) (l : Fin 4) (handle : BitVec 16) (csem : BitVec 9) (rsv : BitVec 15) (s : State) :
    Host.Outcome State Fault Refusal :=
  s.issueService h l handle csem rsv fun s at_ len =>
    if 32 < len then s.faultHeat h l (s.lane h l).pc .svc
    else if s.decodes (s.accOf h) at_ len = false then s.faultHeat h l (s.lane h l).pc .addr
    else
      let s := s.raiseHeat h 0xD001 ([(h.val : Int), l.val] ++ (s.load (s.accOf h) at_ len).map fun b => (b.toNat : Int))
      (if csem = 511 then s else s.post h l (s.lane h l).pc csem.toNat 1).nextPc h l

/-! ## INGEST -/

/-- INGEST (R461, R462): waits for n entries of the host ring. What the check finds comes before what the read of its argument
finds (R666). -/
def execIngest (h : Fin 64) (l : Fin 4) (handle : BitVec 16) (csem : BitVec 9) (rsv : BitVec 15) (s : State) :
    Host.Outcome State Fault Refusal :=
  s.issueService h l handle csem rsv fun s at_ len =>
    if len ≠ 32 then s.faultHeat h l (s.lane h l).pc .svc
    else if s.decodes (s.accOf h) at_ len = false then s.faultHeat h l (s.lane h l).pc .addr
    else match IngestArg.parse (s.loadNat (s.accOf h) at_ 32) with
      | some a => s.addService h l csem.toNat (.ingest a)
      | none => s.faultHeat h l (s.lane h l).pc .svc

/-- The oldest INGEST of a Heat on a ring. -/
def Heat.ingestOn (x : Heat) (ring : Nat) : Option (Service × IngestArg) :=
  x.services.findSome? fun v => match v.op with
    | .ingest a => if a.ring = ring then some (v, a) else none
    | _ => none

/-- Whether no INGEST that issued before `v` waits on the ring: INGESTs on one ring complete in issue order (R462). -/
def State.ingestNext (s : State) (ring : Nat) (v : Service) : Bool :=
  s.heats.toList.all fun x => (x.ingestOn ring).all fun p => v.order ≤ p.1.order

/-- INGEST_COPY (R462 to R464): the module reads the producer index `producer` of the ring of the Heat's oldest INGEST there; `ok`:
the host read did not fail; `bytes`: the entries. With n entries ahead it copies them, writes the consumer index and posts
csem; a destination on a FAILED channel takes no byte, and the INGEST waits (R332). -/
def execIngestCopy (h : Fin 64) (ring producer : BitVec 64) (ok : Bool) (bytes : List (BitVec 8)) (s : State) :
    Host.Outcome State Fault Refusal :=
  .next (match s.heats[h].ingestOn ring.toNat with
    | none => s
    | some (v, a) =>
      if !s.heats[h].acting ∨ !s.ingestNext a.ring v then s
      else
        let c := s.ringIndex a.ring
        let fill := (producer.toNat + 2 ^ 64 - c) % 2 ^ 64
        if !ok ∨ 2 ^ a.k < fill then (s.raiseHeat h 0xD012 [h.val]).faultHeat h v.lane v.pc .addr
        else
          let s := (s.setEntry (0xD100 + h.val) 3 (min fill (2 ^ 32 - 1))).feed 10 h.val fill
          if fill < a.n then s
          else if s.writable (s.accOf h) a.dst (a.n * a.esize) = false then s.faultHeat h v.lane v.pc .addr
          else if !s.delivers [{ at_ := a.dst, len := a.n * a.esize, write := true }] then s
          else
            let data := (List.range (a.n * a.esize)).map fun i => bytes.getD i 0
            let s := (s.store (s.accOf h) a.dst data).holdSpans (crewOf h).val [{ at_ := a.dst, len := a.n * a.esize, write := true }]
            let s := (s.bump (0xD100 + h.val) 1 a.n).setRingIndex a.ring 64 (c + a.n)
            let n := s.heats[h].starved
            let s := if n = 0 then s
              else (s.onHeat h fun x => { x with starved := 0 }).raiseHeat h 0xD011 [h.val, n]
            s.endService h v)

/-- A stroke edge that passes while an INGEST of the Heat waits (R463): one starved stroke; the first of an episode raises
EV-D010. -/
def State.starve (s : State) (h : Fin 64) : State :=
  let x := s.heats[h]
  if x.acting ∧ x.services.any (fun v => match v.op with
      | .ingest _ => true
      | _ => false) then
    let s := s.bump (0xD100 + h.val) 2 1
    let s := if x.starved = 0 then s.raiseHeat h 0xD010 [h.val] else s
    s.onHeat h fun x => { x with starved := x.starved + 1 }
  else s

/-! ## ADMIT -/

/-- Pages that a sequence needs (R500). -/
def AdmitArg.need (a : AdmitArg) (tokens : Nat) : Nat := ceilDiv tokens a.ptok

/-- ADMIT (R497, R500): the batch changes at the next stroke edge. A second ADMIT before the first has acted faults with SVC. -/
def execAdmit (h : Fin 64) (l : Fin 4) (handle : BitVec 16) (csem : BitVec 9) (rsv : BitVec 15) (s : State) :
    Host.Outcome State Fault Refusal :=
  s.issueService h l handle csem rsv fun s at_ len =>
    let acc := s.accOf h
    let pending := s.heats[h].services.any fun v => match v.op with
      | .admission _ => true
      | _ => false
    if len ≠ 64 ∨ pending then s.faultHeat h l (s.lane h l).pc .svc
    else if s.decodes acc at_ len = false then s.faultHeat h l (s.lane h l).pc .addr
    else match AdmitArg.parse (s.loadNat acc at_ 64) with
      | some a =>
        if s.plainRange h a.stab (8192 + 512 * a.need a.ctxmax) = false
            ∨ s.plainRange h a.pool (256 * a.psize * a.npages) = false then s.faultHeat h l (s.lane h l).pc .svc
        else (s.addService h l csem.toNat (.admission a)).onHeat h fun x => { x with admission := some a }
      | none => s.faultHeat h l (s.lane h l).pc .svc

/-- The age of a request in the queue, in µs. -/
def State.ageUs (s : State) (t : Nat) : Nat := (s.clock.now - t) / 1000

/-- ADMIT_REQUEST_READ (R497, R499): the module moves one request of the Heat's ring into the Crew's admission queue, or refuses
it: ST-72 BUSY when the queue is full, ST-74 TOO_LARGE. `producer` and `consumer` are the host's indices of the request and the
completion ring; while that is full, nothing is read. -/
def execAdmitRequestRead (h : Fin 64) (producer consumer : BitVec 64) (entry : BitVec 512) (s : State) :
    Host.Outcome State Fault Refusal :=
  let c := crewOf h
  .next (match s.heats[h].admission with
    | none => s
    | some a =>
      let i := s.ringIndex a.rq
      if i = producer.toNat ∨ 2 ^ a.kcq ≤ (s.ringIndex a.cq + 2 ^ 64 - consumer.toNat) % 2 ^ 64 then s
      else
        let n := entry.toNat
        let r : AdmitReq := { rid := bitsOf n 0 64, plen := bitsOf n 64 32, maxnew := bitsOf n 96 32, prompt := bitsOf n 128 64
                              tag := bitsOf n 192 64, at_ := s.clock.now, heat := h }
        let s : State := s.setRingIndex a.rq 64 (i + 1)
        if 1024 ≤ s.crews[c].admission.length then
          let now : Int := s.strokeAt s.clock.now
          let first : Bool := s.crews[c].refusedStroke.all fun (t : Int) => decide (t + 1 < now)
          let s : State := (s.complete a r.rid .refused 0x72 0xFF 0).bump (0x7000 + c.val) 0x22 1
          let s : State := (s.onCrew c fun x => { x with refusedStroke := some now }).feed 12 c.val 0
          if first = true then s.raiseHeat h 0x7020 [c.val] else s
        else if a.npages < a.need (r.plen + r.maxnew) ∨ a.ctxmax < r.plen + r.maxnew then
          (s.complete a r.rid .refused 0x74 0xFF 0).feed 12 c.val 0
        else s.onCrew c fun x => { x with admission := x.admission ++ [r] })

/-- The state byte of slot `k` of a sequence table (R498): 0 FREE, 1 RUNNING, 2 LEAVING. -/
def State.slotState (s : State) (h : Fin 64) (a : AdmitArg) (k : Nat) : Nat := (s.load1 (s.accOf h) (a.stab + 64 * k)).toNat

/-- Departures (R500): a LEAVING slot gives its pages back and completes LEFT with ST-00. Then `new` is cleared. -/
def State.depart (s : State) (h : Fin 64) (a : AdmitArg) : State :=
  let acc := s.accOf h
  let c := crewOf h
  let s := (List.range 128).foldl (fun s k =>
    if s.slotState h a k = 2 then
      let rid := s.loadNat acc (a.stab + 64 * k + 8) 8
      let s := (s.store1 acc (a.stab + 64 * k) 0).onHeat h fun x => { x with pages := x.pages.filter (·.1 != k) }
      (s.complete a rid .left 0 k 0).bump (0x7000 + c.val) 0x21 1
    else s) s
  (List.range 128).foldl (fun s k => if s.load1 acc (a.stab + 64 * k + 1) = 0 then s else s.store1 acc (a.stab + 64 * k + 1) 0) s

/-- Requests older than the age limit complete REFUSED with ST-73 (R500). -/
def State.expire (s : State) (h : Fin 64) (a : AdmitArg) : State :=
  let c := crewOf h
  let limit := s.entry (0x7000 + c.val) 6 * 1000000
  (s.crews[c].admission.filter fun r => r.heat == h && decide (limit < s.clock.now - r.at_)).foldl (fun s r =>
    let s := s.onCrew c fun x => { x with admission := x.admission.erase r }
    ((s.complete a r.rid .refused 0x73 0xFF (s.ageUs r.at_)).bump (0x7000 + c.val) 0x23 1).feed 12 c.val (s.ageUs r.at_)) s

/-- The Blade that a sequence joins: one of the Heat's lanes with a FREE slot and the fewest RUNNING slots, the lowest number on
a tie. -/
def State.joinBlade (s : State) (h : Fin 64) (a : AdmitArg) : Option Nat :=
  let mask := s.heats[h].header.lanes.foldl (fun m l => m ||| l.blades) 0
  let count := fun (n v : Nat) => (List.range 32).countP fun i => s.slotState h a (32 * n + i) == v
  ((List.range 4).filter fun n => bitOf mask n && 0 < count n 0).foldl (fun best n =>
    match best with
    | none => some n
    | some b => if count n 1 < count b 1 then some n else some b) none

/-- A request joins (R498, R500): the lowest FREE slot of its Blade, the lowest-numbered free pages, JOINED. -/
def State.join (s : State) (h : Fin 64) (a : AdmitArg) (r : AdmitReq) (blade : Nat) (pages : List Nat) : State :=
  let acc := s.accOf h
  let c := crewOf h
  let k := 32 * blade + ((List.range 32).find? fun i => s.slotState h a (32 * blade + i) == 0).getD 0
  let row := [1, 1, 0, 0] ++ leBytes 4 pages.length ++ leBytes 8 r.rid ++ leBytes 8 r.prompt ++ leBytes 4 r.plen
    ++ leBytes 4 r.maxnew ++ leBytes 8 s.stamp ++ List.replicate 24 0
  let s := s.store acc (a.stab + 64 * k) row
  let s := pages.zipIdx.foldl (fun s p =>
    s.storeNat acc (a.stab + 8192 + 4 * a.need a.ctxmax * k + 4 * p.2) 4 p.1) s
  let s := s.onCrew c fun x => { x with admission := x.admission.erase r }
  let s := s.onHeat h fun x => { x with pages := (k, pages) :: x.pages }
  ((s.complete a r.rid .joined 0 k (s.ageUs r.at_)).bump (0x7000 + c.val) 0x20 1).feed 12 c.val (s.ageUs r.at_)

/-- The queued requests of the Heat join, oldest first, until the oldest cannot (R500). The fuel is the queue's depth. -/
def State.joinAll (h : Fin 64) (a : AdmitArg) : Nat → State → State
  | 0, s => s
  | fuel + 1, s =>
    let c := crewOf h
    match s.crews[c].admission.find? (·.heat == h) with
    | none => s
    | some r =>
      let held := s.heats[h].pages.flatMap (·.2)
      let free := (List.range a.npages).filter fun p => !held.contains p
      let need := a.need (r.plen + r.maxnew)
      match s.joinBlade h a with
      | none => s.bump (0x7000 + c.val) 0x24 1
      | some b =>
        if free.length < need then s.bump (0x7000 + c.val) 0x24 1
        else State.joinAll h a fuel (s.join h a r b (free.take need))

/-- ADMIT_AT_EDGE (R500): an ADMIT that has issued acts at the stroke edge and posts csem. A sequence table that may not be written
faults with ADDR (R199, R313). -/
def State.admitAtEdge (s : State) (h : Fin 64) : State :=
  let x := s.heats[h]
  if !x.acting then s
  else match x.services.findSome? fun v => match v.op with
      | .admission a => some (v, a)
      | _ => none with
    | none => s
    | some (v, a) =>
      if s.writable (s.accOf h) a.stab (8192 + 512 * a.need a.ctxmax) = false then s.faultHeat h v.lane v.pc .addr
      else (State.joinAll h a 1024 ((s.depart h a).expire h a)).endService h v

end Sys2Proof.Machine
end

