-- ==== Sys2Proof/Machine/Slipway.lean ====
section
/-! DEFINITION. Slipway and Recovery (R630 to R639), the service CHECKPOINT (R632) and the freeing of peer records
(R402). -/
namespace Sys2Proof.Machine

/-! ## The layout of a Slipway (R630, Table 15-4) -/

/-- The range list of a Crew (0xD2cc.05): addresses and lengths up to the first length of 0. -/
def rangesOf (bs : List Byte) : List (Nat × Nat) :=
  (((List.range 64).map fun i => (ofLeBytes ((bs.drop (16 * i)).take 8), ofLeBytes ((bs.drop (16 * i + 8)).take 8))).takeWhile
    fun r => r.2 != 0)
@[inherit_doc rangesOf] def State.slipRanges (s : State) (c : Fin 4) : List (Nat × Nat) :=
  rangesOf (s.blob (0xD200 + c.val) 5 1024)

/-- The slot size Z. -/
def State.slipSize (s : State) (c : Fin 4) : Nat := 32768 + ((s.slipRanges c).map (·.2)).sum

/-- The address of slot `i`: 0 to 2 are local slots, 3 to 5 ward slots. -/
def State.slotBase (s : State) (c : Fin 4) (i : Nat) : Nat :=
  ((s.slipRegion c).map fun r => s.regions[r].base).getD 0 + i * s.slipSize c

/-- Slipway's own accesses, made by the Crew's Launch engines for no Heat. -/
def slipAcc (c : Fin 4) : Acc := { crew := c.val, mask := none, launch := true }

/-- The Heats of a Crew: h = 16 × Crew + Heat. -/
def crewHeat (c : Fin 4) (i : Fin 16) : Fin 64 := ⟨16 * c.val + i.val, by omega⟩

/-- The header of a snapshot (Table 15-4). -/
def State.slotHeader (s : State) (c : Fin 4) : List Byte :=
  let ranges := s.slipRanges c
  let loss := (List.finRange 16).flatMap fun i =>
    let k := 0x3220 + (crewHeat c i).val
    leBytes 8 (s.entry k 1) ++ leBytes 8 (s.entry k 2) ++ leBytes 8 (ofSigned 64 (toSigned 32 (s.entry k 3))) ++ leBytes 8 (s.entry k 4)
  leBytes 8 (s.entry 0x3020 5) ++ leBytes 8 (s.entry 0x3020 3) ++ leBytes 4 (s.epoch c.val) ++ leBytes 4 ranges.length
    ++ leBytes 8 (ranges.map (·.2)).sum ++ leBytes 8 s.stamp ++ leBytes 3 s.moduleId ++ leBytes 1 c.val ++ List.replicate 20 0
    ++ loss ++ s.blob (0xD200 + c.val) 5 1024
    ++ (List.range 4096).flatMap (fun t => leBytes 4 (sparseGet 0 s.tags t)) ++ List.replicate 14784 0

/-- Change one slot. -/
def State.onSlot (s : State) (c : Fin 4) (i : Fin 6) (f : Slot → Slot) : State :=
  s.onSlip c fun x => { x with slots := updAt x.slots i f }

/-- The local slots of a Crew. -/
def localSlots : List (Fin 6) := [0, 1, 2]

/-- The local slot of the greatest step that holds a generation, and the one of the least. -/
def Slipway.newest (x : Slipway) : Option (Fin 6) :=
  localSlots.foldl (fun best i =>
    if x.slots[i].state = .empty then best
    else match best with
      | none => some i
      | some b => if x.slots[b].step < x.slots[i].step then some i else best) none
@[inherit_doc Slipway.newest] def Slipway.oldest (x : Slipway) : Option (Fin 6) :=
  localSlots.foldl (fun best i =>
    if x.slots[i].state = .empty then best
    else match best with
      | none => some i
      | some b => if x.slots[i].step < x.slots[b].step then some i else best) none

/-- The slot that a snapshot takes (R632): the EMPTY one of lowest number, else the one of the oldest step. -/
def Slipway.target (x : Slipway) : Fin 6 :=
  ((localSlots.find? fun i => x.slots[i].state == .empty).orElse fun _ => x.oldest).getD 0

/-- Whether the newest local generation, if any, is SEALED. -/
def Slipway.settled (x : Slipway) : Bool := x.newest.all fun i => x.slots[i].state == .sealed

/-! ## PUT frames (R633, Table 15-5) -/

/-- The module at the buddy distance, in the buddy direction or, for the ward, the opposite one. -/
def State.buddyOf (s : State) (c : Fin 4) (ward : Bool) : Nat :=
  let r := s.entry (0xD200 + c.val) 6
  let d := signOfRole r * (s.entry (0xD200 + c.val) 7 : Int)
  s.moduleAlong c.val (axisOfRole r) (if ward then -d else d)

/-- A PUT frame leaves for a module of the slice along the path of R373. -/
def State.sendPut (s : State) (c : Fin 4) (dest kind slot block addr : Nat) (payload : List Byte) : State :=
  let p := s.route c.val dest
  match p.1 with
  | none => s
  | some (a, minus) =>
    s.sendFrame (s.axisSweep a minus)
      { ftype := 2, vc := 2, crew := c.val, hops := p.2, origin := s.moduleId, dest := dest, ts := s.stamp
        ext := addr * 2 ^ 88 + (kind * 2 ^ 30 + slot * 2 ^ 28 + block) * 2 ^ 32, payload := payload }

/-- The blocks of a slot leave: `kind` 0 into ward slot `to_` − 3 of the buddy, 3 into local slot 0 of another module. -/
def State.sendBlocks (s : State) (c : Fin 4) (from_ : Fin 6) (to_ kind dest : Nat) : State :=
  (List.range (s.slipSize c / 4096)).foldl (fun s b =>
    s.sendPut c dest kind (to_ % 3) b (s.slotBase c to_ + 4096 * b)
      (s.load (slipAcc c) (s.slotBase c from_.val + 4096 * b) 4096)) s

/-- The payload of SEAL_REQ and SEAL_REP: step, Z, timestamp. -/
def Slot.sealBytes (t : Slot) : List Byte := beBytes 8 t.step ++ beBytes 8 t.size ++ beBytes 8 t.stamp ++ List.replicate 8 0

/-- WARD_TRANSFER_END (R633): once the last block of a transfer has left, SEAL_REQ is sent. -/
def execWardTransferEnd (c : Fin 4) (s : State) : Host.Outcome State Fault Refusal :=
  .next (match s.slipways[c].transfers.find? fun t => !t.sealAsked with
    | none => s
    | some t =>
      if s.sweeps.toList.any fun w => w.egress.any fun f => f.ftype == 2 && f.crew == c.val && f.origin == s.moduleId then s
      else
        let s := s.onSlip c fun x => { x with transfers := x.transfers.map fun u => if u = t then { u with sealAsked := true } else u }
        s.sendPut c t.dest 1 (if t.restore then 0 else t.slot.val % 3) 0 0 (s.slipways[c].slots[t.slot]).sealBytes)

/-! ## CHECKPOINT (R632) -/

/-- The unit instructions of a Heat that have not completed. -/
def State.issuedItems (s : State) (h : Fin 64) : List QItem :=
  allUnits.flatMap fun u => ((s.queue u).waiting ++ (s.queue u).started).filter (·.heat == h)

/-- CHECKPOINT (R249, R632): at a step that is no multiple of K csem is posted at once; else the service waits, and a wait for a
seal is counted with EV-D031. Its argument is 0. -/
def execCheckpoint (h : Fin 64) (l : Fin 4) (handle : BitVec 16) (csem : BitVec 9) (rsv : BitVec 15) (s : State) :
    Host.Outcome State Fault Refusal :=
  s.issue h l [rsvBad rsv, (.insnReserved, handle != 0), (.semRange, semBad true csem.toNat)] fun s =>
    let c := crewOf h
    if s.entry 0x3020 5 % s.entry (0xD200 + c.val) 3 ≠ 0 then
      (if csem = 511 then s else s.post h l (s.lane h l).pc csem.toNat 1).nextPc h l
    else
      let s := if s.slipways[c].settled then s else (s.bump (0xD200 + c.val) 0xE 1).raiseHeat h 0xD031 [c.val]
      s.addService h l csem.toNat (.checkpoint (s.issuedItems h))

/-- The snapshot: header and ranges enter the slot, which reads LOCAL. -/
def State.snapshotSlot (s : State) (c : Fin 4) : State × Fin 6 :=
  let i := s.slipways[c].target
  let at_ := s.slotBase c i.val
  let head := s.slotHeader c
  let body := (s.slipRanges c).flatMap fun r => s.load (slipAcc c) r.1 r.2
  let z := s.slipSize c
  let t : Slot :=
    { state := .local_, step := s.entry 0x3020 5, origin := s.moduleId, stamp := s.stamp, size := z, blocks := List.range (z / 4096) }
  (((s.store (slipAcc c) at_ (head ++ body)).onSlot c i fun _ => t).bump (0xD200 + c.val) 0xD 1, i)

/-- CHECKPOINT_SNAPSHOT (R632): once the newest local generation is SEALED and the Heat's earlier work has completed, the
snapshot is taken, csem is posted and the slot leaves for the buddy. -/
def execCheckpointSnapshot (h : Fin 64) (s : State) : Host.Outcome State Fault Refusal :=
  let c := crewOf h
  .next (match s.heats[h].services with
    | [] => s
    | v :: _ =>
      match v.op with
      | .checkpoint before =>
        if !s.heats[h].acting ∨ before.any (fun q => allUnits.any fun u => (s.queue u).holds (· == q)) ∨ !s.slipways[c].settled then s
        else if (s.slipRegion c).isNone then s.endService h v
        else
          let (s, i) := s.snapshotSlot c
          let s := s.endService h v
          let dest := s.buddyOf c false
          let s := s.onSlip c fun x => { x with transfers := x.transfers ++ [{ slot := i, dest := dest, restore := false }] }
          s.sendBlocks c i (3 + i.val) 0 dest
      | _ => s)

/-! ## Received PUT frames (R633, R634) -/

/-- A PUT that is not accepted: counted, EV-D032 once per episode with the origin and the pseq. -/
def State.discardPut (s : State) (c : Fin 4) (origin pseq : Nat) : State :=
  let s := s.bump (0xD200 + c.val) 0x10 1
  if s.slipways[c].discarding then s else (s.onSlip c fun x => { x with discarding := true }).raise 0xD032 [c.val, origin, pseq]

/-- A slot after block `b` has landed: the header block of a new step starts a generation. -/
def Slot.land (t : Slot) (b : Nat) (payload : List Byte) (origin : Nat) : Slot :=
  let le := fun at_ n => ofLeBytes ((payload.drop at_).take n)
  let live := t.state == .receiving || t.state == .complete
  if b = 0 ∧ !(live && t.step == le 0 8) then
    { t with
      state := .receiving, step := le 0 8, origin := origin, stamp := le 32 8, size := 32768 + le 24 8
      blocks := 0 :: t.early, early := [] }
  else if t.state = .receiving then { t with blocks := b :: t.blocks.erase b }
  else if t.state = .complete ∧ t.blocks.contains b ∧ b = 0 then t
  else { t with early := b :: t.early.erase b }

/-- Whether a slot can answer the SEAL_REQ that it holds: the step is its own, and every block has landed. -/
def Slot.sealable (t : Slot) : Option (List Byte) :=
  t.asked.filter fun p => (t.state == .receiving || t.state == .complete) && ofBeBytes (p.take 8) == t.step
    && t.size ≤ 4096 * t.blocks.length

/-- A slot whose every block has landed replies SEAL_REP; a ward slot reads COMPLETE; local slot 0 of RECEIVE reads LOCAL, and
RESTORE goes on from it. -/
def State.trySeal (s : State) (c : Fin 4) (i : Fin 6) (origin : Nat) : State :=
  match (s.slipways[c].slots[i]).sealable with
  | none => s
  | some p =>
    let s := s.onSlot c i fun t => { t with asked := none, state := if i.val < 3 then .local_ else .complete }
    let s := if i.val < 3 then s.onSlip c fun x => { x with op := some (.restore 0) } else s
    s.sendPut c origin 2 (i.val % 3) 0 0 p

/-- The module that a running RECEIVE takes from. -/
def Slipway.receiving (x : Slipway) : Option Nat :=
  match x.op with
  | some (.receive m) => some m
  | _ => none

/-- Whether PUT frames of an origin may land as ward data: it is the ward (R634). -/
def State.fromWard (s : State) (c : Fin 4) (origin : Nat) : Bool :=
  (s.slipRegion c).isSome && s.crews[c].state != .scrub && sameModule origin (s.buddyOf c true)

/-- A block lands in a slot. -/
def State.landBlock (s : State) (c : Fin 4) (i : Fin 6) (b addr : Nat) (payload : List Byte) (origin : Nat) : State :=
  ((s.store (slipAcc c) addr payload).onSlot c i fun t => t.land b payload origin).trySeal c i origin

/-- A SEAL_REP that answers the SEAL_REQ of this module: a LOCAL slot reads SEALED, 0xD2cc.0B and EV-D030; the answer to
SEND_WARD ends that command. `none`: it answers nothing. -/
def State.sealReply (s : State) (c : Fin 4) (slot origin : Nat) (payload : List Byte) : Option State :=
  let x := s.slipways[c]
  let step := ofBeBytes (payload.take 8)
  match x.transfers.find? fun t => t.restore && t.sealAsked && sameModule t.dest origin && (x.slots[t.slot]).step == step with
  | some t => some (s.onSlip c fun x => { x with transfers := x.transfers.erase t, op := none, restore := 2 })
  | none =>
    let i : Fin 6 := Fin.ofNat 6 slot
    if slot < 3 ∧ x.slots[i].state = .local_ ∧ x.slots[i].step = step ∧ sameModule origin (s.buddyOf c false) then
      let s := s.onSlip c fun x => { x with
        slots := updAt x.slots i fun t => { t with state := .sealed }, transfers := x.transfers.filter fun t => t.slot != i }
      some ((s.setEntry (0xD200 + c.val) 0xB step).raise 0xD030 [c.val, step])
    else none

/-- What an accepted PUT for this module does; `none`: it is not accepted (R634, R637). -/
def State.putEffect (s : State) (c : Fin 4) (kind slot block addr origin : Nat) (payload : List Byte) : Option State :=
  let inSlot := fun (i : Nat) => decide (s.slotBase c i ≤ addr ∧ addr < s.slotBase c i + s.slipSize c)
  let fromPeer := s.slipways[c].receiving.any fun m => sameModule m origin
  match kind with
  | 0 =>
    if slot < 3 ∧ s.fromWard c origin ∧ inSlot (3 + slot) then
      some (s.landBlock c (Fin.ofNat 6 (3 + slot)) block addr payload origin)
    else none
  | 1 =>
    if fromPeer ∧ slot = 0 then some ((s.onSlot c 0 fun t => { t with asked := some payload }).trySeal c 0 origin)
    else if slot < 3 ∧ s.fromWard c origin then
      some ((s.onSlot c (Fin.ofNat 6 (3 + slot)) fun t => { t with asked := some payload }).trySeal c (Fin.ofNat 6 (3 + slot)) origin)
    else none
  | 2 => s.sealReply c slot origin payload
  | _ => if fromPeer ∧ slot = 0 ∧ inSlot 0 then some (s.landBlock c 0 block addr payload origin) else none

/-- A PUT for this module, which arrived by Sweep `w`: accepted or discarded; its buffer is free. -/
def State.putFrame (s : State) (w : Fin 12) (f : RxFrame) : State :=
  let c : Fin 4 := Fin.ofNat 4 f.crew
  let pseq := bitsOf f.ext.toNat 32 32
  let s := match s.putEffect c (bitsOf pseq 30 2) (bitsOf pseq 28 2) (bitsOf pseq 0 28) (bitsOf f.ext.toNat 88 40) f.origin f.payload with
    | some t => t.onSlip c fun x => { x with discarding := false }
    | none => s.discardPut c f.origin pseq
  s.freeCredit w f.crew f.vc

/-- Receives a PUT of a kind. -/
def State.receivePut (s : State) (o : Fin 24) (f : RxFrame) (kind : Nat) : State :=
  if f.ftype = 2 ∧ bitsOf f.ext.toNat 62 2 = kind then
    match s.receive o f with
    | (s, some w) => s.putFrame w f
    | (s, none) => s
  else s.otherFrame o f

/-- WARD_DATA (R634). -/
def execWardData (o : Fin 24) (f : RxFrame) (s : State) : Host.Outcome State Fault Refusal := .next (s.receivePut o f 0)

/-- SEAL_REQ (R633). -/
def execSealReq (o : Fin 24) (f : RxFrame) (s : State) : Host.Outcome State Fault Refusal := .next (s.receivePut o f 1)

/-- SEAL_REP (R632). -/
def execSealRep (o : Fin 24) (f : RxFrame) (s : State) : Host.Outcome State Fault Refusal := .next (s.receivePut o f 2)

/-- RESTORE_DATA (R637). -/
def execRestoreData (o : Fin 24) (f : RxFrame) (s : State) : Host.Outcome State Fault Refusal := .next (s.receivePut o f 3)

/-! ## Peer records (R402) -/

/-- Frames that wait for a peer record go on, oldest first, while one is free. -/
def State.retryHeldN : Nat → State → State
  | 0, s => s
  | n + 1, s =>
    match s.heldFrames with
    | [] => s
    | (o, f) :: rest =>
      match s.usePeer f.origin f.crew, s.sweepOf (Fin.ofNat 24 o) with
      | some t, some w =>
        let t := { t with heldFrames := rest }
        State.retryHeldN n (
          if sameModule f.dest t.moduleId then
            match f.ftype with
            | 1 => t.dataFrame w f
            | 2 => t.putFrame w f
            | 3 => (t.freeFrame w f).telemFrame w f
            | _ => t.stopFrame w f
          else t.forward w f)
      | _, _ => s

@[inherit_doc State.retryHeldN] def State.retryHeld (s : State) : State := State.retryHeldN s.heldFrames.length s

/-- PEER_RECORD_IDLE (R402): a record without a frame for 0x5000.12 strokes is freed. -/
def execPeerRecordIdle (origin : Nat) (crew : Fin 4) (s : State) : Host.Outcome State Fault Refusal :=
  .next (match s.peers.find? fun p => p.origin == origin && p.crew == crew.val with
    | none => s
    | some p =>
      if p.stroke + s.entry 0x5000 0x12 ≤ s.strokeAt s.clock.now then
        ({ s with peers := s.peers.erase p, peersFull := false }).retryHeld
      else s)

/-! ## Recovery (R637, R638, Table 15-6) -/

/-- The local slot, LOCAL or SEALED, or the COMPLETE ward slot of a step. -/
def Slipway.localOf (x : Slipway) (step : Nat) : Option (Fin 3) :=
  (List.finRange 3).find? fun i =>
    let t := x.slots[(⟨i.val, by omega⟩ : Fin 6)]
    (t.state == .local_ || t.state == .sealed) && t.step == step
@[inherit_doc Slipway.localOf] def Slipway.wardOf (x : Slipway) (step : Nat) : Option (Fin 6) :=
  [3, 4, 5].find? fun i => x.slots[i].state == .complete && x.slots[i].step == step

/-- What refuses a recovery command (R637): ST-71 in a Crew state that Table 15-6 does not allow, or for a second of the three
while one runs; ST-07 where its slot condition fails; 0: it may act. -/
def State.recoveryStatus (s : State) (c : Fin 4) (cmd step : Nat) : Nat :=
  let x := s.slipways[c]
  let st := s.crews[c].state
  match cmd with
  | 0 => 0
  | 1 => if st = .stopped then 0 else 0x71
  | 5 => if st = .stopped ∨ st = .recovery then 0 else 0x71
  | 2 => if st ≠ .recovery ∨ x.restore = 1 then 0x71 else if (x.localOf step).isNone then 0x07 else 0
  | 3 => if st ≠ .recovery ∨ x.restore = 1 then 0x71 else if (x.wardOf step).isNone then 0x07 else 0
  | _ => if st ≠ .recovery ∨ x.restore = 1 then 0x71 else 0

/-- RECOVER: FAILED channels are mapped out, the Crew's held segments and peer records go, and their buffers are free. -/
def State.recover (s : State) (c : Fin 4) : State :=
  let failed := (s.channels.toList.filter fun x => x.failed && x.healthy).length
  let s := s.mapOut
  let gone := s.pools[c]
  let s := { s with pools := updAt s.pools c fun _ => [], peers := s.peers.filter (·.crew != c.val), peersFull := false }
  let s := gone.foldl (fun s x => s.freeCredit (Fin.ofNat 12 x.sweep) c.val (if bitsOf x.hdr 120 4 = 4 then 1 else 0)) s
  let s := s.onCrew c fun x => { x with state := .recovery }
  (s.raise 0xD040 [c.val, s.epoch c.val, failed]).retryHeld

/-- One of RESTORE, SEND_WARD and RECEIVE begins: 0xD2cc.0C reads RUNNING. -/
def State.beginRestore (s : State) (c : Fin 4) (op : RestoreOp) : State :=
  s.onSlip c fun x => { x with op := some op, restore := 1 }

/-- A recovery command acts at its commit stroke (Table 15-6). -/
def State.recoveryCommand (s : State) (c : Fin 4) (cmd : Nat) : State :=
  let step := s.entry (0xD200 + c.val) 8
  let other := s.entry (0xD200 + c.val) 9
  if s.recoveryStatus c cmd step ≠ 0 then s
  else match cmd with
    | 1 => s.recover c
    | 2 => match s.slipways[c].localOf step with
      | some i => s.beginRestore c (.restore i)
      | none => s
    | 3 => match s.slipways[c].wardOf step with
      | some i =>
        let s := (s.beginRestore c .sendWard).onSlip c fun x =>
          { x with transfers := x.transfers ++ [{ slot := i, dest := other, restore := true }] }
        s.sendBlocks c i 0 3 other
      | none => s
    | 4 => (s.beginRestore c (.receive other)).onSlot c 0 fun _ => {}
    | 5 => s.onCrew c fun x => { x with state := .normal }
    | _ => s

/-- RECOVER (R637). -/
def execRecover (c : Fin 4) (s : State) : Host.Outcome State Fault Refusal := .next (s.recoveryCommand c 1)

/-- RESTORE (R637). -/
def execRestore (c : Fin 4) (s : State) : Host.Outcome State Fault Refusal := .next (s.recoveryCommand c 2)

/-- SEND_WARD (R637). -/
def execSendWard (c : Fin 4) (s : State) : Host.Outcome State Fault Refusal := .next (s.recoveryCommand c 3)

/-- RECEIVE (R637). -/
def execReceive (c : Fin 4) (s : State) : Host.Outcome State Fault Refusal := .next (s.recoveryCommand c 4)

/-- CLEAR (R637): the slots are kept. -/
def execClear (c : Fin 4) (s : State) : Host.Outcome State Fault Refusal := .next (s.recoveryCommand c 5)

/-- The loss monitors come back from a header. -/
def State.restoreLoss (s : State) (c : Fin 4) (le : Nat → Nat → Nat) : State :=
  (List.finRange 16).foldl (fun s i =>
    let h := crewHeat c i
    let at_ := 64 + 32 * i.val
    let e := toSigned 64 (le (at_ + 16) 8)
    let s := (((s.setEntry (0x3220 + h.val) 1 (le at_ 8)).setEntry (0x3220 + h.val) 2 (le (at_ + 8) 8)).setEntry
      (0x3220 + h.val) 3 (ofSigned 32 e)).setEntry (0x3220 + h.val) 4 (le (at_ + 24) 8)
    s.onHeat h fun x => { x with loss := { x.loss with
      last := toSigned 64 (le at_ 8), mean := toSigned 64 (le (at_ + 8) 8), meanExp := e, steps := le (at_ + 24) 8 } }) s

/-- The tag entries of the Crew's tag range come back from a header; whether a tag is OPEN is a fact of the present. -/
def State.restoreTags (s : State) (c : Fin 4) (le : Nat → Nat → Nat) : State :=
  (List.range (s.entry (0x6100 + c.val) 8)).foldl (fun s k =>
    let t := s.entry (0x6100 + c.val) 7 + k
    let v := le (1600 + 4 * t) 4
    let v := if bitOf v 9 then v - 2 ^ 9 else v
    { s with tags := sparseSet 0 s.tags t (if bitOf (sparseGet 0 s.tags t) 9 then v + 2 ^ 9 else v) }) s

/-- RESTORE_DONE (R637): the ranges are copied back, and the step number, the base seed, the loss monitors and the tag entries
come from the header; EV-D041. -/
def execRestoreDone (c : Fin 4) (s : State) : Host.Outcome State Fault Refusal :=
  .next (match s.slipways[c].op with
    | some (.restore i) =>
      let at_ := s.slotBase c i.val
      let head := s.load (slipAcc c) at_ 32768
      let le := fun o n => ofLeBytes ((head.drop o).take n)
      let s := ((s.slipRanges c).foldl (fun (p : State × Nat) r =>
        (p.1.store (slipAcc c) r.1 (p.1.load (slipAcc c) p.2 r.2), p.2 + r.2)) (s, at_ + 32768)).1
      let s := (s.setEntry 0x3020 5 (le 0 8)).setEntry 0x3020 3 (le 8 8)
      let s := (s.restoreLoss c le).restoreTags c le
      (s.onSlip c fun x => { x with op := none, restore := 2 }).raise 0xD041 [c.val, le 0 8]
    | _ => s)

end Sys2Proof.Machine
end

