-- ==== Sys2Proof/Machine/Pacer.lean ====
section
/-! DEFINITION. The Pacer: clocks and rails, the power cap, disagreement, temperature, regulators, droop, energy (R550 to
R572). -/
namespace Sys2Proof.Machine

/-! ## Clocks and rails (R550, R551) -/

/-- Change the Pacer's record, that of one Blade, of one rail. -/
def State.onPacer (s : State) (f : Pacer → Pacer) : State := { s with pacer := f s.pacer }
@[inherit_doc State.onPacer] def State.onClock (s : State) (n : Fin 4) (f : BladeClock → BladeClock) : State :=
  s.onPacer fun p => { p with blades := updAt p.blades n f }
@[inherit_doc State.onPacer] def State.onRail (s : State) (r : Fin 10) (f : Rail → Rail) : State :=
  s.onPacer fun p => { p with rails := updAt p.rails r f }

/-- The Blades that the Blade-enable map enables (R4). -/
def State.enabledBlades (s : State) : List (Fin 4) := (List.finRange 4).filter fun n => bitOf s.bladeMap n.val

/-- The rated ceiling of a Blade in MHz (R550): 3,300 to 3,600 in steps of 25, as the CAL image that booted records it. -/
def State.ratedCeiling (s : State) (n : Fin 4) : Nat := 3300 + 25 * (Config.ratedStep s.pacer.cal n.val % 13)

/-- The frequency in force (0x910n.02). -/
def State.mhz (s : State) (n : Fin 4) : Nat := s.entry (0x9100 + n.val) 2

/-- The nominal voltage of a Blade rail at a frequency, with the guard band of HOLD (R551, R561). -/
def State.railTarget (s : State) (n : Fin 4) (f : Nat) : Nat :=
  Config.nominalVoltage s.pacer.cal n.val f + if s.pacer.hold then 15 else 0

/-- The Pacer sets a Blade rail over AVSBus (R566). -/
def State.setRail (s : State) (n : Fin 4) (f : Nat) : State :=
  s.emit { kind := .regulator, unit := n.val, fields := [(s.railTarget n f : Nat)] }

/-- A Blade goes down to a frequency: the frequency first, the voltage afterwards (R551). -/
def State.lowerTo (s : State) (n : Fin 4) (f : Nat) : State :=
  if f < s.mhz n then
    ((s.setEntry (0x9100 + n.val) 2 f).onClock n fun c => { c with rising := none }).setRail n f
  else s

/-- A Blade starts to rise to a frequency: the rail is raised, and the regulator is waited for (R551). -/
def State.raiseTo (s : State) (n : Fin 4) (f : Nat) : State :=
  if s.mhz n < f then (s.onClock n fun c => { c with rising := some f }).setRail n f else s

/-- A rise above `limit` MHz that still waits for its rail is given up: a limit holds that lets the Blade rise no further (R38,
R559, R563). -/
def State.dropRise (s : State) (n : Fin 4) (limit : Nat) : State :=
  match s.pacer.blades[n].rising with
  | some f => if limit < f then (s.onClock n fun c => { c with rising := none }).setRail n (s.mhz n) else s
  | none => s

/-- RAIL_SETTLED (R551): the rail stands at the new voltage, and the raised frequency applies. -/
def execRailSettled (n : Fin 4) (s : State) : Host.Outcome State Fault Refusal :=
  .next (match s.pacer.blades[n].rising with
    | some f => (s.setEntry (0x9100 + n.val) 2 f).onClock n fun c => { c with rising := none }
    | none => s)

/-- The Pacer state (0x9000.05): 2 HOLD, 3 THERMAL, 1 CAPPED, 0 NORMAL, in this order. -/
def State.pacerState (s : State) : Nat :=
  if s.pacer.hold then 2
  else if s.pacer.dieThermal.toList.any id || s.pacer.blades.toList.any (·.thermal) then 3
  else if s.pacer.capped then 1 else 0

/-- 0x9000.05 follows the Pacer. -/
def State.showPacer (s : State) : State := s.setEntry 0x9000 5 s.pacerState

/-- The cap less the guard band, in mW (R559). -/
def State.effectiveCap (s : State) : Nat := 1000 * (s.entry 0x9000 1 - s.entry 0x9000 4)

/-! ## The targets at a stroke edge (R552 to R554) -/

/-- The Crew that holds a unit: kind 1 Blades, 2 Sculls, 3 Launch engines (0x70cc.01 to .03). -/
def State.holder (s : State) (kind i : Nat) : Option (Fin 4) :=
  (List.finRange 4).find? fun c => bitOf (s.entry (0x7000 + c.val) kind) i

/-- The RUNNING Heat of a Crew. -/
def State.runningOf (s : State) (c : Fin 4) : Option (Fin 64) :=
  (List.finRange 64).find? fun h => crewOf h == c && s.heats[h].status == .running

/-- The target of a Blade: 3,300 MHz in no Crew or under rotation, else the preference of its Crew for its phase, up to the
rated ceiling. -/
def State.targetOf (s : State) (n : Fin 4) : Nat :=
  match s.holder 1 n.val with
  | none => 3300
  | some c =>
    if s.blades[n].seatTest then 3300
    else min (s.entry (0x9200 + c.val) (1 + s.blades[n].phase)) (s.ratedCeiling n)

/-- Whether a Blade may rise: no HOLD, no thermal step-down, its rail's transactions succeed, no rail under way. -/
def State.mayRise (s : State) (n : Fin 4) : Bool :=
  let c := s.pacer.blades[n]
  !s.pacer.hold && !c.thermal && !s.pacer.dieThermal[dieOf 2 n.val] && !s.pacer.rails[Fin.ofNat 10 n.val].down && c.rising.isNone

/-- The frequency that an edge would bring a Blade to: at most 300 MHz toward its target, at most 25 MHz on the way back from
CAPPED or THERMAL (R553, R559, R563). -/
def State.stepToward (s : State) (n : Fin 4) (target : Nat) : Nat :=
  let f := s.mhz n
  if target < f then max target (f - 300)
  else if s.mayRise n then min target (f + if s.pacer.blades[n].slow then 25 else 300)
  else f

/-- BLADE_TARGET_MOVE: at a stroke edge the Pacer leaves CAPPED where the stroke allows it, sets the targets and moves each
Blade; it raises none above 3,300 MHz unless R554 holds, which counts every 25 MHz step that the edge would add on any Blade. -/
def State.moveBlades (s : State) : State :=
  let avg := if s.pacer.strokeCount = 0 then 0 else s.pacer.strokeSum / s.pacer.strokeCount
  let leave := s.pacer.capped && decide (0 < s.pacer.strokeCount ∧ avg + 150000 ≤ s.effectiveCap)
  let s := s.onPacer fun p => { p with
    strokeSum := 0, strokeCount := 0, capped := p.capped && !leave
    blades := Vector.ofFn fun n : Fin 4 =>
      let c := p.blades[n]
      { c with slow := c.slow || leave, agreed := if p.apart = 0 then s.mhz n else c.agreed } }
  let bs := s.enabledBlades
  let s := bs.foldl (fun (s : State) n =>
    s.setEntry (0x9100 + n.val) 3 (if s.pacer.capped then min (s.targetOf n) (s.mhz n) else s.targetOf n)) s
  let wants := bs.map fun n => (n, s.stepToward n (s.entry (0x9100 + n.val) 3))
  let steps := (wants.map fun w => (w.2 - s.mhz w.1) / 25).sum
  let boost := !s.pacer.hold && decide (avg + 100000 + 10000 * steps ≤ 1000 * s.entry 0x9000 1)
  (wants.foldl (fun (s : State) w =>
    let f := s.mhz w.1
    let g := if boost ∨ w.2 ≤ max 3300 f then w.2 else max 3300 f
    let s := if g < f then s.lowerTo w.1 g else s.raiseTo w.1 g
    if g = s.entry (0x9100 + w.1.val) 3 then s.onClock w.1 fun c => { c with slow := false } else s) s).showPacer

/-! ## The power cap (R558 to R560, R572) -/

/-- The bytes that a BLOB entry keeps: reserved bits read 0 (R12), bits 15 to 10 of each rail-map entry (R565) and bits 255 to 107
of an UNSEAL request (R535). -/
def keptBytes (idx sub : Nat) (bs : List Byte) : List Byte :=
  if idx = 0x9000 ∧ sub = 0x15 then bs.zipIdx.map fun p => if p.2 % 4 = 1 then p.1 &&& 3 else p.1
  else if 0x8400 ≤ idx ∧ idx < 0x8404 ∧ sub = 5 then leBytes 32 (ofLeBytes bs % 2 ^ 107)
  else bs

/-- The rail map, which at reset is that of the active PACERFW image, and the rails that it names (R565). -/
def State.railMap (s : State) : List Byte :=
  match s.blobs.find? (·.1 == entryKey 0x9000 0x15) with
  | some p => p.2
  | none => keptBytes 0x9000 0x15 ((List.range 64).map (Config.railMap (s.parts[3].slots[s.parts[3].active]).body))
@[inherit_doc State.railMap] def State.mappedRails (s : State) : List (Fin 10) :=
  (List.finRange 10).filter fun r => (List.range 16).any fun i => (s.railMap.getD (4 * i) 255).toNat == r.val

/-- The power that a rail counts with in the measurement, in mW: the last reading; for a Blade rail whose transactions fail
its share of the estimate plus 20 %, for another failing rail its last reading plus 20 % (R558, R567). -/
def State.railPower (s : State) (est : List Nat) (r : Fin 10) : Nat :=
  let x := s.pacer.rails[r]
  if x.down then (if r.val < 4 then est.getD r.val 0 else x.mw) * 120 / 100 else x.mw

/-- The averages of 1 ms: the entries, the comparison of R561, EV-9011 once a second of HOLD. -/
def State.closeMs (s : State) : State :=
  let p := s.pacer
  let m := p.msMeas / 1000
  let e := p.msEst / 1000
  let far := decide (15 * max m e < 100 * (max m e - min m e))
  let s := (s.setEntry 0x9000 2 (m / 1000)).setEntry 0x9000 3 (e / 1000)
  let held := if p.hold then p.holdMs + 1 else 0
  let s := s.onPacer fun p => { p with
    msMeas := 0, msEst := 0, msCount := 0, holdMs := held
    apart := if far then p.apart + 1 else 0, agree := if far then 0 else p.agree + 1
    rails := p.rails.map fun r => if far then r else { r with before := r.mw } }
  if p.hold ∧ held % 1000 = 0 then s.raise 0x9011 [e, m] else s

/-- PACER_EVAL (R558): every 1 µs the estimate, in mW by Blade and for the other consumers, and the measurement are evaluated;
P is the greater. -/
def execPacerEval (e0 e1 e2 e3 rest : Nat) (s : State) : Host.Outcome State Fault Refusal :=
  .next (
    if s.inReset then s else
    let est := [e0, e1, e2, e3]
    let e := est.sum + rest
    let m := (s.mappedRails.map (s.railPower est)).sum
    let s := s.onPacer fun p => { p with
      window := p.window ++ [max e m], stepMeas := p.stepMeas + m, stepEst := p.stepEst + e
      strokeSum := p.strokeSum + max e m, strokeCount := p.strokeCount + 1
      msMeas := p.msMeas + m, msEst := p.msEst + e, msCount := p.msCount + 1 }
    if s.pacer.msCount = 1000 then s.closeMs else s)

/-- ENERGY_INTEGRATE (R572): mW over µs are nJ; the entries count mJ. -/
def State.integrateEnergy (s : State) : State :=
  let p := s.pacer
  let m := p.restMeas + p.stepMeas
  let e := p.restEst + p.stepEst
  let s := ((s.bump 0x9000 0x10 (m / 10 ^ 6)).bump 0x9000 0x11 (e / 10 ^ 6)).setEntry 0x9000 0x12 s.stamp
  s.onPacer fun p => { p with stepMeas := 0, stepEst := 0, restMeas := m % 10 ^ 6, restEst := e % 10 ^ 6, window := [] }

/-- Every enabled Blade steps down; rises above `limit` that are under way are given up. -/
def State.stepAll (s : State) (step floor limit : Nat) : State :=
  s.enabledBlades.foldl (fun (s : State) n => (s.dropRise n limit).lowerTo n (max floor (s.mhz n - step))) s

/-- POWER_CAP_STEP (R559, R572): every 10 µs, on the average of the last ten values of P. -/
def execPowerCapStep (s : State) : Host.Outcome State Fault Refusal :=
  .next (
    if s.pacer.window.length < 10 then s
    else
      let w := s.pacer.window
      let avg := (w.drop (w.length - 10)).sum / 10
      let s := s.integrateEnergy
      let s :=
        if s.effectiveCap < avg then
          ((s.stepAll 100 1000 0).onPacer fun p => { p with capped := true }).bump 0x9000 0x13 1
        else if s.effectiveCap < avg + 100000 then s.stepAll 25 3300 3300
        else s
      let floor := s.enabledBlades.all (fun n => s.mhz n == 1000) && decide (1000 * s.entry 0x9000 1 < avg)
      (s.onPacer fun p => { p with floorSince := if floor then some (p.floorSince.getD s.clock.now) else none }).showPacer)

/-- CAP_FLOOR_TIMEOUT (R560): 10 ms above the cap at 1,000 MHz stop every job. -/
def execCapFloorTimeout (s : State) : Host.Outcome State Fault Refusal :=
  .next (match s.pacer.floorSince with
    | none => s
    | some t =>
      let s := (s.advanceTo (t + 10000000)).onPacer fun p => { p with floorSince := none }
      (List.finRange 4).foldl (fun (s : State) c => s.stopJob c .localFault 0xFF) (s.raise 0x9004 []))

/-! ## Disagreement (R561, R562) -/

/-- DISAGREEMENT_TIMEOUT (R561): ten 1 ms averages that disagree put the Pacer in HOLD. The record carries both values and the
rail whose reading changed most. -/
def execDisagreementTimeout (s : State) : Host.Outcome State Fault Refusal :=
  .next (
    if s.pacer.hold ∨ s.pacer.apart < 10 then s
    else
      let change := fun (r : Fin 10) => let x := s.pacer.rails[r]; max x.mw x.before - min x.mw x.before
      let worst := (List.finRange 10).foldl (fun b r => if change b < change r then r else b) (0 : Fin 10)
      let s := s.raise 0x9010 [s.entry 0x9000 3, s.entry 0x9000 2, worst.val]
      let s := s.onPacer fun p => { p with
        hold := true, holdMs := 0, agree := 0
        blades := p.blades.map fun (c : BladeClock) => { c with rising := none } }
      let s := (s.setEntry 0x9000 4 80).bump 0x9000 0x14 1
      (s.enabledBlades.foldl (fun (s : State) n =>
        let f := min (s.mhz n) s.pacer.blades[n].agreed
        (s.setEntry (0x9100 + n.val) 2 f).setRail n f) s).showPacer)

/-- HOLD_END (R562): a thousand 1 ms averages that agree end HOLD and its guard band. -/
def execHoldEnd (s : State) : Host.Outcome State Fault Refusal :=
  .next (
    if s.pacer.hold ∧ 1000 ≤ s.pacer.agree then
      let s := ((s.onPacer fun p => { p with hold := false, holdMs := 0 }).setEntry 0x9000 4 0).raise 0x9012 []
      (s.enabledBlades.foldl (fun (s : State) n => s.setRail n (s.mhz n)) s).showPacer
    else s)

/-! ## Temperature (R563, R564) -/

/-- The highest of some sensors of a die, in m°C. -/
def Pacer.hottest (p : Pacer) (d : Fin 2) (from_ n : Nat) : Int :=
  (List.range (n - 1)).foldl (fun m i => max m (sparseGet 0 p.sensors (32 * d.val + from_ + 1 + i)))
    (sparseGet 0 p.sensors (32 * d.val + from_))

/-- The temperature of a Blade: the highest of its eight sensors; those of a die that lie on no Blade. -/
def Pacer.bladeTemp (p : Pacer) (n : Fin 4) : Int := p.hottest (dieOf 2 n.val) (8 * (n.val % 2)) 8
@[inherit_doc Pacer.bladeTemp] def Pacer.coreTemp (p : Pacer) (d : Fin 2) : Int := p.hottest d 16 16

/-- A Blade (kind 0) or a die (kind 1) enters or leaves thermal step-down: EV-9020. On the way back the Blades rise slowly. -/
def State.turnThermal (s : State) (kind i : Nat) (ns : List (Fin 4)) (on : Bool) (t : Int) : State :=
  let s := ns.foldl (fun (s : State) n => s.onClock n fun c =>
    { c with stepAt := if on then s.clock.now else c.stepAt, slow := c.slow || !on }) s
  s.raise 0x9020 [kind, i, if on then 1 else 0, t]

/-- The threshold of a step-down: on at 100 °C, off below 97 °C. -/
def thermalNow (was : Bool) (t : Int) : Bool := decide (100000 ≤ t) || (was && decide (97000 ≤ t))

/-- JUNCTION_TEMPERATURE (R563): a reading of junction sensor `sensor` of die `d`, in m°C: sensors 0 to 7 and 8 to 15 lie on
the die's Blades. -/
def execJunctionTemperature (d : Fin 2) (sensor : Fin 32) (mc : BitVec 32) (s : State) : Host.Outcome State Fault Refusal :=
  .next (
    if s.inReset then s else
    let s := s.onPacer fun p => { p with sensors := sparseSet 0 p.sensors (32 * d.val + sensor.val) mc.toInt }
    let s := s.setEntry (0x9120 + d.val) 1 (ofSigned 32 (s.pacer.hottest d 0 32))
    let own : List (Fin 4) := (List.finRange 4).filter fun n => dieOf 2 n.val == d
    let s := own.foldl (fun (s : State) n =>
      let t := s.pacer.bladeTemp n
      let s := s.setEntry (0x9100 + n.val) 6 (ofSigned 32 t)
      let was := s.pacer.blades[n].thermal
      let is_ := thermalNow was t
      if was = is_ then s
      else (s.onClock n fun c => { c with thermal := is_ }).turnThermal 0 n.val [n] is_ t) s
    let t := s.pacer.coreTemp d
    let was := s.pacer.dieThermal[d]
    let is_ := thermalNow was t
    let s := if was = is_ then s
      else (s.onPacer fun p => { p with dieThermal := p.dieThermal.set d is_ }).turnThermal 1 d.val own is_ t
    let top := max (s.pacer.hottest 0 0 32) (s.pacer.hottest 1 0 32)
    let hot := decide (105000 < top)
    let s := if hot ∧ s.pacer.hot = false then s.raise 0x9021 [top] else s
    let s := { s with telem := { s.telem with maxTj := max s.telem.maxTj (mc.toInt * 16 / 1000) } }
    (s.onPacer fun p => { p with hot := hot }).showPacer)

/-- THERMAL_STEP_DOWN (R563): every 100 µs while a sensor of the Blade, or one of its die that lies on no Blade, stays at or
above 100 °C. -/
def execThermalStepDown (n : Fin 4) (s : State) : Host.Outcome State Fault Refusal :=
  .next (
    if bitOf s.bladeMap n.val ∧ (100000 ≤ s.pacer.bladeTemp n ∨ 100000 ≤ s.pacer.coreTemp (dieOf 2 n.val)) then
      let s := s.advanceTo (s.pacer.blades[n].stepAt + 100000)
      (((s.dropRise n 0).lowerTo n (max 1000 (s.mhz n - 100))).onClock n fun c => { c with stepAt := s.clock.now }).bump (0x9100 + n.val) 0xA 1
    else s)

/-! ## Regulators (R566, R567) -/

/-- A read of a rail succeeds: a Blade rail has its voltage and current read, another its power. -/
def State.railRead (s : State) (r : Fin 10) (mv ma mw : Nat) : State :=
  let s := s.onRail r fun x =>
    let since := x.goodSince.getD s.clock.now
    { x with
      mv := mv, mw := if r.val < 4 then mv * ma / 1000 else mw, fails := 0, goodSince := some since
      down := x.down && r.val < 4 && decide (s.clock.now < since + 1000000000) }
  if r.val < 4 then s.setEntry (0x9100 + r.val) 4 mv else s

/-- RAIL_READ (R566, R567): a read over AVSBus every 10 µs, over PMBus every 1 ms; the third failure in a row is an
AVSBUS_FAILURE, which sets the Blade to 1,000 MHz with EV-9030, or EV-9031. -/
def execRailRead (r : Fin 10) (ok : Bool) (mv ma mw : Nat) (s : State) : Host.Outcome State Fault Refusal :=
  .next (
    if s.inReset then s else
    if ok then s.railRead r mv ma mw
    else
      let s := s.onRail r fun x => { x with fails := x.fails + 1, goodSince := none }
      if s.pacer.rails[r].fails = 3 then
        let s := s.onRail r fun x => { x with down := true }
        if r.val < 4 then ((s.raise 0x9030 [r.val]).dropRise (Fin.ofNat 4 r.val) 0).lowerTo (Fin.ofNat 4 r.val) 1000 else s.raise 0x9031 [r.val]
      else s)

/-! ## Droop (R568, R569) -/

/-- DROOP_TRIP (R568, R576): a Blade rail (0, 1) or the VCORE rail (2) of die `d` falls below 94 %; the die stretches its clocks,
and every slice under way on it is discarded. -/
def execDroopTrip (d : Fin 2) (rail : Fin 3) (s : State) : Host.Outcome State Fault Refusal :=
  .next (
    if s.inReset then s else
    if (s.dies[d]).stretch.isSome then s
    else
      let s := s.onDie d fun x => { x with stretch := some s.clock.now }
      let s := if rail.val < 2 then s.bump (0x9100 + 2 * d.val + rail.val) 7 1 else s.bump (0x9120 + d.val) 2 1
      { s with seat := Vector.ofFn fun u : Fin 36 =>
          let x := s.seat[u]
          let here := if u.val < 16 then dieOf 8 u.val else if u.val < 32 then dieOf 8 (u.val - 16) else dieOf 2 (u.val - 32)
          if here = d then { x with run := x.run.map fun _ => true } else x })

/-- STRETCH_END (R568, R569): after at least 256 doubled cycles and recovery to 97 % the die returns to full clock in four steps
of 64 cycles, three of them still stretched. -/
def execStretchEnd (d : Fin 2) (cycles : Nat) (s : State) : Host.Outcome State Fault Refusal :=
  .next (
    if (s.dies[d]).stretch.isSome ∧ 256 ≤ cycles then
      let s := s.onDie d fun x => { x with stretch := none }
      (s.bump (0x9100 + 2 * d.val) 8 (cycles + 192)).bump (0x9100 + 2 * d.val + 1) 8 (cycles + 192)
    else s)

end Sys2Proof.Machine
end

