-- ==== Sys2Proof/Machine/Seat.lean ====
section
/-! DEFINITION. Seat test: slices in the maintenance slot, grants, signatures, rotation (R573 to R579). -/
namespace Sys2Proof.Machine

/-- Change one unit under seat test. -/
def State.onSeat (s : State) (u : Fin 36) (f : SeatUnit → SeatUnit) : State := { s with seat := updAt s.seat u f }

/-- What a unit of the grant word is: its kind as `State.holder` names it, and its number. -/
def seatKind (u : Fin 36) : Nat × Nat :=
  if u.val < 16 then (2, u.val) else if u.val < 32 then (3, u.val - 16) else (1, u.val - 32)

/-- The Blade that a unit is. -/
def seatBlade (u : Fin 36) : Option (Fin 4) := if 32 ≤ u.val then some (Fin.ofNat 4 (u.val - 32)) else none

/-- Slices of a campaign (Table 13-3). -/
def campaign (u : Fin 36) : Nat := if u.val < 16 then 32 else if u.val < 32 then 16 else 160

/-- Cycles of a slice and the unit's clock in MHz (Table 13-3). -/
def State.sliceClock (s : State) (u : Fin 36) : Nat × Nat :=
  match seatBlade u with
  | some n => (1024, s.mhz n)
  | none => (512, if u.val < 16 then 1650 else 1600)

/-- The window of R576: clock and rail; the VCORE rails are 850 mV (Table 16-7). -/
def State.seatWindow (s : State) (u : Fin 36) : Bool :=
  let f := (s.sliceClock u).2
  let (mv, nominal) := match seatBlade u with
    | some n => ((s.pacer.rails[Fin.ofNat 10 n.val]).mv, Config.nominalVoltage s.pacer.cal n.val f)
    | none => ((s.pacer.rails[Fin.ofNat 10 (4 + u.val % 16 / 8)]).mv, 850)
  decide (1000 ≤ f ∧ f ≤ 3300 ∧ 97 * nominal ≤ 100 * mv ∧ 100 * mv ≤ 103 * nominal)

/-- Whether a slice that starts now would end before the next stroke edge. -/
def State.sliceFits (s : State) (u : Fin 36) : Bool :=
  let c := s.sliceClock u
  decide (s.clock.now < s.edgeAfter s.clock.now ∧ 1000 * c.1 < (s.edgeAfter s.clock.now - s.clock.now) * c.2)

/-- A slice starts; on a Blade it clears the weight registers, the retain slots and the Finish regions (R573). -/
def State.startSlice (s : State) (u : Fin 36) : State :=
  let s := s.onSeat u fun x => { x with run := some false }
  match seatBlade u with
  | none => s
  | some n =>
    { s.onBlade n fun b => { b with active := {}, shadow := {}, slots := .replicate 4 {} } with
      mem := s.mem.filter fun c => !(finishKey n.val 0 ≤ c.1 && c.1 < finishKey n.val (2 ^ 22)) }

/-- The units that the RUNNING Heats grant (R575): each grant word is read and written to 0; a bit that names a unit outside
the Heat's Crew, or a Blade outside its lanes, is ignored and counted. A grant word that may not be written faults its Heat with
ADDR and grants nothing (R199, R313). -/
def State.readGrants (s : State) : State × List Nat :=
  if s.entry 0xB000 2 = 0 then (s, [])
  else (List.finRange 4).foldl (fun (p : State × List Nat) c =>
    match p.1.runningOf c with
    | none => p
    | some h =>
      let at_ := p.1.entry (0xB100 + h.val) 1
      if at_ = 0 then p
      else
        let a := p.1.accOf h
        if p.1.writable a at_ 8 = false then (p.1.faultHeat h 0 (p.1.lane h 0).pc .addr, p.2) else
        let w := p.1.loadNat a at_ 8
        let lanes := (p.1.heats[h].lanes.toList.map (·.blades)).foldl Nat.lor 0
        let named := (List.finRange 36).filter fun u => bitOf w u.val
        let good := named.filter fun u =>
          let k := seatKind u
          p.1.holder k.1 k.2 == some c && (k.1 != 1 || bitOf lanes k.2)
        ((p.1.storeNat a at_ 8 0).bump 0xB000 0xC (named.length - good.length), p.2 ++ good.map (·.val))) (s, [])

/-- Each eligible unit starts its next slice: those in no Crew, and those granted (R574). -/
def State.sliceUnits (s : State) (granted : List Nat) : State :=
  if s.entry 0xB000 1 = 0 then s
  else (List.finRange 36).foldl (fun (s : State) u =>
    let k := seatKind u
    let out : Bool := match seatBlade u with
      | some n => !bitOf s.bladeMap n.val || s.blades[n].seatTest
      | none => false
    if out ∨ s.slicing u ∨ ((s.holder k.1 k.2).isSome ∧ !granted.contains u.val) then s
    else if !s.sliceFits u then s.bump 0xB000 8 1
    else if !s.seatWindow u then s.bump 0xB000 7 1
    else s.startSlice u) s

/-- SEAT_SLICE_START (R574). -/
def State.startSlices (s : State) : State :=
  let (s, granted) := s.readGrants
  s.sliceUnits granted

/-- Without a maintenance slot, slices fall to the idle units: those in no Crew start one at the stroke edge (R459; DESIGN CHOICE, log
71). -/
def State.idleSlices (s : State) : State := if s.slotLength = 0 then s.sliceUnits [] else s

/-- The instruction that waited for a slice goes on, and its wait is counted (R575). -/
def State.afterSlice (s : State) (u : Fin 36) : State :=
  let s := match (s.seat[u]).waitSince with
    | some t => (s.bump 0xB000 0xD (s.clock.now - t)).onSeat u fun x => { x with waitSince := none }
    | none => s
  if u.val < 16 then State.scullHead (Fin.ofNat 16 u.val) 8 s
  else if u.val < 32 then State.launchHead (Fin.ofNat 16 (u.val - 16)) 9 s
  else s.bladeHead (Fin.ofNat 4 (u.val - 32))

/-- A rotation ends: the Blade is IDLE again (R579). -/
def State.endRotation (s : State) (n : Fin 4) : State :=
  (s.onBlade n fun b => { b with seatTest := false }).onSeat (bladeUnit n) fun x => { x with returning := false, run := none }

/-- A rotated-out Blade goes on to its next slice, unless a RETURN waits. -/
def State.nextRotated (s : State) (u : Fin 36) : State :=
  match seatBlade u with
  | none => s
  | some n =>
    if !s.blades[n].seatTest then s
    else if (s.seat[u]).returning then s.endRotation n
    else s.startSlice u

/-- SEAT_SLICE_END (R576 to R578): the signature is compared. A slice that a droop stretch met is discarded; a match advances
the campaign; a mismatch marks the unit SUSPECT with EV-B010 and stops the job of its Crew. -/
def execSeatSliceEnd (u : Fin 36) (signature : BitVec 64) (s : State) : Host.Outcome State Fault Refusal :=
  .next (match (s.seat[u]).run with
    | none => s
    | some dropped =>
      let k := seatKind u
      let i := (s.seat[u]).next
      let s := s.onSeat u fun x => { x with run := none }
      let s :=
        if dropped then (s.bump 0xB000 7 1).nextRotated u
        else
          let s := s.bump 0xB000 6 1
          let s := if s.entry 0xB000 5 = 1 then { s with sigDump := s.sigDump ++ [(u.val, i, signature.toNat)] } else s
          let want := Config.expectedSignature s.pacer.cal u.val i
          if signature = want then
            if i + 1 < campaign u then (s.onSeat u fun x => { x with next := i + 1 }).nextRotated u
            else
              let s := (s.bump 0xB000 0xB 1).onSeat u fun x => { x with next := 0, doneAt := s.clock.now }
              match seatBlade u with
              | some n => if s.blades[n].seatTest then (s.endRotation n).raiseUnit (dieOf 2 n.val) 0xB001 1 n.val [n.val] else s
              | none => s
          else
            let d : Fin 2 := if u.val < 32 then dieOf 8 (u.val % 16) else dieOf 2 k.2
            let s := (s.bump 0xB000 9 1).raiseUnit d 0xB010 k.1 k.2 [i, signature.toNat, want.toNat]
            let s := s.onSeat u fun x => { x with suspect := true }
            let s := match seatBlade u with
              | some n => if s.blades[n].seatTest then s.endRotation n else s
              | none => s
            match s.holder k.1 k.2 with
            | some c => s.stopJob c .localFault 0xFF
            | none => s
      s.afterSlice u)

/-! ## Rotation (R579) -/

/-- Whether ROTATE_OUT is refused with ST-B0: the Blade is in a lane of a RUNNING or PREEMPTED Heat. -/
def State.bladeInUse (s : State) (n : Fin 4) : Bool :=
  s.heats.toList.any fun h => (h.status == .running || h.status == .preempted) && h.lanes.toList.any fun l => bitOf l.blades n.val

/-- A Blade is taken out of service: SEAT_TEST, 3,300 MHz, its campaign from the first slice. -/
def State.rotateOut (s : State) (n : Fin 4) : State :=
  if s.bladeInUse n ∨ s.blades[n].seatTest ∨ !bitOf s.bladeMap n.val then s
  else
    let s := s.onBlade n fun b => { b with seatTest := true }
    let s := if 3300 < s.mhz n then s.lowerTo n 3300 else s.raiseTo n 3300
    (s.onSeat (bladeUnit n) fun x => { x with next := 0, returning := false }).startSlice (bladeUnit n)

/-- ROTATE_OUT (R579). -/
def execRotateOut (n : Fin 4) (s : State) : Host.Outcome State Fault Refusal := .next (s.rotateOut n)

/-- A RETURN: the campaign ends after the slice in progress. -/
def State.returnBlade (s : State) (n : Fin 4) : State :=
  if s.blades[n].seatTest then
    if s.slicing (bladeUnit n) then s.onSeat (bladeUnit n) fun x => { x with returning := true } else s.endRotation n
  else s

/-- RETURN (R579). -/
def execReturn (n : Fin 4) (s : State) : Host.Outcome State Fault Refusal := .next (s.returnBlade n)

/-- AUTOMATIC_ROTATION (R579): an enabled Blade without a completed campaign for 0xB000.04 s, one of the module at a time. -/
def execAutomaticRotation (n : Fin 4) (s : State) : Host.Outcome State Fault Refusal :=
  .next (
    if s.entry 0xB000 3 = 1 ∧ bitOf s.bladeMap n.val ∧ s.bladeInUse n = false ∧ s.blades.toList.all (fun b => !b.seatTest) then
      (s.advanceTo ((s.seat[bladeUnit n]).doneAt + s.entry 0xB000 4 * 1000000000)).rotateOut n
    else s)

end Sys2Proof.Machine
end

