-- ==== Sys2Proof/Machine/Trust.lean ====
section
/-! DEFINITION. Trust in service: key epochs, weight keys, the scrub of a Crew, the random-number generators (R505, R525 to
R536, R544 to R546). -/
namespace Sys2Proof.Machine

/-- Change the trust state of a Crew. -/
def State.onTrust (s : State) (c : Fin 4) (f : CrewTrust → CrewTrust) : State := { s with trust := updAt s.trust c f }

/-! ## Random-number generators (R505) -/

/-- The dies whose TRNG is healthy (0x8000.09). -/
def State.trngMask (s : State) : Nat := (if s.dies[0].trngBad then 0 else 1) + if s.dies[1].trngBad then 0 else 2

/-- Whether a new key may be drawn. -/
def State.trngOk (s : State) : Bool := s.trngMask == 3

/-- TRNG_HEALTH_FAILURE (R505): the die's bit is cleared, EV-8060. -/
def execTrngHealthFailure (d : Fin 2) (s : State) : Host.Outcome State Fault Refusal :=
  .next (if s.inReset then s else (s.onDie d fun x => { x with trngBad := true }).raiseOn d { ts := s.stamp, code := 0x8060, payload := [d.val] })

/-- The keys of a power-up that are due (Table 12-1, R591), each as soon as the TRNG of its dies is healthy: the module memory root,
and once Xefin is up the management key pair. -/
def State.drawPowerUpKeys (s : State) : State :=
  let s :=
    if s.boot = .running ∧ s.keys.moduleRoot.isNone ∧ s.trngOk then
      let (k, s) := s.drawBytes 32
      { s with keys := { s.keys with moduleRoot := some k } }
    else s
  if s.xefin.phase ≠ 0 ∧ s.dies[0].trngBad = false ∧ s.blobs.all (fun b => b.1 != entryKey 0xC010 1) then
    let (k, s) := s.drawBytes 1184
    s.setBlob 0xC010 1 k
  else s

/-- TRNG_HEALTH_RECOVERY (R505): after 1,024 consecutive windows that pass the die may draw keys again. -/
def execTrngHealthRecovery (d : Fin 2) (s : State) : Host.Outcome State Fault Refusal :=
  .next (s.onDie d fun x => { x with trngBad := false }).drawPowerUpKeys

/-! ## The keys of the boot ROM (R504, R507) -/

/-- The boot ROM rebuilds the device secret and derives the flash key and the attestation seed from it. -/
def State.readPuf (s : State) : State :=
  let d := beBytes 32 (Config.pufSecret (s.parts[8]).slots[0].image).toNat
  { s with keys := { s.keys with deviceSecret := some d, flash := some (kdf d "ULFK" []), attest := some (kdf d "ULAK" []) } }

/-- The boot ROM erases the device secret before it runs any image. -/
def State.eraseSecret (s : State) : State := { s with keys := { s.keys with deviceSecret := none } }

/-! ## Keys of a Crew (R529 to R533) -/

/-- New keys: a memory root at epoch 1 and a receipt key pair of the next generation (R529, R533). The keys are free. -/
def State.drawCrewKeys (s : State) (c : Fin 4) : State :=
  let (root, s) := s.drawBytes 32
  let (k, s) := s.drawBytes 1184
  let s := (s.setEntry (0x8200 + c.val) 2 1).setEntry (0x8200 + c.val) 3 0
  let s := s.onTrust c fun x => { x with root := some root, oldRoot := none, receipt := some k, generation := (x.generation + 1) % 2 ^ 32 }
  s.setEntry (0x8400 + c.val) 2 (s.trust[c]).generation

/-- The epoch byte after `e`: 0 is skipped (R529). -/
def nextEpoch (e : Nat) : Nat := if (e + 1) % 256 = 0 then 1 else (e + 1) % 256

/-- Old-epoch pages (0x82cc.04): the pages of the Crew's ACTIVE regions whose epoch byte is the previous one (R531, R532). -/
def Region.pagesOf (g : Region) (e : Nat) : Nat :=
  g.pageEpoch.countP (fun p => p.2 == e) + if g.fillEpoch = e then g.extent * g.list.length - g.pageEpoch.length else 0
@[inherit_doc Region.pagesOf] def State.oldPages (s : State) (c : Fin 4) : Nat :=
  let e := s.entry (0x8200 + c.val) 3
  if e = 0 then 0
  else (s.regions.toList.map fun g => if g.state = .active ∧ g.owner = c.val then g.pagesOf e else 0).sum

/-- What refuses ROTATE (R505, R530). -/
def State.rotateStatus (s : State) (c : Fin 4) : Nat :=
  if s.crews[c].state = .scrub then 0x85
  else if s.entry (0x8200 + c.val) 3 ≠ 0 then 0x80
  else if !s.trngOk then 0x88 else 0

/-- ROTATE acts (R530): a new root, E + 1 current and E previous, EV-8040. -/
def State.rotate (s : State) (c : Fin 4) : State :=
  let e := s.entry (0x8200 + c.val) 2
  if s.rotateStatus c ≠ 0 ∨ e = 0 then s
  else
    let (root, s) := s.drawBytes 32
    let s := s.onTrust c fun x => { x with root := some root, oldRoot := x.root }
    let s := (s.setEntry (0x8200 + c.val) 3 e).setEntry (0x8200 + c.val) 2 (nextEpoch e)
    (s.bump (0x8200 + c.val) 5 1).raise 0x8040 [c.val, nextEpoch e]

/-- ROTATE (R530). -/
def execRotate (c : Fin 4) (s : State) : Host.Outcome State Fault Refusal := .next (s.rotate c)

/-- Whether an old-epoch page of a region lies on a FAILED channel, which keeps it in the count (R532). -/
def State.oldOnFailed (s : State) (g : Region) (e : Nat) : Bool :=
  (g.list.zipIdx.filter fun p => s.channels[Fin.ofNat 384 p.1].failed).any fun p =>
    let n := g.list.length
    let own := g.pageEpoch.filter fun q => q.1 % n == p.2
    own.any (·.2 == e) || (g.fillEpoch == e && own.length < g.extent)

/-- REKEY_PASS_DONE (R531): the pass has rewritten every page of the previous epoch under the current one; the old root is
discarded, EV-8041. -/
def execRekeyPassDone (c : Fin 4) (s : State) : Host.Outcome State Fault Refusal :=
  .next (
    let e := s.entry (0x8200 + c.val) 3
    let now := s.entry (0x8200 + c.val) 2
    let mine := fun (g : Region) => g.state == .active && g.owner == c.val
    if e = 0 ∨ (s.regions.toList.any fun g => mine g && s.oldOnFailed g e) then s
    else
      let s := { s with
        regions := s.regions.map fun (g : Region) =>
        if mine g then
          { g with
            fillEpoch := if g.fillEpoch = e then now else g.fillEpoch
            pageEpoch := g.pageEpoch.foldl (fun (m : List (Nat × Nat)) (p : Nat × Nat) =>
              sparseSet (if g.fillEpoch = e then now else g.fillEpoch) m p.1 (if p.2 = e then now else p.2)) [] }
        else g }
      ((s.onTrust c fun x => { x with oldRoot := none }).setEntry (0x8200 + c.val) 3 0).raise 0x8041 [c.val, now])

/-! ## Weight keys (R534 to R536) -/

/-- The key that a delivery brings (R534): the wrapping key comes from the decapsulated secret, the Crew, the slot and the generation
of the receipt key. -/
def weightKey (receipt : List Byte) (c slot generation : Nat) (bs : List Byte) : List Byte :=
  let ss := beBytes 32 (Config.kemSecret receipt ((bs.drop 1).take 1088)).toNat
  beBytes 32 (Config.keyUnwrap (kdf ss "ULWK" (beBytes 1 c ++ beBytes 1 slot ++ beBytes 4 generation)) (bs.drop 1089)).toNat

/-- A key delivery (R534): `unwraps` says whether the wrapped key unwraps under the Crew's receipt key. The status. -/
def State.deliverKey (s : State) (c : Fin 4) (bs : List Byte) (unwraps : Bool) : Nat × State :=
  let slot := (bs.getD 0 0).toNat
  if bs.length ≠ 1129 ∨ 8 ≤ slot then (0x07, s)
  else if (s.trust[c]).receipt.isNone ∨ unwraps = false then (0x86, s)
  else
    let m := s.entry (0x8400 + c.val) 4
    let key := weightKey ((s.trust[c]).receipt.getD []) c.val slot (s.trust[c]).generation bs
    let s := s.onTrust c fun x => { x with weights := (slot, key) :: x.weights.filter (·.1 != slot) }
    (0, (s.setEntry (0x8400 + c.val) 4 (if bitOf m slot then m else m + 2 ^ slot)).raise 0x8050 [c.val, slot])

/-- What refuses an UNSEAL request (R535, R536). -/
def State.unsealStatus (s : State) (c : Fin 4) (req : Nat) : Nat :=
  if (s.trust[c]).unsealing.isSome ∨ !bitOf (s.entry (0x8400 + c.val) 4) (bitsOf req 104 3) then 0x87
  else match s.regionAt (bitsOf req 64 40) with
    | some r => if s.regions[r].owner = c.val ∧ s.regions[r].pack = false then 0 else 0x07
    | none => 0x07

/-- An UNSEAL begins: 0x84cc.06 RUNNING. Reserved bits are ignored and read 0 (R12). -/
def State.startUnseal (s : State) (c : Fin 4) (req : Nat) : State :=
  if s.unsealStatus c req ≠ 0 then s
  else (((s.setBlob (0x8400 + c.val) 5 (leBytes 32 (req % 2 ^ 107))).onTrust c fun x => { x with unsealing := some (req, 0) }).setEntry
    (0x8400 + c.val) 6 1).setEntry (0x8400 + c.val) 7 0

/-- UNSEAL (R535): the request of 32 bytes. -/
def execUnseal (c : Fin 4) (req : BitVec 256) (s : State) : Host.Outcome State Fault Refusal := .next (s.startUnseal c req.toNat)

/-- UNSEAL_SEGMENT_DONE (R535, R536): the next segment of the image whose header is `header` has been read and decrypted to
`plain`. A segment whose tag fails, or whose destination may not be written (R199, R313), stops the UNSEAL: FAILED, EV-8051; one
bound for a FAILED channel is not delivered (R332). The last segment sets DONE. -/
def execUnsealSegmentDone (c : Fin 4) (header : BitVec 512) (plain : List (BitVec 8)) (tagOk : Bool) (s : State) :
    Host.Outcome State Fault Refusal :=
  .next (match (s.trust[c]).unsealing with
    | none => s
    | some (req, k) =>
      let i := 0x8400 + c.val
      let total := bitsOf header.toNat 96 64
      let bytes := plain.take (min 65536 (total - 65536 * k))
      let a : Acc := { crew := c.val, mask := none, launch := false }
      let at_ := bitsOf req 64 40 + 65536 * k
      let span : Span := { at_ := at_, len := bytes.length, write := true }
      if tagOk = false ∨ bitsOf header.toNat 0 32 ≠ 0x554C5745 ∨ s.writable a at_ bytes.length = false then
        ((s.setEntry i 6 3).onTrust c fun x => { x with unsealing := none }).raise 0x8051 [c.val, k]
      else if s.delivers [span] = false then s
      else
        let s := ((s.store a at_ bytes).holdSpans c.val [span]).bump i 7 bytes.length
        if total ≤ 65536 * (k + 1) then (s.setEntry i 6 2).onTrust c fun x => { x with unsealing := none }
        else s.onTrust c fun x => { x with unsealing := some (req, k + 1) })

/-! ## The scrub (R544, R545) -/

/-- What refuses SCRUB (R505, R544). -/
def State.scrubStatus (s : State) (c : Fin 4) : Nat :=
  if s.crews[c].state = .scrub then 0x85
  else if (List.finRange 64).any fun h => crewOf h == c && (s.heats[h].status == .running || s.heats[h].status == .preempted) then 0x71
  else if !s.trngOk then 0x88 else 0

/-- The credits of the frames that the Crew's receive slots hold return. -/
def State.freeCrewSlots (s : State) (c : Fin 4) : State :=
  (List.finRange 4).foldl (fun (s : State) n =>
    if bitOf (s.crewBlades c) n.val then
      s.blades[n].recv.toList.foldl (fun (s : State) r => s.freeSlotCredits c.val r.credits) s
    else s) s

/-- Regions of a Crew leave: OFF, but the Logbook region (Table 12-9). -/
def State.dropRegions (s : State) (c : Fin 4) : State :=
  (List.finRange 64).foldl (fun (s : State) r =>
    if s.regions[r].owner = c.val ∧ s.entry 0xA000 1 ≠ r.val ∧ s.entry (0x4100 + r.val) 5 ≠ 0 then
      ((s.invalidateRegion r).setEntry (0x4100 + r.val) 5 0).onRegion r fun g => { g with state := .off }
    else s) s

/-- The Oarlocks of the Sweeps in which a Crew has a share that are ADMITTED. -/
def State.sharedOars (s : State) (c : Fin 4) : List (Fin 24) :=
  (List.finRange 24).filter fun o => s.oarlocks[o].state == .admitted &&
    (match s.sweepOf o with
      | some w => s.hasShare c.val w.val
      | none => false)

/-- The scrub starts: the first two microseconds of Table 12-9. -/
def State.startScrub (s : State) (c : Fin 4) : State :=
  let blades := s.crewBlades c
  let units := [(1, blades), (2, s.entry (0x7000 + c.val) 2), (3, s.entry (0x7000 + c.val) 3),
    (6, s.entry 0x4200 (c.val + 1)), (7, s.entry 0x4201 (c.val + 1))]
  let s := s.onCrew c fun x => { x with
    state := .scrub, scrubFrom := s.clock.now, scrubUnits := units, sems := [], holders := [], parked := [] }
  let s := { s with
    blades := Vector.ofFn fun n : Fin 4 => if bitOf blades n.val then { s.blades[n] with scrubbing := true } else s.blades[n]
    heats := Vector.ofFn fun h : Fin 64 =>
      if crewOf h = c then { s.heats[h] with status := .idle, save := none, saveValid := false } else s.heats[h] }
  let s := ((s.setEntry (0x8200 + c.val) 2 0).setEntry (0x8200 + c.val) 3 0).setEntry (0x8400 + c.val) 4 0
  let s := if (s.trust[c]).unsealing.isSome then s.setEntry (0x8400 + c.val) 6 3 else s
  let s := s.onTrust c fun x => { x with root := none, oldRoot := none, receipt := none, weights := [], unsealing := none }
  let s := (s.dropRegions c).freeCrewSlots c
  let s := s.clearCrewUnits c
  let first := s.entry (0x6100 + c.val) 7
  let n := s.entry (0x6100 + c.val) 8
  let s := { s with
    dies := s.dies.map fun (d : Die) => { d with
      pins := d.pins.filter (·.crew != c.val), lines := d.lines.filter (·.crew != c.val)
      trackers := d.trackers.filter (·.crew != c.val) }
    tags := s.tags.filter fun t => !(first ≤ t.1 && t.1 < first + n) }
  let s := s.onSlip c fun _ => {}
  let s := (s.bump (0x8200 + c.val) 6 1).raise 0x8030 [c.val]
  (s.sharedOars c).foldl (fun (s : State) o => (s.fillIdle o).sendCrewUpdate o c) s

/-- SCRUB (R545). -/
def execScrub (c : Fin 4) (s : State) : Host.Outcome State Fault Refusal :=
  .next (if s.scrubStatus c ≠ 0 then s else s.startScrub c)

/-- SCRUB_END (R545): at the first edge at or after 1,000 µs from the commit, new keys are drawn, the Crew and its Blades are
IDLE, the wires carry NORMAL again (R411), EV-8031 names the Oarlocks left UNKEYED. -/
def execScrubEnd (c : Fin 4) (s : State) : Host.Outcome State Fault Refusal :=
  .next (
    if s.crews[c].state ≠ .scrub ∨ !s.trngOk then s
    else
      let due := s.crews[c].scrubFrom + 1000000
      let s := s.advanceTo (s.edgeAfter (due - 1))
      let us := (s.clock.now - s.crews[c].scrubFrom) / 1000
      let s := (s.sharedOars c).foldl (fun (s : State) o => s.repeatIdle o us) s
      let held := (s.crews[c].scrubUnits.find? (·.1 == 1)).map (·.2)
      let s := { s with
        blades := Vector.ofFn fun n : Fin 4 =>
        if bitOf (held.getD 0) n.val then { s.blades[n] with scrubbing := false } else s.blades[n] }
      let s := (s.onCrew c fun x => { x with state := .normal, scrubUnits := [] }).drawCrewKeys c
      let s := (List.finRange 24).foldl (fun (s : State) o => s.fillIdle o) s
      let unkeyed := (List.finRange 24).foldl (fun m o => if s.oarlocks[o].crewKeys[c].unkeyed then m + 2 ^ o.val else m) 0
      (s.setEntry (0x8200 + c.val) 8 s.stamp).raise 0x8031 [c.val, unkeyed])

end Sys2Proof.Machine
end

