-- ==== Sys2Proof/Machine/Part.lean ====
section
/-! DEFINITION. Flash images, boot, and the update of a part in service (R508 to R519, R608 to R612). -/
namespace Sys2Proof.Machine

/-! ## Images (R508 to R511) -/

/-- Slot sizes (Table 12-2). -/
def slotSize (comp : Nat) : Nat :=
  match comp with
  | 1 => 4 * 2 ^ 20 | 2 => 32 * 2 ^ 20 | 3 => 2 * 2 ^ 20 | 4 => 2 ^ 20 | 5 => 8 * 2 ^ 20 | 6 => 4 * 2 ^ 20 | 7 => 2 ^ 16
  | _ => 2 ^ 18

/-- The other slot. -/
def otherSlot (i : Fin 2) : Fin 2 := if i = 0 then 1 else 0

/-- The body of the owner key set in force, where one is enrolled: its count is not 0 (R517). -/
def State.ownerSet (s : State) : Option (List Byte) :=
  (s.parts[7].running.map fun i => (s.parts[7].slots[i]).body).filter fun b => b.getD 0 0 != 0

/-- The flags of the owner set: owner-only, vendor reset allowed. -/
def State.ownerFlags (s : State) : Nat := (s.ownerSet.map fun b => (b.getD 1 0).toNat).getD 0

/-- Whether a signer kind is accepted for a component (Table 12-2, R513, R518, R519). -/
def State.signerOk (s : State) (comp signer : Nat) : Bool :=
  let owned := s.ownerSet.isSome
  match comp with
  | 4 | 8 => signer == 0
  | 7 => (signer == 1 && owned) || (signer == 2 && (!owned || bitOf s.ownerFlags 1))
  | _ => (signer == 0 && !bitOf s.ownerFlags 0) || (signer == 1 && owned)

/-- The first check of R510 that an image fails, 0 where it verifies: 1 header, 2 digest, 3 signer, 4 signature (whose parameter set
R511 must accept), 5 svn, 6 the conditions of R518. `outside` is the verdict of the digest and of the signature, 0, 2 or 4. At boot the OWNER image that its own
activation recorded is not measured against a set that is not in force yet. -/
def State.imageCheck (s : State) (comp : Nat) (f : FlashSlot) (outside : Nat) (boot : Bool) : Nat :=
  let h := f.header
  let body := f.body
  if f.image.length < 128 ∨ bitsOf h 0 32 ≠ 0x554C494D ∨ bitsOf h 32 8 ≠ comp ∨ bitsOf h 40 8 ≠ 1 ∨ bitsOf h 50 14 ≠ 0
      ∨ bitsOf h 112 16 ≠ 0 ∨ bitsOf h 480 544 ≠ 0 then 1
  else if outside = 2 ∨ (0 < f.blen ∧ f.image.length < f.total) then 2
  else if !(s.signerOk comp f.signer || (boot && comp == 7 && (f.signer == 1 || f.signer == 2))) then 3
  else if outside ≠ 0 ∨ hssAccepted f.signature = false then 4
  else if f.svn < (s.parts[Fin.ofNat 9 comp]).rollback then 5
  else if comp = 7 ∧ ((body.drop 4).take 32 ≠ identityDigest
      ∨ ofLeBytes ((body.drop 36).take 4) + (if boot then 1 else 0) ≤ s.parts[7].seq) then 6
  else 0

/-! ## Boot (R512 to R514) -/

/-- Change a component. -/
def State.onPart (s : State) (comp : Fin 9) (f : Part → Part) : State := { s with parts := updAt s.parts comp f }

/-- The verdict of a boot row on a slot: two for each component, slot A first. -/
def bootCode (codes : List (BitVec 3)) (comp : Nat) (i : Fin 2) : Nat := (codes.getD (2 * (comp - 1) + i.val) 0).toNat

/-- Verifies a slot that holds an image: its state follows, EV-8001 where it fails (R513). -/
def State.verifySlot (s : State) (comp : Fin 9) (i : Fin 2) (codes : List (BitVec 3)) : State × Bool :=
  let f := s.parts[comp].slots[i]
  if f.image.isEmpty then (s, false)
  else
    let k := s.imageCheck comp.val f (bootCode codes comp.val i) true
    let st : FlashState := if k = 0 then .valid else if k = 5 then .rolledBack else .invalid
    let s := s.onPart comp fun p => { p with slots := updAt p.slots i fun f => { f with state := st } }
    (if k = 0 then s else s.raise 0x8001 [comp.val, i.val, k], k == 0)

/-- A component boots from its preferred slot, or from the other one with EV-8002 (R513). -/
def State.bootPart (s : State) (codes : List (BitVec 3)) (comp : Fin 9) : State :=
  let i := s.parts[comp].preferred
  let (s, ok) := s.verifySlot comp i codes
  if ok then s.onPart comp fun p => { p with running := some i }
  else
    let (s, ok) := s.verifySlot comp (otherSlot i) codes
    if ok then (s.onPart comp fun p => { p with running := some (otherSlot i) }).raise 0x8002 [comp.val, (otherSlot i).val]
    else s.onPart comp fun p => { p with running := none }

/-- The module state changes, EV-D020 (R626). -/
def State.moduleState (s : State) (n : Nat) : State :=
  if s.entry 0xD000 1 = n then s else (s.setEntry 0xD000 1 n).raise 0xD020 [s.entry 0xD000 1, n]

/-- RECOVERY_MODE_ENTRY (R514): no Blade is enabled, and the module never becomes READY. -/
def State.enterRecovery (s : State) (b : BootState) : State := { s with boot := b, bladeMap := 0 }.moduleState 3

/-- The body of the CAL image that boot verified. -/
def State.calBody (s : State) : List Byte := (s.parts[4].running.map fun i => (s.parts[4].slots[i]).body).getD []

/-- The Blade that this CAL image leaves disabled (R4). -/
def State.disabledBlade (s : State) : Option (Fin 4) := Config.disabledBlade s.calBody

/-- The verdicts on the slots of STAGE1 and of CAL, among those of all components. -/
def stage1Codes (stage1 cal : BitVec 3 × BitVec 3) : List (BitVec 3) := [stage1.1, stage1.2, 0, 0, 0, 0, cal.1, cal.2]

/-- STAGE1_START (R504, R507, R512 to R514): the boot ROM has rebuilt the device secret, derived its keys and erased it, and has
verified CAL and STAGE1; the CAL image names the disabled Blade of a UL430 (R4), whose stacks stay in self-refresh (R555). -/
def execStage1Start (puf : Bool) (stage1 cal : BitVec 3 × BitVec 3) (s : State) : Host.Outcome State Fault Refusal :=
  let codes := stage1Codes stage1 cal
  .next (
    if s.boot ≠ .rom ∨ s.inReset then s
    else if puf = false then { s with keys := {} }.enterRecovery .failed
    else
      let s := (if s.keys.deviceSecret.isNone then s.readPuf else s).eraseSecret
      let s := (s.bootPart codes 4).bootPart codes 1
      if (s.parts[4]).running.isNone ∨ (s.parts[1]).running.isNone then s.enterRecovery .recovery
      else
        let off := fun (n : Nat) => s.disabledBlade.any fun d => d.val == n
        { s with
          boot := .stage1, pacer := { s.pacer with cal := s.calBody }
          bladeMap := (List.range 4).foldl (fun m n => if off n then m else m + 2 ^ n) 0
          channels := Vector.ofFn fun ch : Fin 384 => { s.channels[ch] with present := !off (ch.val / 96) } })

/-- BOOT_RUNNING (R512 to R514, R564, R621): OWNER is verified first, then the other images; the Pacer runs, with the Blade rails at
the nominal voltage of 3,300 MHz; a trip recorded before this power-up raises EV-9022. -/
def execBootRunning (codes : List (BitVec 3)) (s : State) : Host.Outcome State Fault Refusal :=
  .next (
    if s.boot ≠ .stage1 ∨ s.inReset then s
    else
      let s := [(7 : Fin 9), 2, 3, 5, 6].foldl (fun (s : State) c => s.bootPart codes c) s
      if (s.parts[2]).running.isNone then s.enterRecovery .recovery
      else
        let missing := (s.parts[3]).running.isNone || (s.parts[5]).running.isNone || (s.parts[6]).running.isNone
        let s := { s with boot := .running, power := { s.power with incomplete := missing } }.drawPowerUpKeys
        let s := if (s.parts[3]).running.isSome then
          s.enabledBlades.foldl (fun (s : State) n =>
            ((s.setEntry (0x9100 + n.val) 2 3300).setEntry (0x9100 + n.val) 3 3300).setRail n 3300) s
          else s
        if s.power.tripRecord then { s with power := { s.power with tripRecord := false } }.raise 0x9022 [] else s)

/-- BACKGROUND_VERIFY_DONE (R512): every slot that boot did not verify has been verified. -/
def execBackgroundVerifyDone (codes : List (BitVec 3)) (s : State) : Host.Outcome State Fault Refusal :=
  .next (
    if s.boot ≠ .running ∨ s.power.bootSlots then s
    else
      let s := [(1 : Fin 9), 2, 3, 4, 5, 6, 7].foldl (fun (s : State) c =>
        if (s.parts[c]).running = some (s.parts[c]).preferred then (s.verifySlot c (otherSlot (s.parts[c]).preferred) codes).1 else s) s
      { s with power := { s.power with bootSlots := true } })

/-! ## Staging a part (R608, R609) -/

/-- A part changes state: 0xC3ii.07, EV-C010. -/
def State.partTo (s : State) (comp : Fin 9) (st : PartState) (slot : Fin 2) : State :=
  let old := s.parts[comp].state
  (s.onPart comp fun p => { p with state := st, changed := s.stamp }).raise 0xC010 [comp.val, old.code, st.code, slot.val]

/-- The inactive slot of a part, and the bytes written to it (0xC3ii.05). -/
def Part.inactive (p : Part) : Fin 2 := otherSlot p.active
@[inherit_doc Part.inactive] def Part.written (p : Part) : Nat :=
  if p.state = .staging ∨ p.state = .armed then p.slots[p.inactive].image.length else 0

/-- The last byte of an image has come (R609): it is verified, and the part is ARMED or back to IDLE. -/
def State.imageWhole (s : State) (comp : Fin 9) (i : Fin 2) (f : FlashSlot) (outside : Nat) : Nat × State :=
  let k := s.imageCheck comp.val f outside false
  let s := s.onPart comp fun q => { q with
    owner := 0, slots := updAt q.slots i fun f => { f with state := if k = 0 then .valid else .invalid } }
  if k = 0 then (0, s.partTo comp .armed i)
  else
    let status := if comp.val = 7 ∧ (k = 3 ∨ k = 4 ∨ k = 6) then 0x84
      else if k = 3 ∧ f.signer = 0 ∧ bitOf s.ownerFlags 0 then 0x83 else 0x81
    (status, (s.partTo comp .idle i).raise 0x8001 [comp.val, i.val, k])

/-- A write into the image window of a part by a session (R609): the status, and the state. The last byte is verified; `outside`
as for `State.imageCheck`. -/
def State.imageWrite (s : State) (comp : Fin 9) (session offset : Nat) (bytes : List Byte) (outside : Nat) : Nat × State :=
  let p := s.parts[comp]
  let i := p.inactive
  if p.state = .active ∨ (p.state = .staging ∧ p.owner ≠ session) then (0xC8, s)
  else if offset ≠ (if p.state = .staging then p.written else 0) then (0x0E, s)
  else
    let old := if p.state = .staging then p.slots[i].image else []
    let f : FlashSlot := { state := .empty, image := old ++ bytes }
    let known := 128 ≤ f.image.length
    if slotSize comp.val < f.image.length ∨ (known ∧ f.total < f.image.length) then (0x0E, s)
    else
      let s := s.onPart comp fun q => { q with slots := q.slots.set i f, owner := session }
      let s := if p.state = .staging then s else s.partTo comp .staging i
      if known ∧ f.image.length = f.total then s.imageWhole comp i f outside
      else (0, s)

/-- ABANDON (R609): the part returns to IDLE with its slot EMPTY. -/
def State.abandonPart (s : State) (comp : Fin 9) : State :=
  let p := s.parts[comp]
  if p.state = .staging ∨ p.state = .armed then
    (s.onPart comp fun q => { q with slots := q.slots.set p.inactive {}, owner := 0 }).partTo comp .idle p.inactive
  else s

/-! ## Activation (R515, R609 to R611) -/

/-- The hand-over version of a COXFW image and the oldest it takes over from (R611). -/
def FlashSlot.handover (f : FlashSlot) : Nat × Nat := (ofLeBytes (f.body.take 2), ofLeBytes ((f.body.drop 2).take 2))

/-- What refuses a part command (R515, R609): 1 ACTIVATE, 2 ABANDON. `pending` are the parts with an ACTIVATE pending. -/
def State.partStatus (s : State) (comp : Fin 9) (cmd : Nat) (pending : List Nat) : Nat :=
  let p := s.parts[comp]
  let f := p.slots[p.inactive]
  match cmd with
  | 0 => 0
  | 2 => if p.state = .staging ∨ p.state = .armed then 0 else 0xC8
  | _ =>
    if !(p.state == .armed || (p.state == .idle && f.state == .valid)) then 0xC8
    else if ((List.finRange 9).any fun c => c != comp && (s.parts[c]).state == .active) || pending.any (· != comp.val) then 0xC7
    else if f.svn < p.rollback then 0x82
    else if comp.val = 2 ∧ p.running.any (fun i =>
        let v := (p.slots[i].handover).1
        v < f.handover.2 || f.handover.1 < v) then 0xC9
    else 0

/-- The units that a part still has to change (0xC3ii.06, Table 12-12). -/
def State.unitsLeft (s : State) (comp : Fin 9) : Nat :=
  if (s.parts[comp]).state ≠ .active then 0
  else if comp.val = 5 then s.channels.toList.countP fun x => x.newTable && x.healthy && !x.failed
  else (s.parts[comp]).left

/-- The part's effect is complete (R610). -/
def State.endActive (s : State) (comp : Fin 9) : State :=
  (s.onPart comp fun q => { q with left := 0 }).partTo comp .idle (s.parts[comp]).active

/-- ACTIVATE takes effect: the slot selection and the rollback counter change together, EV-8003; what the part does next is Table
14-12. STAGE1 and CAL run from the next power-up: the Blade-enable map and the rated ceilings stay until then. -/
def State.activatePart (s : State) (comp : Fin 9) : State :=
  let p := s.parts[comp]
  let old := p.active
  let i := p.inactive
  let f := p.slots[i]
  let count := max p.rollback f.svn
  let s := s.onPart comp fun q => { q with
    preferred := i, rollback := count
    running := some i
    seq := if comp.val = 7 then ofLeBytes ((f.body.drop 36).take 4) else q.seq
    left := if comp.val = 2 then 16 else if comp.val = 3 then 2
      else if comp.val = 6 then s.oarlocks.toList.countP (·.state == .admitted) else 0
    slots := updAt q.slots old fun g =>
      if g.state = .valid ∧ g.svn < count then { g with state := .rolledBack } else g }
  let s := { (s.partTo comp .active i).raise 0x8003 [comp.val, i.val, f.signer, f.svn] with flashWrites := s.flashWrites + 1 }
  let s := if comp.val = 7 then s.raise 0x8010 [(s.parts[7]).seq] else s
  if comp.val = 5 then { s with channels := s.channels.map fun (x : Channel) => { x with newTable := x.healthy && !x.failed } }
  else if comp.val = 1 ∨ comp.val = 4 ∨ comp.val = 7 then s.endActive comp
  else s

/-- The component of a part command. -/
def partComp (part : Fin 7) : Fin 9 := ⟨part.val + 1, by omega⟩

/-- ACTIVATE (R609). -/
def execActivate (part : Fin 7) (s : State) : Host.Outcome State Fault Refusal :=
  .next (if s.partStatus (partComp part) 1 [] = 0 then s.activatePart (partComp part) else s)

/-- ABANDON (R609). -/
def execAbandon (part : Fin 7) (s : State) : Host.Outcome State Fault Refusal := .next (s.abandonPart (partComp part))

/-- PART_ACTIVE_END (R610): the activation is complete; HBMTRAIN once every channel that was healthy has retrained or FAILED. -/
def execPartActiveEnd (part : Fin 7) (s : State) : Host.Outcome State Fault Refusal :=
  let c := partComp part
  .next (if (s.parts[c]).state = .active ∧ (c.val ≠ 5 ∨ s.unitsLeft c = 0) then s.endActive c else s)

end Sys2Proof.Machine
end

