-- ==== Sys2Proof/Machine/Time.lean ====
section
/-! DEFINITION. Module time: the servo, the neighbour ticks, the timing pins (R440 to R454). -/
namespace Sys2Proof.Machine

/-- Whether any Heat is RUNNING or PREEMPTED (R443, R447). -/
def State.anyHeat (s : State) : Bool := s.heats.toList.any fun h => h.status == .running || h.status == .preempted

/-- Module time advances by one nanosecond of the local oscillator, steered by the frequency adjustment (R440, R447). -/
def State.tickTime (s : State) : State :=
  let t : Int := s.clock.now * 2 ^ 32 + s.clock.frac + 2 ^ 32 + s.clock.adjust * 2 ^ 32 / 1000000000
  { s with clock := { s.clock with now := (t / 2 ^ 32 % 2 ^ 64).toNat, frac := (t % 2 ^ 32).toNat } }

/-- What the block does when no command waits: module time moves on, unless the module is held in reset. -/
def State.idle (s : State) : State := if s.inReset then s else s.tickTime

/-- A transition of the time state (Table 10-3): EV-2001 with the old state, the new state and the offset. -/
def State.enterTime (s : State) (st : TimeState) : State :=
  if s.clock.state = st then s
  else ({ s with clock := { s.clock with state := st, good := 0 } }).raise 0x2001 [s.clock.state.code, st.code, s.clock.offset]

/-- Strokes are numbered anew from this instant (R442): the current one is what R440 gives, and pending commits whose edges lie
before it are passed. -/
def State.newGrid (s : State) : State :=
  { s with clock := { s.clock with stroke := s.strokeAt s.clock.now, gridFrom := some s.clock.now } }

/-- A step of module time (R447, R448): EV-2002 with the timestamps before and after it. -/
def State.stepTo (s : State) (t : Nat) : State :=
  let before := s.stamp
  let s := { s with clock := { s.clock with now := t % 2 ^ 64, frac := 0 } }
  s.newGrid.raise 0x2002 [before, s.stamp]

/-- A number held within bounds. -/
def clampInt (x lo hi : Int) : Int := max lo (min hi x)

/-- The sample of a servo update: the offset, the sample counter, the Erg signal (R447). -/
def State.servoSample (s : State) (off : Int) : State :=
  let s := (s.bump 0x2010 0xC 1).setEntry 0x2010 8 (ofSigned 32 off)
  { s with clock := { s.clock with offset := off, lastSample := s.clock.now } }.feed 6 0 off

/-- The state a sample brings about (Table 10-3): FREE and HOLDOVER go to ACQUIRING, and so does LOCKED on an offset over four
times the limit of 0x2010.04. -/
def State.servoState (s : State) (off : Int) : State :=
  match s.clock.state with
  | .free | .holdover => s.enterTime .acquiring
  | .locked => if 4 * s.entry 0x2010 4 < off.natAbs then s.enterTime .acquiring else s
  | .acquiring => s

/-- In ACQUIRING, 16 samples one after another within the limit bring LOCKED (Table 10-3). -/
def State.servoGood (s : State) (off : Int) : State :=
  let good := if off.natAbs ≤ s.entry 0x2010 4 then s.clock.good + 1 else 0
  let s' := { s with clock := { s.clock with good := good } }
  if s.clock.state = .acquiring then (if 16 ≤ good then s'.enterTime .locked else s') else s

/-- The frequency adjustment after a sample (R447, R448): within 200 ppm, and within 10 ppm of the estimate while a Heat runs. -/
def State.servoAdjust (s : State) (off : Int) (busy : Bool) : State :=
  let est := clampInt (Config.servoEstimate s.clock.estimate s.clock.adjust off) (-200000) 200000
  let out := clampInt (Config.servoGain est s.clock.adjust off) (-200000) 200000
  let adj := if busy then clampInt out (est - 10000) (est + 10000) else out
  { s with clock := { s.clock with adjust := adj, estimate := est } }.setEntry 0x2010 9 (ofSigned 32 adj)

/-- A servo sample (R447, R448): `off` ns is module time minus the reference. An offset above 1 µs is removed by one step
while no Heat is RUNNING or PREEMPTED; else the servo slews. -/
def State.servo (s : State) (off : Int) : State :=
  let s := ((s.servoSample off).servoState off).servoGood off
  let stepped := if 1000 < off.natAbs ∧ !s.anyHeat then s.stepTo ((s.clock.now : Int) - off).toNat else s
  stepped.servoAdjust off s.anyHeat

/-- The announce receipt timeout of IEEE 1588-2019 at the standard's default of three intervals of 2 s (R446; PRESUMED). -/
def announceTimeout : Nat := 6000000000

/-- The data set of the selected master (R446): none once its Announce messages have stayed away for the timeout. -/
def State.master (s : State) : List Nat :=
  if s.clock.masterAt + announceTimeout ≤ s.clock.now then [] else s.clock.master

/-- PTP_SYNC (R446, R447, R449): in PTP mode a Sync of the selected master in the module's domain, with its delay measurement: t1 sent, t2
received, t3 Delay_Req sent, t4 received, the two correction fields, in ns. The samples come from Sync again. -/
def execPtpSync (domain : BitVec 8) (source : Nat) (t1 t2 t3 t4 c1 c2 : Int) (s : State) : Host.Outcome State Fault Refusal :=
  .next (if s.inReset then s else if s.entry 0x2010 1 = 0 ∧ domain.toNat = s.entry 0x2010 3 ∧ s.master.getLast? = some source then
    ({ s with clock := { s.clock with parentTicks := false } }.emit { kind := .ptpDelayReq, fields := [domain.toNat, t3] }).servo (((t2 - t1 - c1) - (t4 - t3 - c2)) / 2)
  else s)

/-- Whether a data set is better than another: the first field that differs decides, the lower value is better. -/
def betterSet : List Nat → List Nat → Bool
  | a :: as, b :: bs => a < b || (a == b && betterSet as bs)
  | _, _ => false

/-- PTP_ANNOUNCE (R446): the master selection over received Announce messages: priority 1, class, accuracy, variance, priority 2,
grandmaster identity, steps removed, sender. -/
def execPtpAnnounce (domain : BitVec 8) (p1 class_ acc var p2 gm steps source : Nat) (s : State) :
    Host.Outcome State Fault Refusal :=
  let set := [p1, class_, acc, var, p2, gm, steps, source]
  .next (if s.inReset then s else if s.entry 0x2010 1 = 0 ∧ domain.toNat = s.entry 0x2010 3
      ∧ (s.master = [] ∨ s.master.getLast? = some source ∨ betterSet set s.master) then
    { s with clock := { s.clock with master := set, masterAt := s.clock.now } } else s)

/-- PPS_IN_EDGE (R447): in PIN mode a rising edge of 1PPS_IN. The first after the commit of 0x2000.07 sets module time; each other
gives the offset from the nearest whole second. -/
def execPpsInEdge (s : State) : Host.Outcome State Fault Refusal :=
  .next (if s.inReset then s else if s.entry 0x2010 1 = 2 then
    match s.clock.pinBase with
    | some sec =>
      let s := { s with clock := { s.clock with pinBase := none } }
      (s.stepTo (sec * 1000000000)).servo 0
    | none => s.servo (((s.clock.now + 500000000) % 1000000000 : Nat) - 500000000)
  else s)

/-- TICK_IN_EDGE (R454): event stamp, capture trigger, or ignored. -/
def execTickInEdge (s : State) : Host.Outcome State Fault Refusal :=
  .next (if s.inReset then s else match s.entry 0x2010 0xB with
    | 1 => s.raise 0x2040 [s.stamp]
    | 2 => s.snapshot
    | _ => s)

/-- REFERENCE_LOSS_TIMEOUT (R448, R449): no sample for 0x2010.06 ms takes a LOCKED module to HOLDOVER, which keeps the last
frequency estimate; in PTP mode the parent Sweep's TICKs are the samples until Sync returns. -/
def execReferenceLossTimeout (s : State) : Host.Outcome State Fault Refusal :=
  .next (if s.clock.state = .locked then
    let s := (s.advanceTo (s.clock.lastSample + s.entry 0x2010 6 * 1000000)).enterTime .holdover
    { s with clock := { s.clock with adjust := s.clock.estimate, parentTicks := s.entry 0x2010 1 == 0 } }.setEntry 0x2010 9 (ofSigned 32 s.clock.estimate)
  else s)

/-- PPS_OUT_SECOND (R453): at a whole second of module time 1PPS_OUT rises, for 100 ms. -/
def execPpsOutSecond (s : State) : Host.Outcome State Fault Refusal :=
  let t := s.clock.now / 1000000000 * 1000000000
  let due := if t = s.clock.now ∧ s.clock.ppsHigh ≠ some t then t else t + 1000000000
  .next (if s.inReset ∨ due < 40000000 then s else
    let s := s.advanceTo due
    { s with clock := { s.clock with ppsHigh := some due } }.emit { kind := .pin, unit := 0, fields := [1, 100000000] })

/-- TICK (R451, R452): the neighbour offset of the Sweep, in 1/16 ns, from its lowest-numbered ADMITTED Oarlock; a TICK of a stroke
that is neither the current one nor the one before is discarded. In LINK mode, and in PTP mode from HOLDOVER until Sync
returns, the parent Sweep's TICK is a servo sample (R447, R449). -/
def execTick (o : Fin 24) (w : RxWord) (s : State) : Host.Outcome State Fault Refusal :=
  .next (match s.takeWord o w 5, s.sweepOf o with
    | (s, true), some k =>
      let first := (s.sweepOars k.val).find? fun p => s.oarlocks[p].state == .admitted
      if s.entry (0x5200 + k.val) 1 = 0 ∨ first ≠ some o then s
      else
        let now := s.strokeAt s.clock.now
        let named := bitsOf w.bits.toNat 208 40
        let delay := bitsOf w.bits.toNat 192 16
        let n := if named = (now % 2 ^ 40).toNat then some now
          else if named = ((now - 1) % 2 ^ 40).toNat then some (now - 1) else none
        match n with
        | none => s.bump (0x2020 + k.val) 3 1
        | some n =>
          let edge : Int := (s.entry 0x2000 3 : Int) + (n - s.entry 0x2000 4) * s.period
          let arrival : Int := 16 * s.clock.now + s.clock.frac / 2 ^ 28
          let off := arrival - delay - s.entry (0x5100 + o.val) 0xB - 16 * edge
          let s := (s.setEntry (0x2020 + k.val) 1 (ofSigned 32 off)).feed 5 k.val (off / 16)
          let good := sparseGet 0 s.clock.withinLimit k.val
          let far := decide (16 * s.entry 0x2010 5 < off.natAbs)
          let s := { s with clock := { s.clock with
            withinLimit := sparseSet 0 s.clock.withinLimit k.val (if far then 0 else good + 1) } }
          let s : State := if far then
              let s := s.bump (0x2020 + k.val) 2 1
              if 1000 ≤ good then s.raiseSweep k.val 0x2010 [k.val, off, ((s.sweepPeer k.val).map (·.module)).getD 0] else s
            else s
          if s.entry 0x2010 2 = k.val ∧ (s.entry 0x2010 1 = 1 ∨ (s.entry 0x2010 1 = 0 ∧ s.clock.parentTicks)) then
            s.servo (off / 16)
          else s
    | (s, _), _ => s)

end Sys2Proof.Machine
end

