-- ==== Sys2Proof/Machine/View.lean ====
section
/-! DEFINITION. What a read of the dictionary shows (R139, R140, R582 to R585, R605, R615): the entries that report state which
stands elsewhere than in the register file. -/
namespace Sys2Proof.Machine

/-- ASCII bytes of a text, padded with NUL to 32 (Table 14-1, STR32). -/
def str32 (t : String) : List Byte := ((t.toList.map fun (c : Char) => BitVec.ofNat 8 c.toNat) ++ List.replicate 32 0).take 32

/-- The bits of a number below `n`, in ascending order. -/
def bitsBelow (n m : Nat) : List Nat := (List.range n).filter (bitOf m)

/-- A mask over the elements of a list. -/
def maskOf (l : List Bool) : Nat := l.foldr (fun b m => (if b then 1 else 0) + 2 * m) 0

/-! ## Claims (R604, R605) -/

/-- A claim: resource, index, sub-index and bit of the claimant. -/
structure Claim where
  resource : Nat
  index : Nat
  sub : Nat
  bit : Nat
deriving DecidableEq, Repr

/-- The claims of one Crew: Blades, Sculls, engines, with the Relay masks as a member, the tag range (Table 14-9). -/
def State.crewClaims (s : State) (c : Nat) : List Claim :=
  let mask := fun (kind n idx sub : Nat) =>
    (bitsBelow n (s.entry idx sub)).map fun i => (⟨kind * 4096 + i, idx, sub, i⟩ : Claim)
  let t0 := s.entry (0x6100 + c) 7
  let tn := s.entry (0x6100 + c) 8
  mask 3 4 (0x7000 + c) 1 ++ mask 4 16 (0x7000 + c) 2 ++ mask 4 16 (0x6100 + c) 0xC
    ++ mask 5 16 (0x7000 + c) 3 ++ mask 5 16 (0x6100 + c) 0xB
    ++ ((List.range 4096).filter fun t => t0 ≤ t && t < t0 + tn).map fun t => ⟨0x7000 + t, 0x6100 + c, 7, 0xFF⟩

/-- Every claim of Table 14-9 on a state, sorted by resource. -/
def State.claims (s : State) : List Claim :=
  let pins := (if s.entry 0x2010 0xA = 0 then [] else [(⟨0x1000, 0x2010, 0xA, 0xFF⟩ : Claim)])
    ++ (if s.entry 0x2010 0xB = 0 then [] else [(⟨0x1001, 0x2010, 0xB, 0xFF⟩ : Claim)])
  let ram := (if s.entry 0xA000 0xA = 1 then [(⟨0x2000, 0xA000, 0xA, 0xFF⟩ : Claim)] else [])
    ++ (if s.entry 0xB000 5 = 1 then [(⟨0x2000, 0xB000, 5, 0xFF⟩ : Claim)] else [])
  let banks := (List.range 2).flatMap fun d => (List.range 4).flatMap fun c =>
    (bitsBelow 64 (s.entry (0x4200 + d) (c + 1))).map fun b => (⟨0x6000 + 64 * d + b, 0x4200 + d, c + 1, b⟩ : Claim)
  (pins ++ ram ++ (List.range 4).flatMap s.crewClaims ++ banks).mergeSort fun a b =>
    a.resource < b.resource || (a.resource == b.resource && (a.index < b.index || (a.index == b.index && a.sub ≤ b.sub)))

/-- A record of 0xC200.01. -/
def Claim.bytes (k : Claim) : List Byte := beBytes 2 k.resource ++ beBytes 2 k.index ++ beBytes 1 k.sub ++ beBytes 1 k.bit ++ [0, 0]

/-! ## Numbers -/

/-- The Blade whose entry an index is, of the families 0x310n, 0x312n, 0x910n and 0xB01n. -/
def bladeOfIndex (idx : Nat) : Option Nat :=
  if (0x3100 ≤ idx ∧ idx < 0x3104) ∨ (0x3120 ≤ idx ∧ idx < 0x3124) ∨ (0x9100 ≤ idx ∧ idx < 0x9104)
      ∨ (0xB010 ≤ idx ∧ idx < 0xB014) then some (idx % 16) else none

/-- The state of a Blade (R140): RUNNING from a BLADE's passed check on; SCRUB stands before SEAT_TEST (DESIGN CHOICE, log 79). -/
def State.bladeCode (s : State) (n : Fin 4) : Nat :=
  let b := s.blades[n]
  if !bitOf s.bladeMap n.val then 0
  else if b.scrubbing then 4
  else if b.seatTest then 3
  else if b.runs.isEmpty && b.arrival.isNone then 1 else 2

/-- Healthy channels, all those of enabled Blades until training has ended (0x4000.02, R555, R623). -/
def State.healthyCount (s : State) : Nat :=
  if s.power.hbmTrained then s.channels.toList.countP (·.healthy) else 96 * popCount s.bladeMap

/-- The state of a stack (0x402s.01). -/
def State.stackCode (s : State) (k : Fin 12) : Nat :=
  let x := s.hbmStacks[k]
  if !bitOf s.bladeMap (k.val / 3) then 4
  else if x.tripped then 3 else if x.throttled then 2 else if x.ready then 1 else 0

/-- A mask over the channels of a stack. -/
def State.stackMask (s : State) (k : Fin 12) (f : Channel → Bool) : Nat :=
  maskOf ((List.range 32).map fun i => f s.channels[Fin.ofNat 384 (32 * k.val + i)])

/-- The entries of a component (Table 12-11). -/
def State.componentEntry (s : State) (comp : Fin 9) (sub : Nat) : Nat :=
  let p := s.parts[comp]
  let f := p.slots[p.active]
  match sub with
  | 1 => p.active.val
  | 2 => f.signer
  | 3 => f.version
  | 4 => f.svn
  | 5 => p.rollback
  | 6 => (p.slots[0]).state.code
  | 7 => (p.slots[1]).state.code
  | _ => 0

/-- The entries of a part (Table 14-15). -/
def State.partEntry (s : State) (comp : Fin 9) (sub : Nat) : Nat :=
  let p := s.parts[comp]
  match sub with
  | 1 => p.state.code
  | 2 => if p.state = .staging then p.owner else 0
  | 5 => p.written
  | 6 => s.unitsLeft comp
  | 7 => p.changed
  | _ => s.entry (0xC300 + comp.val) sub

/-- Entries of a Heat context that stand in its record: the sequencer (Table 05-18) and the Heat (Table 11-6). -/
def State.seqEntry (s : State) (h : Fin 64) (sub : Nat) : Option Nat :=
  let x := s.heats[h]
  match sub with
  | 1 => some x.status.code
  | 2 => some x.faultCode
  | 3 => some x.faultLane
  | 4 => some x.faultPc
  | 5 => some x.faultTs
  | 0xA => some (x.lanes[0].frame % 2 ^ 32)
  | 0xC => some x.lanes[0].pc
  | 0xD => some x.lanes[1].pc
  | 0xE => some x.lanes[2].pc
  | 0xF => some x.lanes[3].pc
  | _ => none

/-- Identity, time, Logbook, trust and Xefin entries of a single index. -/
def State.moduleEntry (s : State) (idx sub : Nat) : Option Nat :=
  match idx, sub with
  | 0x1000, 6 => some (Config.identityNat 0x1000 6 % 2 ^ 16)
  | 0x1010, 1 => some s.bladeMap
  | 0x1030, 6 => some (Config.identityNat 0x1030 6 % 2 ^ 48)
  | 0x2000, 5 => some s.stamp
  | 0x2000, 6 => some s.slotLength
  | 0x2010, 7 => some s.clock.state.code
  | 0x4000, 1 => some (maskOf ((List.range 12).map fun k => bitOf s.bladeMap (k / 3)))
  | 0x4000, 2 => some s.healthyCount
  | 0x4000, 3 => some (s.healthyCount * 360486 * 4096)
  | 0x5400, 1 => some s.peers.length
  | 0x8000, 2 => some s.boot.code
  | 0x8000, 3 => some s.signer.remaining
  | 0x8000, 4 => some (if s.ownerSet.isSome then 1 else 0)
  | 0x8000, 5 => some (s.parts[7]).seq
  | 0x8000, 6 => some s.ownerFlags
  | 0x8000, 9 => some s.trngMask
  | 0x8100, 1 => some (Config.identityNat 0x8100 1 % 2 ^ 32)
  | 0xA000, 9 => some s.logCapacity
  | 0xC000, 1 => some s.xefin.staged.length
  | 0xC000, 2 => some s.xefin.stager
  | 0xC000, 4 => some s.xefin.commits.length
  | 0xC010, 2 => some s.xefin.sessions.length
  | 0xC200, 2 => some s.claims.length
  | _, _ => none

/-- Entries of an indexed family that stand elsewhere than in the register file. -/
def State.familyEntry (s : State) (idx sub : Nat) : Option Nat :=
  let at_ := fun (base n : Nat) => base ≤ idx && idx < base + n
  if at_ 0x3110 1 then some (s.bladeCode (Fin.ofNat 4 (sub - 1)))
  else if at_ 0x7200 64 then s.seqEntry (Fin.ofNat 64 (idx - 0x7200)) sub
  else if at_ 0x7300 64 then
    let h := Fin.ofNat 64 (idx - 0x7300)
    match sub with
    | 9 => some (s.fullSaveKiB (crewOf h))
    | 0xF => some (if s.heats[h].held then 1 else 0)
    | 0x10 => some (if s.heats[h].saveValid then 1 else 0)
    | _ => none
  else if at_ 0x7000 4 then
    let c := Fin.ofNat 4 (idx - 0x7000)
    match sub with
    | 4 => some (s.crewCode c)
    | 7 => some s.crews[c].admission.length
    | 8 => some (s.crews[c].parked.countP (·.2 != 0))
    | _ => none
  else if at_ 0x4100 64 then
    let g := s.regions[Fin.ofNat 64 (idx - 0x4100)]
    match sub with
    | 0xA => some g.state.code
    | 0xB => some g.list.length
    | 0xC => some g.extent
    | _ => none
  else if at_ 0x4020 12 then
    let k := Fin.ofNat 12 (idx - 0x4020)
    match sub with
    | 1 => some (s.stackCode k)
    | 3 => some (s.stackMask k (·.healthy))
    | 4 => some (s.stackMask k (·.failed))
    | 5 => some (s.stackMask k (·.mappedOut))
    | _ => none
  else if at_ 0x4200 2 ∧ sub = 0x17 then some (s.dies[Fin.ofNat 2 (idx - 0x4200)]).pins.length
  else if at_ 0x6200 4 ∧ sub = 0xA then
    some (s.collectives.countP fun k => crewOf k.item.heat == Fin.ofNat 4 (idx - 0x6200))
  else if at_ 0x6400 64 ∧ sub = 2 then some (if s.heats[Fin.ofNat 64 (idx - 0x6400)].stepMark then 1 else 0)
  else if at_ 0x5100 24 ∧ sub = 1 then some (s.oarlocks[Fin.ofNat 24 (idx - 0x5100)]).state.code
  else if at_ 0x8500 24 ∧ sub = 3 then
    some (maskOf ((List.finRange 4).map fun c => ((s.oarlocks[Fin.ofNat 24 (idx - 0x8500)]).crewKeys[c]).unkeyed))
  else if at_ 0x8011 8 then some (s.componentEntry (Fin.ofNat 9 (idx - 0x8010)) sub)
  else if at_ 0xC301 7 then some (s.partEntry (Fin.ofNat 9 (idx - 0xC300)) sub)
  else if at_ 0x8200 4 ∧ sub = 4 then some (s.oldPages (Fin.ofNat 4 (idx - 0x8200)))
  else if at_ 0x8300 64 then some (s.regions[Fin.ofNat 64 (idx - 0x8300)]).domain
  else if at_ 0x9100 4 then
    let n := Fin.ofNat 4 (idx - 0x9100)
    match sub with
    | 1 => some (s.ratedCeiling n)
    | 5 => some (Config.nominalVoltage s.pacer.cal n.val (s.mhz n) % 2 ^ 16)
    | _ => none
  else if at_ 0xB010 4 ∧ sub = 2 then some (s.seat[bladeUnit (Fin.ofNat 4 (idx - 0xB010))]).next
  else if at_ 0xC100 8 then
    match s.xefin.commits[idx - 0xC100]? with
    | none => some 0
    | some k => match sub with
      | 1 => some k.id
      | 2 => some k.stroke
      | 3 => some k.items.length
      | _ => some k.session
  else if at_ 0xA100 64 then
    let e := s.ergs[Fin.ofNat 64 (idx - 0xA100)]
    match sub with
    | 7 => some (ofSigned 64 e.lastMin)
    | 8 => some (ofSigned 64 e.lastMax)
    | 9 => some (wrap64 e.lastCount)
    | 0xA => some (ofSigned 64 e.lastSum)
    | 0xC => some e.lastClose
    | _ => none
  else none

/-- The value that a read of a numeric entry shows. -/
def State.viewNat (s : State) (idx sub : Nat) : Nat :=
  if sub = 0 then s.entry idx 0
  else match bladeOfIndex idx with
  | some n => if bitOf s.bladeMap n then (s.familyEntry idx sub).getD (s.entry idx sub) else 0
  | none => (s.moduleEntry idx sub).getD ((s.familyEntry idx sub).getD (s.entry idx sub))

/-! ## BLOB and STR32 entries -/

/-- One entry of the slot table (0xD2cc.0A). -/
def Slot.bytes (x : Slot) : List Byte :=
  beBytes 8 x.step ++ beBytes 1 x.state.code ++ [0, 0, 0] ++ beBytes 4 x.origin
    ++ beBytes 8 (min x.size (4096 * x.blocks.length)) ++ beBytes 8 x.stamp

/-- A monitor in the capture RAM (0xA000.0C): minimum, maximum, count, sum, 32 bins of a u32. -/
def Erg.captureBytes (e : Erg) : List Byte :=
  beBytes 8 (ofSigned 64 e.min) ++ beBytes 8 (ofSigned 64 e.max) ++ beBytes 8 e.count ++ beBytes 8 (ofSigned 64 e.sum)
    ++ (List.range 32).flatMap fun k => beBytes 4 (sparseGet 0 e.bins k)

/-- The SHA-256 of the header of the active image of a component, zeros where none stands (0x80ii.08). -/
def State.headerDigest (s : State) (comp : Fin 9) : List Byte :=
  let p := s.parts[comp]
  let f := p.slots[p.active]
  if f.image.isEmpty then List.replicate 32 0 else digest (f.image.take 128)

/-- The bytes that a read of a BLOB or STR32 entry shows. -/
def State.viewBytes (s : State) (idx sub : Nat) : List Byte :=
  match idx, sub with
  | 0x1000, 1 => str32 "Kogrim"
  | 0x1000, 2 => if s.bladeMap = 0xF then str32 "Uluore UL440" else str32 "Uluore UL430"
  | 0x1000, sub => (List.range 32).map (Config.identityByte 0x1000 sub)
  | 0x8000, 1 => identityDigest
  | 0x8000, _ => (List.range 4).flatMap fun i => match s.ownerSet with
    | some b => if i < (b.getD 0 0).toNat then digest ((b.drop (40 + 60 * i)).take 60) else List.replicate 32 0
    | none => List.replicate 32 0
  | 0x6300, _ => (List.range 4096).flatMap fun i => beBytes 4 (sparseGet 0 s.tags i)
  | 0x9000, 0x15 => s.railMap
  | 0xA000, _ =>
    if s.sigDump ≠ [] then (List.range 10248).map (Config.dumpByte s.sigDump)
    else if s.capture = [] then List.replicate 10248 0
    else (beBytes 8 ((s.capture.map fun (p : Nat × Erg) => p.1).headD 0) ++ s.capture.flatMap fun (p : Nat × Erg) => p.2.captureBytes)
  | 0xB000, _ => beBytes 8 (maskOf (s.seat.toList.map (·.suspect)))
  | 0xC200, _ => s.claims.flatMap Claim.bytes
  | _, _ =>
    let at_ := fun (base n : Nat) => base ≤ idx && idx < base + n
    if at_ 0x6400 64 then (s.heats[Fin.ofNat 64 (idx - 0x6400)].consensus ++ List.replicate 32 0).take 32
    else if at_ 0xA100 64 then (List.range 32).flatMap fun k => beBytes 4 (sparseGet 0 (s.ergs[Fin.ofNat 64 (idx - 0xA100)]).lastBins k)
    else if at_ 0x8011 8 then s.headerDigest (Fin.ofNat 9 (idx - 0x8010))
    else if at_ 0x8400 4 ∧ sub = 1 then ((s.trust[Fin.ofNat 4 (idx - 0x8400)]).receipt).getD (List.replicate 1184 0)
    else if at_ 0xD200 4 ∧ sub = 0xA then (s.slipways[Fin.ofNat 4 (idx - 0xD200)]).slots.toList.flatMap Slot.bytes
    else s.blob idx sub ((dictRow idx sub).map (·.hi) |>.getD 0)

end Sys2Proof.Machine
end

