-- ==== Sys2Proof/Machine/Xefin.lean ====
section
/-! DEFINITION. Xefin (R586 to R599): frames, fragments, sessions, reads, writes and the staging area. -/
namespace Sys2Proof.Machine

/-! ## Frames (R587) -/

/-- A field of the header (Table 14-3). -/
def hdrField (q : XefinFrame) (lo w : Nat) : Nat := bitsOf q.hdr.toNat lo w

/-- The session id of the mailbox (R587). -/
def mailboxId : Nat := 0xFFFFFFFF

/-- The most payload bytes in one frame (R587, R589). -/
def frameMax (port : Port) (auth : Bool) : Nat :=
  match port with
  | .mailbox => 4064
  | .mgmt _ _ => if auth then 1424 else 1440

/-- The opcodes of Table 14-4 that a request may carry; SESS_OPEN and SESS_CLOSE never come through the mailbox (R589). -/
def opcodeOk (port : Port) (op : Nat) : Bool :=
  1 ≤ op && op ≤ 0x0B && !(port == .mailbox && (op == 9 || op == 0x0A))

/-- What is wrong with a frame whose magic is right, as a status; 0: nothing (R587, R589). -/
def frameStatus (q : XefinFrame) : Nat :=
  if hdrField q 232 8 ≠ 1 then 0x02
  else if hdrField q 80 16 ≠ q.payload.length ∨ frameMax q.port (hdrField q 227 1 == 1) < q.payload.length
      ∨ hdrField q 224 3 ≠ 0 ∨ hdrField q 64 16 ≠ 0 ∨ hdrField q 192 8 < hdrField q 200 8
      ∨ (q.port = .mailbox ∧ hdrField q 227 1 = 1) then 0x01
  else if hdrField q 228 4 ≠ 1 ∨ opcodeOk q.port (hdrField q 216 8) = false then 0x03
  else 0

/-- A request, whole (R588). -/
structure Message where
  port : Port
  session : Nat
  seq : Nat
  opcode : Nat
  payload : List Byte
deriving DecidableEq, Repr

/-- Cuts bytes into pieces of `n`; there is always a first piece. -/
def cutBytes (n : Nat) : Nat → List Byte → List (List Byte)
  | 0, bs => [bs]
  | k + 1, bs => if bs.length ≤ n then [bs] else bs.take n :: cutBytes n k (bs.drop n)

/-- Where an output of a port goes: the address and the UDP port. -/
def portFields : Port → List Int
  | .mgmt a u => [a.toNat, u.toNat]
  | .mailbox => []
@[inherit_doc portFields] def portUnit : Port → Nat
  | .mgmt _ _ => 0
  | .mailbox => 1

/-- The key that tags what goes to a session (R591, R592); the answer to SESS_OPEN goes under that of the session it opened. -/
def State.tagKey (s : State) (m : Message) : List Byte :=
  let id := if m.opcode = 9 then s.xefin.lastSession else m.session
  ((s.xefin.sessions.find? (·.id == id)).map (·.key)).getD []

/-- The frames of a response or a notice (R587, R588): kind 2 or 3, with the tag of R592 where `auth` is set. A response of more than
256 fragments has no encoding, and is answered ST-01. -/
def State.frames (s : State) (kind : OutKind) (m : Message) (auth : Bool) (status : Nat) (payload : List Byte) : List Output :=
  let cap := frameMax m.port auth
  let big := 256 * cap < payload.length
  let pieces := cutBytes cap 256 (if big then [] else payload)
  let status := if big then 0x01 else status
  let n := pieces.length
  let head := fun (i : Nat) (p : List Byte) =>
    beBytes 2 0x5846 ++ beBytes 1 1 ++ beBytes 1 ((if kind = .notice then 0x30 else 0x20) + (if auth then 8 else 0))
      ++ beBytes 1 m.opcode ++ beBytes 1 status ++ beBytes 1 i ++ beBytes 1 (n - 1) ++ beBytes 4 m.session
      ++ beBytes 8 m.seq ++ beBytes 2 p.length ++ [0, 0] ++ beBytes 8 s.stamp
  (List.range n).map fun i =>
    let p := pieces.getD i []
    { kind := kind, unit := portUnit m.port, fields := portFields m.port
      bytes := head i p ++ p ++ if auth then (hmacSha256 (s.tagKey m) (head i p ++ p)).take 16 else [] }

/-- Sends outputs. -/
def State.emitAll (s : State) (os : List Output) : State := { s with out := s.out ++ os }

/-- An answer is sent, and counted in 0xC010.08. -/
def State.answer (s : State) (m : Message) (auth : Bool) (status : Nat) (payload : List Byte) : List Output × State :=
  let os := s.frames .response m auth status payload
  (os, (s.emitAll os).bump 0xC010 8 1)

/-! ## Sessions (R589 to R594) -/

/-- The session that an id names, through a port. -/
def State.session (s : State) (port : Port) (id : Nat) : Option Session :=
  match port with
  | .mailbox => if id = mailboxId then some s.xefin.mailbox else none
  | .mgmt _ _ => s.xefin.sessions.find? (·.id == id)

/-- Change an open session, or the mailbox. -/
def State.onSession (s : State) (port : Port) (id : Nat) (f : Session → Session) : State :=
  match port with
  | .mailbox => { s with xefin := { s.xefin with mailbox := f s.xefin.mailbox } }
  | .mgmt _ _ => { s with xefin := { s.xefin with sessions := s.xefin.sessions.map fun x => if x.id = id then f x else x } }

/-- Whether a request of an opcode needs a session (R590). -/
def State.needsSession (s : State) (op : Nat) : Bool :=
  match op with
  | 1 => s.entry 0xC010 4 == 1
  | 2 => s.entry 0xC010 4 == 1
  | 9 => false
  | 0x0B => false
  | _ => true

/-- The session and tag checks of a frame (R590): 0, ST-08 or ST-09. -/
def State.sessionStatus (s : State) (q : XefinFrame) : Nat :=
  let id := hdrField q 160 32
  let auth := hdrField q 227 1 == 1
  match q.port with
  | .mailbox => if id = mailboxId then 0 else 0x09
  | .mgmt _ _ =>
    if id = 0 then (if s.needsSession (hdrField q 216 8) then 0x09 else if auth then 0x08 else 0)
    else if (s.session q.port id).isNone then 0x09
    else if auth && q.tagOk then 0 else 0x08

/-- A tag failure (R590): 0xC010.06, and EV-C022 at most once per second for each source address. -/
def State.frameTagFailure (s : State) (address session : Nat) : State :=
  let s := s.bump 0xC010 6 1
  let recent := s.xefin.authWarned.any fun p => p.1 == address && s.clock.now < p.2 + 1000000000
  if recent then s
  else
    ({ s with xefin := { s.xefin with
        authWarned := (address, s.clock.now) :: s.xefin.authWarned.filter (·.1 != address) } }).raise 0xC022 [address, session]

/-- The staging area is emptied (R599). -/
def State.clearStage (s : State) : State := { s with xefin := { s.xefin with staged := [], stager := 0 } }

/-- A session ends (R594): its staging area is discarded with EV-C003, its parts in STAGING return to IDLE, its pending
commits stay. Reasons: 1 SESS_CLOSE, 2 the idle limit. -/
def State.endSession (s : State) (id reason : Nat) : State :=
  match s.xefin.sessions.find? (·.id == id) with
  | none => s
  | some x =>
    let s : State := if s.xefin.stager = id ∧ s.xefin.staged ≠ [] then
      s.clearStage.raise 0xC003 [id, s.xefin.staged.length] else s
    let s : State := (List.finRange 9).foldl (fun (s : State) c =>
      if s.parts[c].state = .staging ∧ s.parts[c].owner = id then s.abandonPart c else s) s
    let s : State := { s with xefin := { s.xefin with
      sessions := s.xefin.sessions.filter (·.id != id), assemblies := s.xefin.assemblies.filter (·.session != id) } }
    s.raise 0xC021 [id, ((portFields x.port).headD 0), reason]

/-! ## What is open (R589, R606, R607) -/

/-- Whether a port hears nothing: before phase 1, in reset, a closed mailbox. -/
def State.portClosed (s : State) (port : Port) : Bool :=
  s.inReset || s.xefin.phase == 0 || (port == .mailbox && !s.power.mailboxOpen)

/-- The items of a READ: index, sub-index, flags. -/
def readItems : List Byte → List (Nat × Nat × Nat)
  | a :: b :: c :: d :: t => (ofBeBytes [a, b], c.toNat, d.toNat) :: readItems t
  | _ => []

/-- An item of a WRITE or a STAGE: index, sub-index, type code, bytes. -/
structure WriteItem where
  index : Nat
  sub : Nat
  type : Nat
  bytes : List Byte
deriving DecidableEq, Repr

/-- The items of a WRITE or a STAGE; `none` where lengths disagree or a reserved byte is set. `n` bounds the items. -/
def writeItems : Nat → List Byte → Option (List WriteItem)
  | _, [] => some []
  | 0, _ => none
  | n + 1, bs =>
    let len := ofBeBytes ((bs.drop 4).take 2)
    if bs.length < 8 + len ∨ ofBeBytes ((bs.drop 6).take 2) ≠ 0 then none
    else (writeItems n (bs.drop (8 + len))).map fun t =>
      { index := ofBeBytes (bs.take 2), sub := ofBeBytes ((bs.drop 2).take 1), type := ofBeBytes ((bs.drop 3).take 1)
        bytes := (bs.drop 8).take len } :: t

/-- The entries that a message names: items of READ, WRITE and STAGE, the entry of the BLOB operations. -/
def entriesOf (op : Nat) (payload : List Byte) : List (Nat × Nat) :=
  match op with
  | 1 => (readItems payload).map fun i => (i.1, i.2.1)
  | 2 => [(ofBeBytes (payload.take 2), ofBeBytes ((payload.drop 2).take 1))]
  | 4 => [(ofBeBytes (payload.take 2), ofBeBytes ((payload.drop 2).take 1))]
  | 3 => ((writeItems payload.length payload).getD []).map fun i => (i.index, i.sub)
  | 5 => ((writeItems payload.length payload).getD []).map fun i => (i.index, i.sub)
  | _ => []

/-- The entries of phase 1 and of recovery mode (R514, R606). -/
def trustIndex (idx : Nat) : Bool := (0x1000 ≤ idx && idx ≤ 0x10FF) || (0x8000 ≤ idx && idx ≤ 0x80FF)

/-- The bring-up entries (R606). -/
def bringUpEntry (idx sub : Nat) : Bool :=
  (idx == 0x1020 && sub == 1) || (idx == 0x1030 && 1 ≤ sub && sub ≤ 4) || (0x2000 ≤ idx && idx ≤ 0x20FF)
    || (0x5000 ≤ idx && idx ≤ 0x52FF) || (0x8500 ≤ idx && idx ≤ 0x85FF) || (idx == 0x9000 && sub == 0x15)
    || (0xC000 ≤ idx && idx ≤ 0xCFFF)

/-- The parts of recovery mode (R607): STAGE1, COXFW and CAL. -/
def recoveryPart (idx : Nat) : Bool := idx == 0xC301 || idx == 0xC302 || idx == 0xC304

/-- Whether the module is in recovery mode. -/
def State.recovering (s : State) : Bool := s.boot == .recovery || s.boot == .failed

/-- What keeps a request from being served at this point of power-up, or in recovery mode (R606, R607): 0, ST-0B or ST-0C. -/
def State.gate (s : State) (op : Nat) (payload : List Byte) : Nat :=
  let es := entriesOf op payload
  let reads := (op == 1 || op == 2) && es.all fun e => trustIndex e.1
  let part := es.all fun e => recoveryPart e.1 && e.2 == (if op == 5 then 4 else 3)
  let items := s.xefin.staged.all fun i => recoveryPart i.index && i.sub == 4
  if s.recovering then
    if reads || op == 9 || ((op == 4 || op == 5) && part) || (op == 7 && items) then 0 else 0x0C
  else if s.xefin.phase < 2 then (if reads || op == 0x0B then 0 else 0x0B)
  else if s.entry 0xD000 1 = 2 ∨ s.entry 0xD000 1 = 4 then 0
  else if op = 5 ∧ es.all (fun e => bringUpEntry e.1 e.2) = false then 0x0B
  else if op = 7 ∧ s.xefin.staged.all (fun i => bringUpEntry i.index i.sub) = false then 0x0B
  else 0

/-- What the mailbox may not do (Table 14-6): value 2 forbids changing the entries that it names. -/
def State.mailboxDenies (s : State) (op : Nat) (payload : List Byte) : Bool :=
  let es := entriesOf op payload
  let staged := s.xefin.staged.map fun i => (i.index, i.sub)
  let limit := s.entry 0xC010 3
  let first := fun (e : Nat × Nat) => (0x7300 ≤ e.1 && e.1 < 0x7340 && e.2 == 8) || (0x8200 ≤ e.1 && e.1 < 0x8204 && e.2 == 1)
    || (0x8400 ≤ e.1 && e.1 < 0x8404 && e.2 == 5)
  let second := fun (e : Nat × Nat) => (e.1 == 0x1020 && e.2 == 1) || (e.1 == 0x1030 && 1 ≤ e.2 && e.2 ≤ 4)
    || (e.1 == 0xC010 && 3 ≤ e.2 && e.2 ≤ 5) || (0xC301 ≤ e.1 && e.1 ≤ 0xC307)
  if op = 1 ∨ op = 2 ∨ op = 0x0B then false
  else if limit = 0 then true
  else if limit = 1 then
    if op = 3 ∨ op = 4 then !es.all fun e => 0x8400 ≤ e.1 && e.1 < 0x8404 && e.2 == 3
    else if op = 5 then !es.all first
    else if op = 7 then !staged.all first
    else true
  else (op == 3 || op == 4 || op == 5) && es.any second

/-! ## Fragments (R588) -/

/-- Whether an assembly collects the message of a frame. -/
def Assembly.takes (a : Assembly) (q : XefinFrame) : Bool :=
  a.port == q.port && a.session == hdrField q 160 32 && a.seq == hdrField q 96 64 && a.opcode == hdrField q 216 8
    && a.nfrag == hdrField q 192 8

/-- A frame joins its message; the message where that completes it. -/
def State.assemble (s : State) (q : XefinFrame) : State × Option Message :=
  let n := hdrField q 192 8
  let msg := fun (p : List Byte) =>
    ({ port := q.port, session := hdrField q 160 32, seq := hdrField q 96 64, opcode := hdrField q 216 8, payload := p } : Message)
  if n = 0 then (s, some (msg q.payload))
  else
    let old := (s.xefin.assemblies.find? fun a => a.takes q && s.clock.now < a.since + 100000000).getD
      { port := q.port, session := hdrField q 160 32, seq := hdrField q 96 64, opcode := hdrField q 216 8, nfrag := n
        parts := [], since := s.clock.now }
    let i := hdrField q 200 8
    let a := { old with parts := (i, q.payload) :: old.parts.filter (·.1 != i) }
    let rest := s.xefin.assemblies.filter fun x => !x.takes q
    if a.parts.length = n + 1 then
      let whole := (List.range (n + 1)).flatMap fun i => ((a.parts.find? (·.1 == i)).map (·.2)).getD []
      ({ s with xefin := { s.xefin with assemblies := rest } }, some (msg whole))
    else ({ s with xefin := { s.xefin with assemblies := rest ++ [a] } }, none)

/-! ## A request from its frame to its answer -/

/-- A request that passed every check of its frames: the rule of R593 on its seq, the limit of the mailbox (R589), then what
the command does: status, payload and state. The answer is kept with the last 15. -/
def State.process (s : State) (m : Message) (act : State → Message → Nat × List Byte × State) : State :=
  let auth := m.port != .mailbox && m.session != 0
  let run := fun (s : State) =>
    if m.port == .mailbox && s.mailboxDenies m.opcode m.payload then (0x53, [], s) else act s m
  match s.session m.port m.session with
  | none =>
    let (st, p, s) := run s
    (s.answer m (auth || (m.opcode == 9 && st == 0)) st p).2
  | some x =>
    if m.seq ≤ x.high then
      match x.kept.find? (·.1 == m.seq) with
      | some k => (s.emitAll k.2).bump 0xC010 8 1
      | none => (s.answer m auth 0x0A []).2
    else
      let s := s.onSession m.port m.session fun x => { x with high := m.seq }
      let (st, p, s) := run s
      let (os, s) := s.answer m auth st p
      s.onSession m.port m.session fun x => { x with kept := ((m.seq, os) :: x.kept).take 16 }

/-- A frame arrives for a command that handles the messages of `mine`; one of another command changes nothing. -/
def State.xefinFrame (s : State) (q : XefinFrame) (mine : Nat → List Byte → Bool)
    (act : State → Message → Nat × List Byte × State) : State :=
  let op := hdrField q 216 8
  let m : Message := { port := q.port, session := hdrField q 160 32, seq := hdrField q 96 64, opcode := op, payload := [] }
  let whole := hdrField q 192 8 == 0
  if s.portClosed q.port then s
  else if hdrField q 240 16 ≠ 0x5846 then s.bump 0xC010 7 1
  else if frameStatus q ≠ 0 then (s.answer m false (frameStatus q) []).2
  else if whole && !mine op q.payload then s
  else if whole && s.gate op q.payload != 0 then (s.answer m false (s.gate op q.payload) []).2
  else
    let k := s.sessionStatus q
    if k ≠ 0 then
      let s := if k = 0x08 then s.frameTagFailure (((portFields q.port).headD 0).toNat) m.session else s
      (s.answer m false k []).2
    else
      let s1 := s.onSession q.port m.session fun x => { x with lastAt := s.clock.now, port := q.port }
      match s1.assemble q with
      | (s2, none) => s2
      | (s2, some msg) =>
        if !mine op msg.payload then s
        else if s2.gate op msg.payload ≠ 0 then
          (s2.answer msg (q.port != .mailbox && m.session != 0) (s2.gate op msg.payload) []).2
        else s2.process msg act

/-! ## Reading (R584, R585, R596, R597) -/

/-- An entry of a message: index, sub-index. -/
def entryBytes (idx sub : Nat) : List Byte := beBytes 2 idx ++ beBytes 1 sub

/-- Whether the entries of this index hold the value as bytes. -/
def EntryType.isBytes (t : EntryType) : Bool := t == .str32 || t == .blob

/-- The value of an entry on the wire. -/
def State.valueBytes (s : State) (r : DictRow) (idx sub : Nat) : List Byte :=
  if r.type.isBytes then s.viewBytes idx sub else beBytes r.type.bytes (s.viewNat idx sub)

/-- A staged value on the wire. -/
def Item.wire (i : Item) (r : DictRow) : List Byte :=
  match i.value with
  | .num n => beBytes r.type.bytes n
  | .bytes bs => bs

/-- The staged item of an entry. -/
def State.stagedItem (s : State) (idx sub : Nat) : Option Item :=
  s.xefin.staged.find? fun i => i.index == idx && i.sub == sub

/-- The entries that count a time in ns take in the time that is running when they are read. -/
def State.settleTimer (s : State) (idx sub : Nat) : State :=
  if 0x4500 ≤ idx ∧ idx < 0x4510 ∧ sub = 6 then s.settleEngine (Fin.ofNat 16 (idx - 0x4500))
  else if 0x6200 ≤ idx ∧ idx < 0x6204 ∧ sub = 9 then s.settlePeerWait (Fin.ofNat 4 (idx - 0x6200))
  else if 0x5200 ≤ idx ∧ idx < 0x520C ∧ sub = 0xA then s.settleCredit (Fin.ofNat 12 (idx - 0x5200))
  else s

/-- One item of a READ: its answer, and the state, where an RC entry is cleared in a session (R585) and 0x310n.0E by any
read (Table 03-8). -/
def State.readItem (s : State) (session : Nat) (i : Nat × Nat × Nat) : List Byte × State :=
  let idx := i.1
  let sub := i.2.1
  let s := s.settleTimer idx sub
  let fail := fun (st : Nat) => (entryBytes idx sub ++ beBytes 1 st ++ [0, 0, 0, 0], s)
  match dictRow idx sub with
  | none => fail 0x04
  | some r =>
    if r.access = .wo ∨ (idx = 0xA010 ∧ sub = 1) then fail 0x05
    else
      let v := match (if i.2.2 % 2 = 1 ∧ r.access = .rws then s.stagedItem idx sub else none) with
        | some x => x.wire r
        | none => s.valueBytes r idx sub
      if 65536 ≤ v.length then fail 0x0E
      else
        let s := if (r.access = .rc ∧ session ≠ 0) ∨ (0x3100 ≤ idx ∧ idx < 0x3104 ∧ sub = 0xE) then s.setEntry idx sub 0 else s
        (entryBytes idx sub ++ beBytes 1 0 ++ beBytes 1 r.type.code ++ [0] ++ beBytes 2 v.length ++ v, s)

/-- The items of a READ in turn. -/
def State.readAll (s : State) (session : Nat) : List (Nat × Nat × Nat) → List Byte × State
  | [] => ([], s)
  | i :: t =>
    let (a, s) := s.readItem session i
    let (b, s) := State.readAll s session t
    (a ++ b, s)

/-- READ (R596). -/
def State.doRead (s : State) (m : Message) : Nat × List Byte × State :=
  if m.payload.length % 4 ≠ 0 ∨ (readItems m.payload).any (fun i => 2 ≤ i.2.2) then (0x01, [], s)
  else
    let (p, s) := s.readAll m.session (readItems m.payload)
    (0, p, s)

/-- READ (R584, R585, R596). -/
def execRead (q : XefinFrame) (s : State) : Host.Outcome State Fault Refusal :=
  .next (s.xefinFrame q (fun op _ => op == 1) State.doRead)

/-- The operands of a BLOB operation: index, sub-index, offset, length; `none` where the message is too short or a reserved
byte is set. -/
def blobOperands (p : List Byte) : Option (Nat × Nat × Nat × Nat) :=
  if p.length < 16 ∨ p.getD 3 0 ≠ 0 then none
  else some (ofBeBytes (p.take 2), (p.getD 2 0).toNat, ofBeBytes ((p.drop 4).take 8), ofBeBytes ((p.drop 12).take 4))

/-- The answer of a READ_BLOB. -/
def blobAnswer (idx sub st off : Nat) (n : Nat) (bs : List Byte) : List Byte :=
  entryBytes idx sub ++ beBytes 1 st ++ beBytes 8 off ++ beBytes 4 n ++ bs

/-- READ_BLOB (R597): bytes offset to offset + length − 1. -/
def State.doReadBlob (s : State) (m : Message) : Nat × List Byte × State :=
  match blobOperands m.payload with
  | none => (0x01, [], s)
  | some (idx, sub, off, n) =>
    let fail := fun (st : Nat) => (st, blobAnswer idx sub st off 0 [], s)
    if m.payload.length ≠ 16 then (0x01, [], s)
    else match dictRow idx sub with
      | none => fail 0x04
      | some r =>
        if r.access = .wo then fail 0x05
        else if r.type ≠ .blob then fail 0x06
        else
          let v := s.viewBytes idx sub
          if v.length < off + n then fail 0x0E
          else (0, blobAnswer idx sub 0 off n ((v.drop off).take n), s)

/-- Whether a message is a READ_BLOB or WRITE_BLOB of an entry. -/
def namesBlob (op want : Nat) (p : List Byte) (idx sub : Nat) : Bool :=
  op == want && ofBeBytes (p.take 2) == idx && p.getD 2 0 == BitVec.ofNat 8 sub

/-- READ_BLOB (R597), but for the Logbook. -/
def execReadBlob (q : XefinFrame) (s : State) : Host.Outcome State Fault Refusal :=
  .next (s.xefinFrame q (fun op p => op == 2 && !namesBlob op 2 p 0xA010 1) State.doReadBlob)

/-- A READ_BLOB of 0xA010.01 (R597): entries by sequence number, from the oldest that is held where the one asked for has been
overwritten. -/
def State.doLogbookRead (s : State) (m : Message) : Nat × List Byte × State :=
  match blobOperands m.payload with
  | none => (0x01, [], s)
  | some (idx, sub, off, n) =>
    if m.payload.length ≠ 16 then (0x01, [], s)
    else if n = 0 ∨ 1024 < n then (0x0E, blobAnswer idx sub 0x0E off 0 [], s)
    else
      let es := (s.log.held.filter fun (e : Nat × Event) => off ≤ e.1).take n
      let first := match es with
        | e :: _ => e.1
        | [] => off
      (0, blobAnswer idx sub 0 first es.length (es.flatMap fun (e : Nat × Event) => e.2.wire e.1), s)

/-- LOGBOOK_READ (R597). -/
def execLogbookRead (q : XefinFrame) (s : State) : Host.Outcome State Fault Refusal :=
  .next (s.xefinFrame q (fun op p => namesBlob op 2 p 0xA010 1) State.doLogbookRead)

/-! ## Writing (R584, R596, R597) -/

/-- The check of one item against its entry (R583, R584): the value, or a status. -/
def checkItem (want : Access → Bool) (i : WriteItem) : Sum Nat Item :=
  match dictRow i.index i.sub with
  | none => .inl 0x04
  | some r =>
    if want r.access = false then .inl 0x05
    else if i.type ≠ r.type.code then .inl 0x06
    else if r.type.isBytes then
      (if i.bytes.length = r.hi then .inr { index := i.index, sub := i.sub, value := .bytes (keptBytes i.index i.sub i.bytes) }
      else .inl 0x06)
    else if i.bytes.length ≠ r.type.bytes then .inl 0x06
    else if r.legal (ofBeBytes i.bytes) then .inr { index := i.index, sub := i.sub, value := .num (ofBeBytes i.bytes) }
    else .inl 0x07

/-- The number and status of the first item that fails. -/
def firstFailure (want : Access → Bool) : Nat → List WriteItem → Option (Nat × Nat)
  | _, [] => none
  | n, i :: t => match checkItem want i with
    | .inl st => some (n, st)
    | .inr _ => firstFailure want (n + 1) t

/-- The values of the items. -/
def itemsOf (want : Access → Bool) (is : List WriteItem) : List Item :=
  is.filterMap fun i => match checkItem want i with
    | .inl _ => none
    | .inr x => some x

/-- The effect of a WRITE on one entry, at once: 0xA000.0B takes a snapshot, 0xD000.02 a reset 1 ms later (R617), any other takes
the value. -/
def State.writeEntry (s : State) (i : Item) : State :=
  match i.value with
  | .bytes bs => s.setBlob i.index i.sub bs
  | .num v =>
    if i.index = 0xA000 ∧ i.sub = 0xB then (if v = 1 then s.snapshot else s)
    else if i.index = 0xD000 ∧ i.sub = 2 then
      { s with power := { s.power with resetAt := some (s.power.resetAt.getD (s.clock.now + 1000000)) } }
    else s.setEntry i.index i.sub v

/-- The access codes that a WRITE may name, and those that a STAGE may (Table 14-2). -/
def writeOk (a : Access) : Bool := a == .rw || a == .wo
@[inherit_doc writeOk] def stageOk (a : Access) : Bool := a == .rws

/-- WRITE (R596): every item is checked before any takes effect. A BLOB is written by WRITE_BLOB only. -/
def State.doWrite (s : State) (m : Message) : Nat × List Byte × State :=
  match writeItems m.payload.length m.payload with
  | none => (0x01, [], s)
  | some is =>
    match firstFailure writeOk 1 (is.map fun i => if i.type = 10 then { i with type := 0 } else i) with
    | some (n, st) => (st, beBytes 2 n, s)
    | none => (0, beBytes 2 0, (itemsOf writeOk is).foldl State.writeEntry s)

/-- WRITE (R596). -/
def execWrite (q : XefinFrame) (s : State) : Host.Outcome State Fault Refusal :=
  .next (s.xefinFrame q (fun op _ => op == 3) State.doWrite)

/-- REGISTER_WRITE (R584): a value written to one entry takes effect at once where its access code allows a WRITE and the
value is legal; the answer is its status. -/
def execRegisterWrite (index : BitVec 16) (sub : BitVec 8) (value : BitVec 64) (s : State) : Host.Outcome State Fault Refusal :=
  .next (
    if s.inReset then s
    else
      let answer := fun (st : Nat) (s : State) => s.emit { kind := .response, fields := [index.toNat, sub.toNat, st] }
      match dictRow index.toNat sub.toNat with
      | none => answer 0x04 s
      | some r =>
        if writeOk r.access = false then answer 0x05 s
        else if r.type.isBytes then answer 0x06 s
        else if r.legal value.toNat = false then answer 0x07 s
        else answer 0 (s.writeEntry { index := index.toNat, sub := sub.toNat, value := .num value.toNat }))

/-- A WRITE_BLOB whose entry takes bytes: checks its form, and hands offset and bytes on. The answer holds the bytes
accepted. -/
def State.doWriteBlob (s : State) (m : Message) (act : Nat → Nat → Nat → List Byte → Nat × State) : Nat × List Byte × State :=
  match blobOperands m.payload with
  | none => (0x01, [], s)
  | some (idx, sub, off, n) =>
    let bs := m.payload.drop 16
    if bs.length ≠ n then (0x01, [], s)
    else
      let (st, s) := act idx sub off bs
      (st, beBytes 4 (if st = 0 then n else 0), s)

/-- The entries that take a WRITE_BLOB, each with a row of its own: 0x84cc.03 and 0xC3ii.03. -/
def blobWindow (op : Nat) (p : List Byte) (base n : Nat) : Bool :=
  op == 4 && base ≤ ofBeBytes (p.take 2) && ofBeBytes (p.take 2) < base + n && p.getD 2 0 == 3

/-- WRITE_BLOB of any other entry (R584, R597): no other BLOB is writable. -/
def execWriteBlob (q : XefinFrame) (s : State) : Host.Outcome State Fault Refusal :=
  .next (s.xefinFrame q (fun op p => op == 4 && !blobWindow op p 0x8400 4 && !blobWindow op p 0xC301 7)
    fun s m => s.doWriteBlob m fun idx sub _ _ =>
      match dictRow idx sub with
      | none => (0x04, s)
      | some r => (if writeOk r.access = false then 0x05 else 0x06, s))

/-- IMAGE_WRITE (R609): `outside` is what the digest and signature checks of the whole image answer, 0, 2 or 4. -/
def execImageWrite (q : XefinFrame) (outside : BitVec 3) (s : State) : Host.Outcome State Fault Refusal :=
  .next (s.xefinFrame q (fun op p => blobWindow op p 0xC301 7)
    fun s m => s.doWriteBlob m fun idx _ off bs => s.imageWrite (Fin.ofNat 9 (idx - 0xC300)) m.session off bs outside.toNat)

/-- KEY_DELIVERY (R534, R597): 1,129 bytes at offset 0 of 0x84cc.03. -/
def execKeyDelivery (q : XefinFrame) (unwraps : Bool) (s : State) : Host.Outcome State Fault Refusal :=
  .next (s.xefinFrame q (fun op p => blobWindow op p 0x8400 4)
    fun s m => s.doWriteBlob m fun idx _ off bs =>
      if off ≠ 0 ∨ bs.length ≠ 1129 then (0x0E, s) else s.deliverKey (Fin.ofNat 4 (idx - 0x8400)) bs unwraps)

/-! ## Staging (R598, R599) -/

/-- Bytes of the staged values. -/
def Item.size (i : Item) : Nat :=
  match i.value with
  | .bytes bs => bs.length
  | .num _ => ((dictRow i.index i.sub).map (·.type.bytes)).getD 0

/-- A staged value replaces an earlier one of the same entry. -/
def stageItem (l : List Item) (i : Item) : List Item :=
  l.filter (fun x => !(x.index == i.index && x.sub == i.sub)) ++ [i]

/-- STAGE (R598, R599). -/
def State.doStage (s : State) (m : Message) : Nat × List Byte × State :=
  match writeItems m.payload.length m.payload with
  | none => (0x01, [], s)
  | some is =>
    if s.xefin.stager ≠ 0 ∧ s.xefin.stager ≠ m.session then (0xC0, beBytes 2 0, s)
    else match firstFailure stageOk 1 is with
      | some (n, st) => (st, beBytes 2 n, s)
      | none =>
        let l := (itemsOf stageOk is).foldl stageItem s.xefin.staged
        if 4096 < l.length ∨ 65536 < (l.map Item.size).sum then (0xC2, beBytes 2 0, s)
        else (0, beBytes 2 0, { s with xefin := { s.xefin with staged := l, stager := if l = [] then 0 else m.session } })

/-- STAGE (R598). -/
def execStage (q : XefinFrame) (s : State) : Host.Outcome State Fault Refusal :=
  .next (s.xefinFrame q (fun op _ => op == 5) State.doStage)

/-- DISCARD (R599). -/
def State.doDiscard (s : State) (m : Message) : Nat × List Byte × State :=
  if m.payload ≠ [] then (0x01, [], s)
  else if s.xefin.stager ≠ 0 ∧ s.xefin.stager ≠ m.session then (0xC0, [], s)
  else (0, [], s.clearStage)

/-- DISCARD (R599). -/
def execDiscard (q : XefinFrame) (s : State) : Host.Outcome State Fault Refusal :=
  .next (s.xefinFrame q (fun op _ => op == 6) State.doDiscard)

/-! ## Opening and closing (R591, R594) -/

/-- SESS_OPEN (R591, R594): `sigOk` says whether the owner's signature verifies. -/
def State.doOpen (s : State) (sigOk : Bool) (m : Message) : Nat × List Byte × State :=
  let p := m.payload
  let kind := (p.getD 0 0).toNat
  let i := (p.getD 1 0).toNat
  let n := (s.ownerSet.map fun b => (b.getD 0 0).toNat).getD 0
  if p.length < 1124 ∨ p.getD 2 0 ≠ 0 ∨ p.getD 3 0 ≠ 0 ∨ (kind = 0 ∧ p.length ≠ 1124) then (0x01, [], s)
  else if 4 ≤ s.xefin.sessions.length then (0x0F, [], s)
  else if (0 < n ∧ !(kind = 1 ∧ i < n ∧ sigOk)) ∨ (n = 0 ∧ kind ≠ 0) then (0x84, [], s)
  else if s.signer.remaining = 0 then (0x10, [], s)
  else match s.sign with
    | none => (0x0D, [], s)
    | some (sig, s) =>
      let id := if s.xefin.lastSession + 1 < mailboxId then s.xefin.lastSession + 1 else 1
      let ss := beBytes 32 (Config.kemSecret (s.blob 0xC010 1 1184) (p.drop 36 |>.take 1088)).toNat
      let x : Session := { id := id, key := kdf ss "ULXS" (beBytes 4 id ++ (p.drop 4).take 32), port := m.port, lastAt := s.clock.now }
      let s : State := { s with xefin := { s.xefin with sessions := s.xefin.sessions ++ [x], lastSession := id } }
      (0, beBytes 4 id ++ sig, s.raise 0xC020 [id, (portFields m.port).headD 0])

/-- SESS_OPEN (R591). -/
def execSessOpen (q : XefinFrame) (sigOk : Bool) (s : State) : Host.Outcome State Fault Refusal :=
  .next (s.xefinFrame q (fun op _ => op == 9) fun s m => s.doOpen sigOk m)

/-- SESS_CLOSE (R594). -/
def execSessClose (q : XefinFrame) (s : State) : Host.Outcome State Fault Refusal :=
  .next (s.xefinFrame q (fun op _ => op == 0x0A) fun s m =>
    if m.payload ≠ [] then (0x01, [], s) else (0, [], s.endSession m.session 1))

/-- SESSION_IDLE_TIMEOUT (R594): a session without a valid request for 0xC010.05 seconds ends. -/
def execSessionIdleTimeout (id : BitVec 32) (s : State) : Host.Outcome State Fault Refusal :=
  .next (match s.xefin.sessions.find? (·.id == id.toNat) with
    | some x => if x.lastAt + s.entry 0xC010 5 * 1000000000 ≤ s.clock.now then s.endSession x.id 2 else s
    | none => s)

/-- FRAGMENT_TIMEOUT (R588): every request whose fragments are not complete 100 ms after its first is discarded. -/
def execFragmentTimeout (s : State) : Host.Outcome State Fault Refusal :=
  .next { s with xefin := { s.xefin with
    assemblies := s.xefin.assemblies.filter fun a => s.clock.now < a.since + 100000000 } }

/-! ## The rest of the management port (R586) -/

/-- ARP_REQUEST: the module answers for its own address. -/
def execArpRequest (target senderIp : BitVec 32) (senderMac : BitVec 48) (s : State) : Host.Outcome State Fault Refusal :=
  .next (
    if s.portClosed (.mgmt senderIp 0) ∨ target.toNat = 0 ∨ s.entry 0x1030 5 ≠ target.toNat then s
    else s.emit { kind := .arp, fields := [senderIp.toNat, senderMac.toNat, target.toNat, s.viewNat 0x1030 6] })

/-- ICMP_ECHO: the data of a request to the module's address come back. -/
def execIcmpEcho (target source : BitVec 32) (data : List (BitVec 8)) (s : State) : Host.Outcome State Fault Refusal :=
  .next (
    if s.portClosed (.mgmt source 0) ∨ target.toNat = 0 ∨ s.entry 0x1030 5 ≠ target.toNat then s
    else s.emit { kind := .icmp, fields := [source.toNat], bytes := data })

/-- The message types of RFC 2131 that the client sends. -/
def dhcpDiscover : Int := 1
@[inherit_doc dhcpDiscover] def dhcpRequest : Int := 3

/-- The client identifier (R586). -/
def dhcpClientId : List Byte := 0 :: identityDigest

/-- DHCP_CLIENT (R586, RFC 2131): with 0x1030.01 at DHCP the module asks for an address and takes the one acknowledged. -/
def execDhcpClient (e : DhcpEvent) (s : State) : Host.Outcome State Fault Refusal :=
  .next (
    if s.inReset ∨ s.xefin.phase = 0 ∨ s.entry 0x1030 1 ≠ 0 then s
    else
      let enter := fun (s : State) (d : DhcpState) => ({ s with xefin := { s.xefin with dhcp := d } } : State)
      let discover := fun (s : State) =>
        (enter s .selecting).emit { kind := .dhcp, fields := [dhcpDiscover], bytes := dhcpClientId }
      match e, s.xefin.dhcp with
      | .start, .init => discover s
      | .offer a server, .selecting =>
        (enter s (.requesting a.toNat)).emit { kind := .dhcp, fields := [dhcpRequest, a.toNat, server.toNat], bytes := dhcpClientId }
      | .ack a, .requesting b => if a.toNat = b then (enter s (.bound b)).setEntry 0x1030 5 b else s
      | .nak, .requesting _ => discover s
      | .nak, .bound _ => discover (s.setEntry 0x1030 5 0)
      | _, _ => s)

end Sys2Proof.Machine
end

