-- ==== Sys2Proof/Machine/Commit.lean ====
section
/-! DEFINITION. COMMIT, its checks, and how a commit takes effect (R600 to R605, and the rules of the other chapters that
refuse a commit). -/
namespace Sys2Proof.Machine

/-! ## Items and the projected state (R601) -/

/-- A value comes into force. -/
def State.put (s : State) (i : Item) : State :=
  match i.value with
  | .num v => s.setEntry i.index i.sub v
  | .bytes bs => s.setBlob i.index i.sub bs

/-- The command entries: they act once, and read 0 afterwards. -/
def isCommand (idx sub : Nat) : Bool :=
  (0x7300 ≤ idx && idx < 0x7340 && sub == 8) || (0x8200 ≤ idx && idx < 0x8204 && sub == 1)
    || (0xB010 ≤ idx && idx < 0xB014 && sub == 1) || (0xC301 ≤ idx && idx < 0xC308 && sub == 4)
    || (0xD200 ≤ idx && idx < 0xD204 && sub == 1)

/-- The number that the items give an entry. -/
def itemNum (items : List Item) (idx sub : Nat) : Option Nat :=
  match (items.find? fun i => i.index == idx && i.sub == sub).map (fun (i : Item) => i.value) with
  | some (ItemValue.num v) => some v
  | _ => none

/-- The command that the items give, 0 for none. -/
def commandOf (items : List Item) (idx sub : Nat) : Nat := (itemNum items idx sub).getD 0

/-- Whether the items name an entry. -/
def names (items : List Item) (idx sub : Nat) : Bool := items.any fun i => i.index == idx && i.sub == sub

/-- Whether the items dissolve a Crew, or form one (R477). -/
def State.dissolves (s : State) (items : List Item) (c : Fin 4) : Bool :=
  s.entry (0x7000 + c.val) 1 != 0 && itemNum items (0x7000 + c.val) 1 == some 0
@[inherit_doc State.dissolves] def State.forms (s : State) (items : List Item) (c : Fin 4) : Bool :=
  s.entry (0x7000 + c.val) 1 == 0 && (itemNum items (0x7000 + c.val) 1).any (· != 0)

/-- The regions of a Crew that a scrub sets to OFF, but for those that the items stage (Table 12-9). -/
def State.scrubbedOff (s : State) (items : List Item) (c : Fin 4) : List (Fin 64) :=
  (List.finRange 64).filter fun r =>
    s.entry (0x4100 + r.val) 7 == c.val && s.entry 0xA000 1 != r.val && !names items (0x4100 + r.val) 5

/-- The state in force changed by a commit's values (R601): a Crew that it dissolves or scrubs loses its regions. -/
def State.project (s : State) (items : List Item) : State :=
  let p := (items.filter fun i => !isCommand i.index i.sub).foldl State.put s
  (List.finRange 4).foldl (fun (p : State) c =>
    if s.dissolves items c || commandOf items (0x8200 + c.val) 1 == 1 then
      (s.scrubbedOff items c).foldl (fun (p : State) r => p.setEntry (0x4100 + r.val) 5 0) p
    else p) p

/-! ## Regions to come (R292 to R295) -/

/-- The key domain of a region that enters FILLING (R528). -/
def State.domainFor (s : State) (r : Fin 64) : Nat :=
  ((List.finRange 64).find? fun h => bitOf (s.entry (0x7300 + h.val) 4) r.val).elim 0 fun h => s.entry (0x7300 + h.val) 5

/-- The region that the entries describe, its list the healthy channels of its stacks (R295). -/
def State.newRegion (s : State) (r : Fin 64) : Region :=
  let e := s.entry (0x4100 + r.val)
  let owner := e 7
  { state := .filling, base := e 1, size := e 2, chbase := e 4, pack := e 5 == 2, fmt := e 6, owner := owner, salt := e 9
    cacheable := e 8 == 1
    list := (List.range 384).filter fun ch => bitOf (e 3) (ch / 32) && (s.channels[Fin.ofNat 384 ch]).healthy
    fillEpoch := s.epochOf owner, pageEpoch := [], domain := s.domainFor r, loggedOut := s.entry 0xA000 1 == r.val }

/-- Whether a commit from `s` to `p` changes what refills a region (R294). -/
def State.regionChanges (s p : State) (r : Fin 64) : Bool :=
  [1, 2, 3, 4, 5, 6, 7, 9].any fun sub => s.entry (0x4100 + r.val) sub != p.entry (0x4100 + r.val) sub

/-- The geometry of a region on the projected state: the one in force while nothing changes it. -/
def State.planned (s p : State) (r : Fin 64) : Option Region :=
  let g := s.regions[r]
  if p.entry (0x4100 + r.val) 5 = 0 then none
  else if !s.regionChanges p r && (g.state == .active || g.state == .filling) then some g
  else some (p.newRegion r)

/-! ## Failures -/

/-- What a check finds: the failing entry, its status; for a claim the resource and both claimants (Table 14-7). -/
structure Failure where
  index : Nat
  sub : Nat
  status : Nat
  resource : Nat := 0xFFFF
  a : Option Claim := none
  b : Option Claim := none
deriving DecidableEq, Repr

/-- A failure, where a condition holds. -/
def failIf (c : Bool) (index sub status : Nat) : List Failure := if c then [{ index := index, sub := sub, status := status }] else []

/-- The first failure in ascending index.sub (R601). -/
def firstFail : List Failure → Option Failure
  | [] => none
  | f :: t => match firstFail t with
    | none => some f
    | some g => if entryKey g.index g.sub < entryKey f.index f.sub then some g else some f

/-- Whether two half-open spans meet. -/
def spansMeet (a n b m : Nat) : Bool := a < b + m && b < a + n

/-! ## Step 3: the rules of the chapters -/

/-- The range of each item (R583). -/
def checkRanges (items : List Item) : List Failure :=
  items.flatMap fun i =>
    let ok := match dictRow i.index i.sub with
      | none => false
      | some r => r.access == .rws && match i.value with
        | .num v => !r.type.isBytes && r.legal v
        | .bytes bs => r.type.isBytes && bs.length == r.hi
    failIf (!ok) i.index i.sub 0x07

/-- Couplings and alignments of the entry tables (R26, R386, R502, R580): the torus, the tag ranges, the Relay pools, the save areas,
the grant words. -/
def State.checkTables (p : State) : List Failure :=
  let torus := (List.range 3).flatMap fun a =>
    failIf (64 < p.entry 0x5000 (5 + a) + p.entry 0x5000 (8 + a)) 0x5000 (5 + a) 0x07
  let relay := (List.finRange 4).flatMap fun c =>
    let e := 0x6100 + c.val
    let base := p.entry e 9
    let size := p.entry e 0xA
    let scratch := (base == 0 && size == 0) || p.inScratch c.val base (max 1 size)
    failIf (4096 < p.entry e 7 + p.entry e 8) e 7 0x07 ++ failIf (base % 4096 != 0 || !scratch) e 9 0x07
      ++ failIf (size % 4096 != 0) e 0xA 0x07
  let heats := (List.finRange 64).flatMap fun h =>
    failIf (p.entry (0x7300 + h.val) 2 % 4096 != 0) (0x7300 + h.val) 2 0x07
      ++ failIf (p.entry (0xB100 + h.val) 1 % 8 != 0) (0xB100 + h.val) 1 0x07
  torus ++ relay ++ heats

/-- The stacks of a Crew's Blades (R477). -/
def State.crewStacks (p : State) (owner : Nat) : Nat :=
  maskOf ((List.range 12).map fun k => bitOf (p.entry (0x7000 + owner) 1) (k / 3))

/-- ST-40 (R293). -/
def State.checkRegions (s p : State) : List Failure :=
  let gs := (List.finRange 64).filterMap fun r => (s.planned p r).map fun g => (r, g)
  gs.flatMap fun (x : Fin 64 × Region) =>
    let (r, g) := x
    let e := 0x4100 + r.val
    let c := g.list.length
    let mask := p.entry e 3
    let others := gs.filter fun (y : Fin 64 × Region) => y.1 != r
    let bad1 := g.base % 4096 != 0 || others.any fun y => spansMeet g.base g.size y.2.base y.2.size
    let bad2 := g.size == 0 || c == 0 || g.size % (c * 4096) != 0 || 0x8800000000 < g.base + g.size
    let bad3 := mask &&& p.crewStacks g.owner != mask
    let bad4 := 360486 < g.chbase + g.extent || others.any fun y =>
      spansMeet g.chbase g.extent y.2.chbase y.2.extent && g.list.any y.2.list.contains
    failIf bad1 e 1 0x40 ++ failIf bad2 e 2 0x40 ++ failIf bad3 e 3 0x40 ++ failIf bad4 e 4 0x40
      ++ failIf (g.pack && g.cacheable) e 8 0x40

/-- The Oarlocks that the entries place in a Sweep. -/
def State.oarsIn (p : State) (w : Nat) : List Nat := (List.range 24).filter fun o => p.entry (0x5100 + o) 3 == w

/-- ST-51 (R416). The first failing entry (R601) is the Oarlock with which its Sweep comes to lie on both dies or to hold
more than eight. -/
def State.checkSweeps (p : State) : List Failure :=
  ((List.range 24).flatMap fun o =>
    let os := (p.oarsIn (p.entry (0x5100 + o) 3)).filter (· < o)
    failIf (p.entry (0x5100 + o) 3 < 12 && (8 ≤ os.length || os.any fun v => decide (v < 12) != decide (o < 12)))
      (0x5100 + o) 3 0x51)
  ++ ((List.range 12).flatMap fun w =>
    let role := p.entry (0x5200 + w) 1
    failIf (role != 0 && ((p.oarsIn w).isEmpty || (List.range w).any fun v => p.entry (0x5200 + v) 1 == role))
      (0x5200 + w) 1 0x51)
  ++ (List.range 6).flatMap fun i => failIf (p.entry (0x5200 + p.entry 0x6000 (5 + i)) 1 != i + 1) 0x6000 (5 + i) 0x51

/-- Whether an item changes the wiring or the coordinates (R421, R425). -/
def isWiring (idx sub : Nat) : Bool :=
  (0x5100 ≤ idx && idx < 0x5118 && 3 ≤ sub && sub ≤ 5) || (0x5200 ≤ idx && idx < 0x520C && sub == 1)
    || (idx == 0x1020 && sub == 1) || (idx == 0x5000 && 5 ≤ sub && sub ≤ 0xA)

/-- ST-50 (R425), for each Sweep with a role and an Oarlock that expects a peer. -/
def State.checkWiring (p : State) : List Failure :=
  (List.range 12).flatMap fun w =>
    let role := p.entry (0x5200 + w) 1
    let os := p.oarsIn w
    let peer := fun o => p.entry (0x5100 + o) 4
    if role = 0 ∨ os.all (fun o => bitOf (peer o) 24) then []
    else
      let a := axisOfRole role
      let id := p.moduleId
      let o_ := p.entry 0x5000 (5 + a)
      let n := p.entry 0x5000 (8 + a)
      let want := (o_ : Int) + ((coordOf id a : Int) - o_ + signOfRole role) % (n : Int)
      let first := peer (os.headD 0)
      os.flatMap fun o =>
        let q := peer o
        failIf (bitOf (p.entry 0x1020 1) 24 || bitOf q 24 || q != first || (coordOf q a : Int) != want
          || (List.range 3).any fun b => b != a && coordOf q b != coordOf id b) (0x5100 + o) 4 0x50
          ++ failIf ((os.filter (· < o)).any fun v => p.entry (0x5100 + v) 5 == p.entry (0x5100 + o) 5) (0x5100 + o) 5 0x50

/-- The number of indices of an Erg source (Table 10-7); 0 for a reserved one. -/
def ergIndices (source : Nat) : Nat :=
  match source with
  | 0 => 65536 | 1 => 384 | 2 => 24 | 3 => 256 | 4 => 64 | 5 => 12 | 6 => 1 | 7 => 1 | 8 => 2 | 9 => 4 | 10 => 64 | 11 => 4
  | 12 => 4 | 13 => 4 | _ => 0

/-- An index outside the range of its source (R471). -/
def State.checkErg (p : State) : List Failure :=
  (List.range 64).flatMap fun m =>
    failIf (ergIndices (p.entry (0xA100 + m) 1) ≤ p.entry (0xA100 + m) 2) (0xA100 + m) 2 0x07

/-- ST-70 (R478): Blades, shares, units without a Blade. Two Crews that name one unit are a claim conflict. -/
def State.checkCrews (p : State) : List Failure :=
  let shares := (List.range 12).flatMap fun w => (List.range 4).flatMap fun c =>
    let sum := ((List.range (c + 1)).map fun d => p.entry (0x7000 + d) (0x10 + w)).sum
    failIf (256 < sum && p.entry (0x7000 + c) (0x10 + w) != 0) (0x7000 + c) (0x10 + w) 0x70
  let units := (List.range 4).flatMap fun c =>
    let e := 0x7000 + c
    failIf (p.entry e 1 &&& p.bladeMap != p.entry e 1) e 1 0x70
      ++ (if p.entry e 1 = 0 then ([2, 3] ++ (List.range 12).map (0x10 + ·)).flatMap fun sub => failIf (p.entry e sub != 0) e sub 0x70
        else [])
  shares ++ units

/-- ST-70 (R480, R528): key domains and save areas. A Heat context that names no save area has none; a
save area lies in the region that holds its first byte. -/
def State.checkHeats (s p : State) : List Failure :=
  let mask := fun (h : Nat) => p.entry (0x7300 + h) 4
  let dom := fun (h : Nat) => p.entry (0x7300 + h) 5
  let named := (List.range 64).foldl (fun m h => m ||| mask h) 0
  (List.finRange 64).flatMap fun h =>
    let e := 0x7300 + h.val
    let addr := p.entry e 2
    let kib := p.entry e 3
    let clash := mask h.val != 0 && (List.range h.val).any fun g => mask g &&& mask h.val != 0 && dom g != dom h.val
    let fixed := (List.finRange 64).any fun r =>
      let g := s.regions[r]
      (g.state == .active || g.state == .filling) && bitOf (mask h.val) r.val && !s.regionChanges p r && g.domain != dom h.val
    let inMask := (List.finRange 64).any fun r =>
      bitOf named r.val && (s.planned p r).any fun g => decide (g.base ≤ addr) && decide (addr < g.base + g.size)
    failIf (clash || fixed) e 4 0x70
      ++ (if addr = 0 ∧ kib = 0 then []
        else failIf inMask e 2 0x70 ++ failIf (kib < p.fullSaveKiB (crewOf h)) e 3 0x70)

/-- ST-90 (R565). -/
def State.checkRails (p : State) : List Failure :=
  let es := (List.range 16).map fun i => ofLeBytes ((p.railMap.drop (4 * i)).take 4)
  let used := es.filter fun e => e % 256 != 0xFF
  let missing := (List.range 4).any fun n => bitOf p.bladeMap n && !used.any fun e => e % 256 == n
  let wrongBus := used.any fun e => e % 256 < 4 && bitsOf e 8 2 != 1
  failIf (missing || wrongBus || (used.map (· % 256)).eraseDups.length != used.length) 0x9000 0x15 0x90

/-- The Slipway of a Crew (R630). -/
def State.checkSlip (s p : State) (c : Fin 4) : List Failure :=
  let e := 0xD200 + c.val
  match p.slipRegion c with
  | none => []
  | some r =>
    let list := p.slipRanges c
    let role := p.entry e 6
    let z := p.slipSize c
    let place := fun (x : Nat × Nat) => (List.range (ceilDiv x.2 4096)).all fun i =>
      let a := x.1 + 4096 * i
      ((List.finRange 64).any fun q => (s.planned p q).any fun g => g.owner == c.val && g.base ≤ a && a < g.base + g.size)
        || (0xF000000000 ≤ a && a < 0xF020000000
          && p.ownsBank c.val ((a - 0xF000000000) / 2 ^ 28) ((a - 0xF000000000) % 2 ^ 28 / 2 ^ 22))
    let good := match s.planned p r with
      | none => false
      | some g => !g.pack && g.owner == c.val && 6 * z ≤ g.size && !(List.range 64).any fun h => bitOf (p.entry (0x7300 + h) 4) r.val
    let apart := list.zipIdx.all fun (x : (Nat × Nat) × Nat) =>
      !((list.take x.2).any fun y => spansMeet x.1.1 x.1.2 y.1 y.2)
        && !(s.planned p r).any fun g => spansMeet x.1.1 x.1.2 g.base g.size
    failIf (!good) e 4 0x07
      ++ failIf (list.isEmpty || !list.all (fun x => x.1 % 4096 == 0 && x.2 % 4096 == 0 && place x) || !apart) e 5 0x07
      ++ failIf (p.entry e 7 % max 1 (p.sliceExtent c.val (axisOfRole role)) == 0) e 7 0x07

/-- The commands whose operands fail (R535, R637, R481): at receipt a plan header is not there yet to be read. -/
def State.checkCommands (s p : State) (items : List Item) (edge : Bool) : List Failure :=
  ((List.finRange 4).flatMap fun c =>
    let e := 0xD200 + c.val
    let k := commandOf items e 1
    failIf (s.recoveryStatus c k (p.entry e 8) == 0x07 || (k == 1 && p.entry e 2 ≤ s.entry e 2)) e 1 0x07
      ++ failIf (names items (0x8400 + c.val) 5 && s.unsealStatus c (ofLeBytes (p.blob (0x8400 + c.val) 5 32)) == 0x07)
        (0x8400 + c.val) 5 0x07)
  ++ (List.finRange 64).flatMap fun h =>
    failIf (edge && commandOf items (0x7300 + h.val) 8 == 1 && (p.planHeader h).isNone) (0x7300 + h.val) 8 0x21

/-- Every rule of step 3 that a state breaks. -/
def State.checkState (s p : State) : List Failure :=
  p.checkTables ++ s.checkRegions p ++ p.checkSweeps ++ p.checkErg ++ p.checkCrews ++ s.checkHeats p
    ++ (List.finRange 4).flatMap (s.checkSlip p)

/-- Step 3 of Table 14-8. A rule that the state in force breaks already, at an entry that the commit does not name, is no failure of
this commit: a scrub or a map-out has broken it. -/
def State.step3 (s p : State) (items : List Item) (edge : Bool) : List Failure :=
  let before := s.checkState s
  checkRanges items
    ++ (s.checkState p).filter (fun f => names items f.index f.sub || !before.any fun g =>
      g.index == f.index && g.sub == f.sub && g.status == f.status)
    ++ (if items.any fun i => isWiring i.index i.sub then p.checkWiring else [])
    ++ (if names items 0x9000 0x15 then p.checkRails else [])
    ++ s.checkCommands p items edge

/-! ## Step 4: the claim table (R604) -/

/-- Whether a claim is made by a Relay mask, as a member. -/
def Claim.member (k : Claim) : Bool := 0x6100 ≤ k.index && k.index < 0x6104 && k.sub != 7

/-- When a claim was made: 0 in force, then by the pending commits in order of acceptance, then by this commit. -/
def claimRank (force : List Claim) (before : List (List Item)) (k : Claim) : Nat :=
  if force.contains k then 0
  else (before.findIdx? fun is => names is k.index k.sub).elim (before.length + 1) (· + 1)

/-- Orders two claims by their making. -/
def orderClaims (force : List Claim) (before : List (List Item)) (a b : Claim) : Claim × Claim :=
  if claimRank force before b < claimRank force before a then (b, a) else (a, b)

/-- The conflict of the claims on one resource. -/
def claimConflict (force : List Claim) (before : List (List Item)) (ks : List Claim) : List Failure :=
  let owners := ks.filter fun k => !k.member
  let members := ks.filter Claim.member
  let conflict := fun (a b : Claim) (st : Nat) =>
    let (x, y) := orderClaims force before a b
    ({ index := y.index, sub := y.sub, status := st, resource := a.resource, a := some x, b := some y } : Failure)
  let two := match owners with
    | a :: b :: _ =>
      let kind := a.resource / 4096
      [conflict a b (if kind = 3 ∨ kind = 4 ∨ kind = 5 then 0x70 else 0xC1)]
    | _ => []
  let wrong := members.flatMap fun m =>
    match owners with
    | [] => [({ index := m.index, sub := m.sub, status := 0xC1, resource := m.resource, a := some m } : Failure)]
    | a :: _ => if a.index % 16 = m.index % 16 then [] else [conflict a m 0xC1]
  two ++ wrong

/-- Step 4 of Table 14-8: every claim conflict of the projected state. -/
def State.step4 (s p : State) (before : List (List Item)) : List Failure :=
  let force := s.claims
  (p.claims.splitBy fun a b => a.resource == b.resource).flatMap (claimConflict force before)

/-! ## Step 5: what is busy (R601) -/

/-- Whether a Heat of a Crew is RUNNING or PREEMPTED. -/
def State.heatsLive (s : State) (c : Fin 4) : Bool :=
  (List.finRange 64).any fun h => crewOf h == c && (s.heats[h].status == .running || s.heats[h].status == .preempted)
@[inherit_doc State.heatsLive] def State.liveIn (s : State) (f : Fin 4 → Bool) : Bool := (List.finRange 4).any fun c => f c && s.heatsLive c

/-- The units that an unfinished scrub holds, and those of the Crews that these items dissolve, by kind (R544). -/
def State.heldUnits (s : State) (items : List Item) (kind : Nat) : Nat :=
  (List.finRange 4).foldl (fun m c =>
    let held := (s.crews[c].scrubUnits.find? (·.1 == kind)).elim 0 (·.2)
    let mine := if kind = 6 then s.entry 0x4200 (c.val + 1) else if kind = 7 then s.entry 0x4201 (c.val + 1) else s.entry (0x7000 + c.val) kind
    m ||| held ||| (if s.dissolves items c then mine else 0)) 0

/-- The SUSPECT units by kind: 1 Blades, 2 Sculls, 3 Launch engines (R577). -/
def State.suspects (s : State) (kind : Nat) : Nat :=
  let m := maskOf (s.seat.toList.map (·.suspect))
  if kind = 1 then bitsOf m 32 4 else if kind = 2 then bitsOf m 0 16 else if kind = 3 then bitsOf m 16 16 else 0

/-- The kind of R604 of a mask entry of a Crew, for `State.heldUnits`, and its Crew. -/
def maskKind (idx sub : Nat) : Option (Nat × Nat) :=
  if 0x7000 ≤ idx ∧ idx < 0x7004 ∧ 1 ≤ sub ∧ sub ≤ 3 then some (sub, idx - 0x7000)
  else if (idx = 0x4200 ∨ idx = 0x4201) ∧ 1 ≤ sub ∧ sub ≤ 4 then some (idx - 0x4200 + 6, sub - 1) else none

/-- The Crews whose Table 11-1 entries a changed item belongs to (R478): Tank ways belong to the Crews that hold their banks. -/
def State.resourceCrew (s p : State) (idx sub : Nat) (c : Fin 4) : Bool :=
  (idx == 0x7000 + c.val && ((1 ≤ sub && sub ≤ 3) || 0x10 ≤ sub && sub ≤ 0x1B))
    || (idx == 0x6100 + c.val && 7 ≤ sub && sub ≤ 0xC)
    || ((idx == 0x4200 || idx == 0x4201) && (sub == c.val + 1
      || (sub == 5 && (List.range 16).any fun i => bitOf (s.entry idx 5) i != bitOf (p.entry idx 5) i
        && (bitOf (s.entry idx (c.val + 1)) (48 + i) || bitOf (p.entry idx (c.val + 1)) (48 + i)))))

/-- Whether a Crew has a share of a Sweep, in force or to come. -/
def State.sharesSweep (s p : State) (w : Nat) (c : Fin 4) : Bool :=
  s.entry (0x7000 + c.val) (0x10 + w) != 0 || p.entry (0x7000 + c.val) (0x10 + w) != 0

/-- What refuses one changed entry while something is busy: 0 for nothing. -/
def State.busyStatus (s p : State) (items : List Item) (idx sub : Nat) : Nat :=
  let crew := fun (b : Nat) => Fin.ofNat 4 (idx - b)
  if idx = 0x1020 ∨ (idx = 0x5000 ∧ 5 ≤ sub ∧ sub ≤ 0xA) then (if s.anyHeat then 0x52 else 0)
  else if idx = 0x2000 ∧ sub ≤ 4 then (if s.anyHeat then 0x24 else 0)
  else if 0x4100 ≤ idx ∧ idx < 0x4140 then
    (if s.liveIn fun c => c.val == s.entry idx 7 || c.val == p.entry idx 7 then 0x41 else 0)
  else if (0x5100 ≤ idx ∧ idx < 0x5118 ∧ (sub = 2 ∨ sub = 3)) ∨ (0x5200 ≤ idx ∧ idx < 0x520C) then
    let ws := if idx < 0x5200 then [s.entry idx 3, p.entry idx 3] else [idx - 0x5200]
    (if s.liveIn fun c => ws.any fun w => w < 12 && s.sharesSweep p w c then 0x52 else 0)
  else if 0xD200 ≤ idx ∧ idx < 0xD204 ∧ sub = 2 then (if s.heatsLive (crew 0xD200) then 0x71 else 0)
  else if s.liveIn (s.resourceCrew p idx sub) then 0x71
  else match maskKind idx sub with
    | some (kind, _) =>
      let fresh := p.entry idx sub - (p.entry idx sub &&& s.entry idx sub)
      if fresh &&& s.suspects kind != 0 then 0x70
      else if fresh &&& s.heldUnits items kind != 0 then 0x85
      else if idx < 0x7000 ∨ 0x7003 < idx then 0
      else if s.dissolves items (crew 0x7000) then s.scrubStatus (crew 0x7000)
      else if s.forms items (crew 0x7000) && !s.trngOk then 0x88 else 0
    | none => 0

/-- What refuses one command: 0 for nothing (R481, R530, R536, R544, R579, R629, R637). -/
def State.commandStatus (s p : State) (idx v : Nat) : Nat :=
  if v = 0 then 0
  else if 0x7300 ≤ idx ∧ idx < 0x7340 then
    (let k := s.startStatus (Fin.ofNat 64 (idx - 0x7300))
     if v = 1 ∧ k ≠ 0x21 then k else 0)
  else if 0x8200 ≤ idx ∧ idx < 0x8204 then
    (if v = 1 then s.scrubStatus (Fin.ofNat 4 (idx - 0x8200)) else s.rotateStatus (Fin.ofNat 4 (idx - 0x8200)))
  else if 0xB010 ≤ idx ∧ idx < 0xB014 then (if v = 1 ∧ s.bladeInUse (Fin.ofNat 4 (idx - 0xB010)) then 0xB0 else 0)
  else if 0xD200 ≤ idx ∧ idx < 0xD204 then
    (let k := s.recoveryStatus (Fin.ofNat 4 (idx - 0xD200)) v (p.entry idx 8)
     if k = 0x07 then 0 else k)
  else 0

/-- Step 5 of Table 14-8. -/
def State.step5 (s p : State) (items : List Item) : List Failure :=
  items.flatMap fun i =>
    match i.value with
    | .bytes bs =>
      let c := Fin.ofNat 4 (i.index - 0x8400)
      if i.index = 0x8400 + c.val ∧ i.sub = 5 then
        let k := s.unsealStatus c (ofLeBytes bs)
        failIf (k != 0 && k != 0x07) i.index i.sub k
      else []
    | .num v =>
      let k := if isCommand i.index i.sub then s.commandStatus p i.index v
        else if v = s.entry i.index i.sub then 0 else s.busyStatus p items i.index i.sub
      failIf (k != 0) i.index i.sub k

/-! ## Step 6: part commands (R609) -/

/-- The parts that items activate. -/
def activations (items : List Item) : List Nat := (List.range 8).filter fun c => commandOf items (0xC300 + c) 4 == 1

/-- Step 6 of Table 14-8, with the ACTIVATEs that are pending. -/
def State.step6 (s : State) (pending : List Nat) (items : List Item) : List Failure :=
  (List.range 8).flatMap fun c =>
    let k := s.partStatus (Fin.ofNat 9 c) (commandOf items (0xC300 + c) 4) (pending ++ activations items)
    failIf (k != 0) (0xC300 + c) 4 k

/-- Steps 3 to 6: the step and its first failure. -/
def State.commitFailure (s p : State) (before : List (List Item)) (pending : List Nat) (items : List Item) (edge : Bool) :
    Option (Nat × Failure) :=
  match firstFail (s.step3 p items edge) with
  | some f => some (3, f)
  | none => match firstFail (s.step4 p before) with
    | some f => some (4, f)
    | none => match firstFail (s.step5 p items) with
      | some f => some (5, f)
      | none => (firstFail (s.step6 pending items)).map fun f => (6, f)

/-! ## The refusal record (Table 14-7) -/

/-- A claimant in the record. -/
def claimant : Option Claim → List Byte
  | some k => beBytes 2 k.index ++ beBytes 1 k.sub ++ beBytes 1 k.bit
  | none => [0, 0, 0, 0xFF]

/-- The record: commit id, place (1 at receipt, 2 at the edge), step, failure. -/
def refusal (id place step : Nat) (f : Failure) : List Byte :=
  beBytes 8 id ++ beBytes 1 f.status ++ beBytes 1 place ++ beBytes 2 step ++ beBytes 2 f.index ++ beBytes 1 f.sub ++ [0]
    ++ beBytes 2 f.resource ++ claimant f.a ++ claimant f.b ++ List.replicate 6 0

/-! ## A commit takes effect (R602) -/

/-- A region of the new table (R294): OFF, FILLING, or its cacheable flag alone. -/
def State.applyRegion (s : State) (old : State) (items : List Item) (r : Fin 64) : State :=
  let g := s.regions[r]
  let e := 0x4100 + r.val
  let lost := fun (s : State) => (s.invalidateRegion r).loseSlots r
  if s.entry e 5 = 0 then
    if g.state = .off then s else (lost s).onRegion r fun g => { g with state := .off }
  else if g.state = .off ∨ (g.state = .invalid ∧ items.any fun i => i.index == e) ∨ old.regionChanges s r then
    let n := s.newRegion r
    ((lost s).zeroRegion n).onRegion r fun _ => n
  else if g.cacheable ∧ s.entry e 8 = 0 then (s.invalidateRegion r).onRegion r fun g => { g with cacheable := false }
  else s.onRegion r fun g => { g with cacheable := s.entry e 8 == 1 }

/-- The Logbook ring (R468, R469). -/
def State.applyRing (s : State) (old : State) : State :=
  if old.entry 0xA000 1 = s.entry 0xA000 1 then s
  else
    let s : State := { s with regions := Vector.ofFn fun r : Fin 64 => { s.regions[r] with loggedOut := s.entry 0xA000 1 == r.val } }
    let s := if h : s.entry 0xA000 1 < 64 then s.invalidateRegion ⟨s.entry 0xA000 1, h⟩ else s
    if s.logRegion.isSome then s.copyToRing else s

/-- The monitors whose configuration the items hold start a window (R473). -/
def State.applyErg (s : State) (items : List Item) : State :=
  { s with ergs := Vector.ofFn fun m : Fin 64 =>
    let e := s.ergs[m]
    if items.any fun i => i.index == 0xA100 + m.val then
      { lastMin := e.lastMin, lastMax := e.lastMax, lastCount := e.lastCount, lastSum := e.lastSum, lastBins := e.lastBins
        lastClose := e.lastClose }
    else e }

/-- Links (R409, R410, R413, R416, R421, R425): a disabled Oarlock goes DOWN, the Sweeps follow, the credits that the buffers now
back are granted, the IDLE words follow, held Oarlocks are checked again, EV-5011. A change of the module's own id can make a hop a Fleet hop (0x52ss.05). -/
def State.applyLinks (s : State) (old : State) (items : List Item) : State :=
  let s := (List.finRange 24).foldl (fun (s : State) o =>
    if old.entry (0x5100 + o.val) 2 = 1 ∧ s.entry (0x5100 + o.val) 2 = 0 then s.downOar o else s) s
  let moved := old.entry 0x1020 1 != s.entry 0x1020 1 ||
    (List.finRange 24).any fun o => old.entry (0x5100 + o.val) 3 != s.entry (0x5100 + o.val) 3
  let s := if moved then (List.finRange 12).foldl (fun (s : State) w => s.refreshSweep w) s else s
  let s := (List.finRange 12).foldl (fun (s : State) w => s.topUp w) s
  let s := (List.finRange 24).foldl (fun (s : State) o => s.fillIdle o) s
  if items.any fun i => isWiring i.index i.sub then
    let changed := maskOf ((List.range 24).map fun o =>
      old.entry (0x5100 + o) 4 != s.entry (0x5100 + o) 4 || old.entry (0x5100 + o) 5 != s.entry (0x5100 + o) 5)
    (s.raise 0x5011 [changed]).recheckHolds
  else s

/-- The stroke grid (R442): a new P alone is anchored at the commit stroke; a new t0 or S0 defines the grid, EV-2003. -/
def State.applyGrid (s : State) (old : State) (stroke : Nat) : State :=
  if old.entry 0x2000 3 = s.entry 0x2000 3 ∧ old.entry 0x2000 4 = s.entry 0x2000 4 then
    if old.entry 0x2000 1 = s.entry 0x2000 1 then s
    else (s.setEntry 0x2000 3 ((old.edgeTime stroke).toNat % 2 ^ 64)).setEntry 0x2000 4 stroke
  else
    let s := s.newGrid
    s.raise 0x2003 [old.stampAt (s.clock.now - 1), s.stamp]

/-- The time mode (R445 to R447): in FREE the oscillator runs undisciplined; another mode or domain has its own master; the seconds
value of PIN. -/
def State.applyTime (s : State) (old : State) (items : List Item) : State :=
  let mode := s.entry 0x2010 1
  let s := if mode = old.entry 0x2010 1 ∧ s.entry 0x2010 3 = old.entry 0x2010 3 then s
    else { s with clock := { s.clock with master := [], parentTicks := false } }
  let s := if mode = 3 ∧ old.entry 0x2010 1 ≠ 3 then
      { s.enterTime .free with clock := { (s.enterTime .free).clock with adjust := 0, estimate := 0 } }.setEntry 0x2010 9 0
    else s
  if mode = 2 ∧ (names items 0x2000 7 ∨ old.entry 0x2010 1 ≠ 2) then
    { s with clock := { s.clock with pinBase := some (s.entry 0x2000 7) } }
  else s

/-- The management address (R586): the static one, or one that DHCP has still to give. -/
def State.applyAddress (s : State) (old : State) : State :=
  if s.entry 0x1030 1 = 1 then s.setEntry 0x1030 5 (s.entry 0x1030 2)
  else if old.entry 0x1030 1 = 1 then ({ s with xefin := { s.xefin with dhcp := .init } }).setEntry 0x1030 5 0
  else s

/-- The command of one entry acts. -/
def State.applyCommand (s : State) (i : Item) : State :=
  match i.value with
  | .bytes bs => if 0x8400 ≤ i.index ∧ i.index < 0x8404 ∧ i.sub = 5 then s.startUnseal (Fin.ofNat 4 (i.index - 0x8400)) (ofLeBytes bs) else s
  | .num v =>
    if isCommand i.index i.sub = false then s
    else if i.index < 0x7340 then
      let h := Fin.ofNat 64 (i.index - 0x7300)
      match v with
      | 1 => if s.startStatus h = 0 then s.startHeat h else s
      | 2 => s.stopHeat h
      | 3 => s.suspendHeat h
      | 4 => s.resumeHeat h
      | _ => s
    else if i.index < 0x8204 then
      let c := Fin.ofNat 4 (i.index - 0x8200)
      match v with
      | 1 => if s.scrubStatus c = 0 then s.startScrub c else s
      | 2 => s.rotate c
      | _ => s
    else if i.index < 0xB014 then
      let n := Fin.ofNat 4 (i.index - 0xB010)
      match v with
      | 1 => s.rotateOut n
      | 2 => s.returnBlade n
      | _ => s
    else if i.index < 0xC308 then
      let c := Fin.ofNat 9 (i.index - 0xC300)
      match v with
      | 1 => s.activatePart c
      | 2 => s.abandonPart c
      | _ => s
    else s.recoveryCommand (Fin.ofNat 4 (i.index - 0xD200)) v

/-- The items in ascending index.sub. -/
def insertItem (i : Item) : List Item → List Item
  | [] => [i]
  | j :: t => if entryKey i.index i.sub ≤ entryKey j.index j.sub then i :: j :: t else j :: insertItem i t

/-- Whether a commit starts a job (R82; DESIGN CHOICE): it changes a Crew's job epoch without a RECOVER, and no Heat of the
module is RUNNING or PREEMPTED. -/
def State.startsJob (s old : State) (items : List Item) : Bool :=
  (s.heats.toList.all fun x => x.status != .running && x.status != .preempted) &&
    (List.range 4).any fun c => s.epoch c != old.epoch c && commandOf items (0xD200 + c) 1 != 1

/-- A commit takes effect whole (R602): Crews that dissolve are scrubbed, the values come into force, Crews that form draw their
keys with their shared semaphores 0, a job that starts counts its steps from 0 (R82), and everything that follows its entries follows them; then the commands act. -/
def State.applyItems (s : State) (items : List Item) (stroke : Nat) : State :=
  let old := s
  let s := (List.finRange 4).foldl (fun (s : State) c => if old.dissolves items c then s.startScrub c else s) s
  let s := ((items.filter fun i => !isCommand i.index i.sub).foldl State.put s).dropLostWays
  let s := if s.startsJob old items then s.setEntry 0x3020 5 0 else s
  let s := (List.finRange 4).foldl (fun (s : State) c =>
    if old.forms items c then (s.onCrew c fun x => { x with sems := [], holders := [], parked := [] }).drawCrewKeys c else s) s
  let s := (List.finRange 64).foldl (fun (s : State) r => s.applyRegion old items r) s
  let s := ((((s.applyRing old).applyErg items).applyLinks old items).applyGrid old stroke).applyTime old items
  let s := s.applyAddress old
  let s : State := if old.entry 0xB000 5 = 0 ∧ s.entry 0xB000 5 = 1 then { s with sigDump := [], capture := [] } else s
  (items.foldr insertItem []).foldl State.applyCommand s

/-- The NOTICE of a commit (R603): to the last source address of its session; the mailbox receives none. -/
def State.notice (s : State) (k : Commit) (status : Nat) (record : List Byte) : State :=
  if k.session = mailboxId then s
  else
    let open_ := s.session k.port k.session
    let m : Message := { port := (open_.map (·.port)).getD k.port, session := k.session, seq := 0, opcode := 0x0C, payload := [] }
    s.emitAll (s.frames .notice m open_.isSome status (beBytes 8 k.id ++ beBytes 1 status ++ record))

/-- The fields of bytes that are sent most significant byte first, of the given widths. -/
def beFields : List Nat → List Byte → List Int
  | [], _ => []
  | w :: ws, bs => ofBeBytes (bs.take w) :: beFields ws (bs.drop w)

/-- A commit is refused at its edge: record, count, EV-C002 with the record, NOTICE. -/
def State.refuseAtEdge (s : State) (k : Commit) (step : Nat) (f : Failure) : State :=
  let r := refusal k.id 2 step f
  let s := ((s.setBlob 0xC000 6 r).bump 0xC000 9 1).raise 0xC002
    (beFields (Event.widths { ts := 0, code := 0xC002 }) r)
  s.notice k f.status r

/-- A commit that passes at its edge: effect, count, EV-C001, NOTICE. -/
def State.acceptAtEdge (s : State) (k : Commit) : State :=
  let s := ((s.applyItems k.items k.stroke).bump 0xC000 7 1).raise 0xC001 [k.id, k.stroke, k.items.length]
  s.notice k 0 []

/-- Whether the present grid had passed the number of a pending commit when it came into force (R442). -/
def State.passed (s : State) (k : Commit) : Bool := s.clock.gridFrom.any fun t => decide (s.edgeTime k.stroke < (t : Int))

/-- The edge at which a pending commit has its turn (R442, R602): that of its stroke, or, when the grid has passed its number, the first
edge of the grid. -/
def State.turnOf (s : State) (k : Commit) : Nat :=
  if s.passed k then s.edgeAfter (s.clock.gridFrom.getD 0) else (s.edgeTime k.stroke).toNat

/-- The pending commit whose turn is next: the earliest edge, the first accepted. -/
def nextCommit (turn : Commit → Nat) : List Commit → Option Commit
  | [] => none
  | k :: t => match nextCommit turn t with
    | some j => if turn j < turn k then some j else some k
    | none => some k

/-- COMMIT_APPLY (R602): at the edge of its stroke the next pending commit is checked again and takes effect whole, or is
refused. One whose number a new grid has passed is refused with ST-C3 at that grid's first edge (R442). -/
def execCommitApply (s : State) : Host.Outcome State Fault Refusal :=
  .next (
    if s.inReset then s
    else match nextCommit s.turnOf s.xefin.commits with
      | none => s
      | some k =>
        let passed := s.passed k
        let s := s.advanceTo (s.turnOf k)
        let s : State := { s with xefin := { s.xefin with commits := s.xefin.commits.filter fun j => j.id != k.id } }
        if passed then s.refuseAtEdge k 2 { index := 0, sub := 0, status := 0xC3 }
        else
          let pending := s.xefin.commits.flatMap fun j => activations j.items
          match s.commitFailure (s.project k.items) [] pending k.items true with
          | some (step, f) => s.refuseAtEdge k step f
          | none => s.acceptAtEdge k)

/-! ## COMMIT and CANCEL (R600, R601, R603) -/

/-- The lead of 0xC000.03, in ns. -/
def State.lead (s : State) : Nat := s.entry 0xC000 3 * 1000

/-- The earliest stroke that a COMMIT may name now (R600). -/
def State.earliest (s : State) : Nat :=
  let n := (s.strokeAt (s.clock.now + s.lead)).toNat
  if s.edgeTime n < (s.clock.now + s.lead : Nat) then n + 1 else n

/-- The stroke that a COMMIT names by its low 40 bits (Table 14-4, R441): the one of the current run of 2⁴⁰ numbers, or of the next
where that lies 2³⁹ or more back. -/
def State.namedStroke (s : State) (n : Nat) : Nat :=
  let now := (s.strokeAt s.clock.now).toNat
  let k := now / 2 ^ 40 * 2 ^ 40 + n
  if k + 2 ^ 39 < now then k + 2 ^ 40 else k

/-- The items of the pending commits at or before a stroke, in order of acceptance. -/
def State.commitsUpTo (s : State) (stroke : Nat) : List (List Item) :=
  (s.xefin.commits.filter fun k => k.stroke ≤ stroke).map (·.items)

/-- Steps 1 to 6 of Table 14-8 at receipt. In recovery mode the stroke is ignored (R607). -/
def State.receiptFailure (s : State) (stroke : Nat) : Option (Nat × Failure) :=
  let plain := fun (st : Nat) => ({ index := 0, sub := 0, status := st } : Failure)
  let items := s.xefin.staged
  let before := s.commitsUpTo stroke
  let p := items |> (before.foldl (fun (p : State) is => p.project is) s).project
  if items = [] then some (1, plain 0xC6)
  else if s.recovering then (firstFail (s.step6 [] items)).map fun f => (6, f)
  else if s.edgeTime stroke < (s.clock.now + s.lead : Nat) then some (2, plain 0xC3)
  else if s.strokeAt s.clock.now + 2 ^ 24 < (stroke : Int) then some (2, plain 0xC4)
  else if 8 ≤ s.xefin.commits.length then some (2, plain 0xC5)
  else s.commitFailure p before (s.xefin.commits.flatMap fun j => activations j.items) items false

/-- COMMIT (R599 to R601, R607). -/
def State.doCommit (s : State) (m : Message) : Nat × List Byte × State :=
  let p := m.payload
  let flags := (p.getD 8 0).toNat
  if p.length ≠ 16 ∨ 2 ≤ flags ∨ (p.drop 9).any (· != 0) then (0x01, [], s)
  else if s.xefin.stager ≠ 0 ∧ s.xefin.stager ≠ m.session then (0xC0, [], s)
  else
    let named := ofBeBytes (p.take 8) % 2 ^ 40
    let stroke := if named = 0 then s.earliest else s.namedStroke named
    match s.receiptFailure stroke with
    | some (step, f) =>
      let r := refusal 0 1 step f
      let s := if flags = 1 then s else (s.setBlob 0xC000 6 r).bump 0xC000 8 1
      (f.status, beBytes 8 0 ++ beBytes 8 (stroke % 2 ^ 40) ++ r, s)
    | none =>
      if flags = 1 then (0, beBytes 8 0 ++ beBytes 8 (stroke % 2 ^ 40), s)
      else
        let id := s.entry 0xC000 5 + 1
        let k : Commit := { id := id, stroke := stroke, items := s.xefin.staged, session := m.session, port := m.port }
        let s := s.clearStage.setEntry 0xC000 5 id
        let s : State := if s.recovering then
            ((k.items.foldr insertItem []).foldl State.applyCommand s |>.bump 0xC000 7 1).raise 0xC001 [id, stroke, k.items.length]
          else { s with xefin := { s.xefin with commits := s.xefin.commits ++ [k] } }
        (0, beBytes 8 id ++ beBytes 8 (stroke % 2 ^ 40), s)

/-- COMMIT (R601). -/
def execCommit (q : XefinFrame) (s : State) : Host.Outcome State Fault Refusal :=
  .next (s.xefinFrame q (fun op _ => op == 7) State.doCommit)

/-- CANCEL (R603): an id that is not a pending commit of the session is outside the range of the field. -/
def State.doCancel (s : State) (m : Message) : Nat × List Byte × State :=
  if m.payload.length ≠ 8 then (0x01, [], s)
  else match s.xefin.commits.find? fun k => k.id == ofBeBytes m.payload && k.session == m.session with
    | none => (0x07, [], s)
    | some k =>
      if s.edgeTime k.stroke < (s.clock.now + s.lead : Nat) then (0xC3, [], s)
      else (0, [], ({ s with xefin := { s.xefin with commits := s.xefin.commits.filter fun j => j.id != k.id } }).bump 0xC000 0xA 1)

/-- CANCEL (R603). -/
def execCancel (q : XefinFrame) (s : State) : Host.Outcome State Fault Refusal :=
  .next (s.xefinFrame q (fun op _ => op == 8) State.doCancel)

end Sys2Proof.Machine
end

