-- ==== Sys2Proof/Machine/Illegal.lean ====
section
/-! DEFINITION. Instruction words that name no instruction (R203, R249). -/
namespace Sys2Proof.Machine

/-- How many opcodes a class lists, from 0x01 up (Tables 05-3, 05-10, 05-12, 05-13 and the SYNC and CTRL tables; R213). -/
def opcodesOf : Nat → Nat
  | 1 => 0x01
  | 2 => 0x06
  | 3 => 0x11
  | 4 => 0x04
  | 5 => 0x07
  | 6 => 0x0A
  | _ => 0

/-- Whether the opcode of a word is listed for its class (R203). -/
def listedWord (w : Nat) : Bool := 1 ≤ bitsOf w 52 8 && bitsOf w 52 8 ≤ opcodesOf (bitsOf w 60 4)

/-- Whether a word is a CT_SVC whose service is not in Table 05-16. -/
def unknownService (w : Nat) : Bool :=
  bitsOf w 60 4 == 6 && bitsOf w 52 8 == 0x0A && !(1 ≤ bitsOf w 40 12 && bitsOf w 40 12 ≤ 4)

/-- ILLEGAL (R203): a word with a reserved class or an unlisted opcode faults its Heat with ILLEGAL at issue. A CT_SVC with a
service number that is not listed faults with SVC at its check (R249, R250). A word that names an instruction is that instruction's command. -/
def execIllegal (h : Fin 64) (l : Fin 4) (word : BitVec 64) (s : State) : Host.Outcome State Fault Refusal :=
  let w := word.toNat
  s.issue h l
    (if listedWord w then
      [(.insnReserved, unknownService w && bitsOf w 0 15 != 0), (.semRange, unknownService w && semBad true (bitsOf w 15 9))]
    else [(.illegal, true)])
    fun s' => if unknownService w then s'.faultHeat h l (s'.lane h l).pc .svc else if listedWord w then s else s'

end Sys2Proof.Machine
end

