-- ==== Sys2Proof/Machine/Power.lean ====
section
/-! DEFINITION. Resets, power-up, READY, the thermal trip and the test access port (R564, R606, R617 to R626, R655 to R661). -/
namespace Sys2Proof.Machine

/-! ## Resets of the whole module (R617, R618, R660) -/

/-- What the flash keeps of a component (R612, R618): its slots, slot selection, counters. A slot that was being written holds a
part of an image, which boot finds INVALID. -/
def Part.keep (p : Part) : Part := { slots := p.slots, preferred := p.preferred, rollback := p.rollback, seq := p.seq }

/-- A reset of the whole module (R618): only the flash is kept. What has been sent, what waits and the count of the free values
belong to no register. The pins and the test access port keep their levels. Causes: 1 PWR_OK, 2 SYS_RST_N, 3 RESET. -/
def State.wholeReset (s : State) (cause : Nat) : State :=
  let s0 := State.reset
  { s0 with
    pending := s.pending, draws := s.draws, out := s.out
    parts := s.parts.map Part.keep
    signer := { blocks := s.signer.blocks }
    flashWrites := s.flashWrites
    power := { s0.power with
      pwrOkLow := s.power.pwrOkLow, sysRstLow := s.power.sysRstLow, perstLow := s.power.perstLow
      tripRecord := s.power.tripRecord, tap := s.power.tap, scanCells := s.power.scanCells } }.setEntry 0xD000 3 cause

/-- The instructions of R661 that act only in reset. -/
def onlyInReset (i : JtagInstr) : Bool :=
  match i with
  | .extest | .extestPulse | .extestTrain | .clamp | .highz => true
  | .bypass | .samplePreload | .other => false

/-- Whether the pins allow boundary scan to drive (R661): PWR_OK high and SYS_RST_N low. -/
def State.scanDrives (s : State) : Bool := !s.power.pwrOkLow && s.power.sysRstLow

/-- The levels of PWR_OK and SYS_RST_N change; at the later rising of the two the timeline starts (R660), and the boot ROM reads the
PUF (R504). -/
def State.resetPins (s : State) (pwrOkLow sysRstLow : Bool) : State :=
  let s : State := { s with power := { s.power with pwrOkLow := pwrOkLow, sysRstLow := sysRstLow } }
  let s : State := if s.scanDrives then s else
    { s with power := { s.power with tap := if onlyInReset s.power.tap then .bypass else s.power.tap } }
  if pwrOkLow || sysRstLow then s else { s with clock := {} }.readPuf

/-- PWR_OK (R617, R659, R660): low for `ns`, at least 100 ns of it, resets the module, and clears a trip, since the board drops it
when the supplies go; it rises. -/
def execPwrOk (low : Bool) (ns : Nat) (s : State) : Host.Outcome State Fault Refusal :=
  .next (
    if low then
      if ns < 100 ∨ s.power.pwrOkLow then s
      else (s.wholeReset 1).resetPins true s.power.sysRstLow
    else if s.power.pwrOkLow then s.resetPins false s.power.sysRstLow
    else s)

/-- SYS_RST_N (R617, R618, R659): low for 1 µs resets the module, unless it has tripped. -/
def execSysRstN (low : Bool) (ns : Nat) (s : State) : Host.Outcome State Fault Refusal :=
  .next (
    if low then
      if ns < 1000 ∨ s.power.sysRstLow then s
      else if s.power.tripped then { s with power := { s.power with sysRstLow := true } }
      else if s.power.pwrOkLow then s.resetPins true true
      else (s.wholeReset 2).resetPins false true
    else if s.power.sysRstLow then
      if s.power.tripped then { s with power := { s.power with sysRstLow := false } } else s.resetPins s.power.pwrOkLow false
    else s)

/-- RESET (R617): 1 ms after the response to the write of 0xD000.02. -/
def execReset (s : State) : Host.Outcome State Fault Refusal :=
  .next (match s.power.resetAt with
    | some _ => if s.inReset then s else (s.wholeReset 3).readPuf
    | none => s)

/-- PERST_N (R619, R622, R660): low closes the mailbox and loses what is in progress there; during a reset of the whole module only the
level counts. -/
def execPerstN (low : Bool) (s : State) : Host.Outcome State Fault Refusal :=
  .next (
    if low then
      let s : State := { s with power := { s.power with perstLow := true, mailboxOpen := false } }
      if s.inReset then s
      else { s with xefin := { s.xefin with
        mailbox := { id := mailboxId, port := .mailbox }, spdmDoe := .fresh
        assemblies := s.xefin.assemblies.filter (·.port != .mailbox) } }
    else { s with power := { s.power with perstLow := false, perstRose := if s.inReset then 0 else s.clock.now } })

/-! ## The first second (R606, R621 to R624) -/

/-- XEFIN_PHASE_1 (R591, R606): at 100 ms, once boot has ended. The management key pair is drawn. -/
def execXefinPhase1 (s : State) : Host.Outcome State Fault Refusal :=
  .next (
    if s.inReset ∨ s.xefin.phase ≠ 0 ∨ s.boot = .rom ∨ s.boot = .stage1 then s
    else
      let s := s.advanceTo 100000000
      { s with xefin := { s.xefin with phase := 1 } }.drawPowerUpKeys)

/-- The unit class and number of a unit under seat test, as EV-B010 carries them. -/
def State.markSuspect (s : State) (u : Fin 36) : State :=
  let k := seatKind u
  (s.onSeat u fun x => { x with suspect := true }).raiseUnit (if u.val < 32 then dieOf 8 (u.val % 16) else dieOf 2 k.2) 0xB010 k.1 k.2 []

/-- XEFIN_PHASE_2 (R514, R577, R606, R621): at 150 ms; every unit has run its power-up campaign, and `failed` are the units whose
campaign did not pass. -/
def execXefinPhase2 (failed : BitVec 36) (s : State) : Host.Outcome State Fault Refusal :=
  .next (
    if s.inReset ∨ s.xefin.phase ≠ 1 then s
    else
      let s := s.advanceTo 150000000
      let s : State := { s with xefin := { s.xefin with phase := 2 } }
      if s.recovering then s
      else
        let s : State := { s with seat := s.seat.map fun x => { x with doneAt := 140000000 } }
        let s := (List.finRange 36).foldl (fun (s : State) u =>
          if failed.getLsbD u.val && (seatBlade u).all (fun n => bitOf s.bladeMap n.val) then s.markSuspect u else s) s
        s.moduleState (if s.power.incomplete then 4 else 1))

/-- The field of an HBM command that refreshes every bank of a channel; a per-bank refresh names pseudo-channel 0 or 1. -/
def allBanks : Int := 2

/-- HBM_TRAINING_END (R287, R555, R623): the channels of enabled Blades that passed are healthy, the others are left out. The
power-up ends with the one all-bank refresh of each channel. -/
def execHbmTrainingEnd (passed : BitVec 384) (s : State) : Host.Outcome State Fault Refusal :=
  .next (
    if s.inReset ∨ s.xefin.phase ≠ 2 ∨ s.power.hbmTrained ∨ s.recovering then s
    else
      { s with
        power := { s.power with hbmTrained := true }
        channels := Vector.ofFn fun ch : Fin 384 => { s.channels[ch] with
          healthy := passed.getLsbD ch.val && bitOf s.bladeMap (ch.val / 96), lastRetrain := s.clock.now }
        hbmStacks := Vector.ofFn fun k : Fin 12 =>
          if bitOf s.bladeMap (k.val / 3) then
            { s.hbmStacks[k] with ready := true, refreshed := (List.range 1024).map fun i => (i, s.clock.now + 1) }
          else { s.hbmStacks[k] with ready := false }
        out := s.out ++ ((List.range 384).filter fun ch => bitOf s.bladeMap (ch / 96)).map fun ch =>
          { kind := .hbmCommand, unit := ch, fields := [allBanks] } })

/-- LINK_TRAINING_BEGIN (R624): at 300 ms. -/
def execLinkTrainingBegin (s : State) : Host.Outcome State Fault Refusal :=
  .next (if s.inReset ∨ s.linkTraining ∨ s.boot ≠ .running then s else { s.advanceTo 300000000 with linkTraining := true })

/-- Whether every enabled Oarlock has completed a training attempt, or 900 ms have passed (R625). -/
def State.linksTried (s : State) : Bool :=
  900000000 ≤ s.clock.now || (List.finRange 24).all fun o =>
    s.entry (0x5100 + o.val) 2 == 0 || s.oarlocks[o].trained || s.oarlocks[o].state == .hold || s.oarlocks[o].state == .admitted

/-- The conditions of R625. -/
def State.readyNow (s : State) : Bool :=
  s.boot == .running && [(1 : Fin 9), 2, 3, 4, 5, 6].all (fun c => (s.parts[c]).running.isSome)
    && ((s.parts[8]).slots[(s.parts[8]).preferred]).state == .valid
    && s.trngOk && s.power.hbmTrained && s.linksTried

/-- MODULE_READY (R625, R626): BRINGUP becomes READY; 0xD000.04 takes the time since power-good in µs. -/
def execModuleReady (s : State) : Host.Outcome State Fault Refusal :=
  .next (
    if s.inReset ∨ s.entry 0xD000 1 ≠ 1 ∨ s.readyNow = false then s
    else (s.setEntry 0xD000 4 (s.clock.now / 1000 % 2 ^ 32)).moduleState 2)

/-- MAILBOX_OPEN (R622): 150 ms after the later of power-good and the rise of PERST_N. -/
def execMailboxOpen (s : State) : Host.Outcome State Fault Refusal :=
  .next (
    if s.inReset ∨ s.power.perstLow ∨ s.power.mailboxOpen then s
    else
      let s := s.advanceTo (s.power.perstRose + 150000000)
      { s with power := { s.power with mailboxOpen := true } })

/-! ## The trip (R564) -/

/-- THERMAL_TRIP (R564): a sensor at 115 °C. Every clock stops, the transmitters are idle, THERMTRIP_N is low, the flash records the
trip; nothing happens until the supplies are removed, and of what the module held then only the flash remains. -/
def execThermalTrip (mc : BitVec 32) (s : State) : Host.Outcome State Fault Refusal :=
  .next (
    if s.inReset ∨ mc.toInt < 115000 then s
    else
      let s := s.wholeReset (s.entry 0xD000 3)
      let s : State := { s with power := { s.power with tripped := true, tripRecord := true } }
      s.emit { kind := .pin, unit := 3, fields := [0] })

/-! ## The test access port (R661) -/

/-- The instruction that takes effect: those that drive pins only in reset. -/
def State.tapEffect (s : State) (i : JtagInstr) : JtagInstr :=
  if i = .other ∨ (onlyInReset i ∧ s.scanDrives = false) then .bypass else i

/-- BOUNDARY_SCAN (R661): SAMPLE/PRELOAD loads the cells; EXTEST and its kin drive what the cells hold. -/
def execBoundaryScan (i : JtagInstr) (cells : BitVec 430) (s : State) : Host.Outcome State Fault Refusal :=
  .next (
    let e := s.tapEffect i
    let s : State := { s with power := { s.power with tap := e, scanCells := if e = .samplePreload then cells else s.power.scanCells } }
    if onlyInReset e then s.emit { kind := .pin, unit := 4, fields := [s.power.scanCells.toNat] } else s)

end Sys2Proof.Machine
end

