-- ==== Sys2Proof/Machine/Stroke.lean ====
section
/-! DEFINITION. The stroke edge and the maintenance slot (R240, R245, R403, R440, R458, R482, R552). -/
namespace Sys2Proof.Machine

/-- The operating hint of the last CT_PHASE comes into force (R245). -/
def Blade.takePhase (b : Blade) : Blade := { b with phase := b.phaseNext.getD b.phase, phaseNext := none }

/-- A lane whose next frame may open opens it at edge `t` (R240). -/
def Lane.openAt (x : Lane) (t : Nat) : Lane :=
  match x.stop with
  | .unopened n => { x with frame := n, openedAt := t, leftAt := t, stop := .running }
  | _ => x

/-- The frames that open at an edge: those of the RUNNING Heats (R240). -/
def State.openFrames (s : State) (t : Nat) : State :=
  { s with heats := s.heats.map fun (x : Heat) =>
      if x.status = .running then { x with strokesRun := x.strokesRun + 1, lanes := x.lanes.map (·.openAt t) } else x }

/-- TICK_SEND (R403): a TICK word on every ADMITTED Oarlock, with the stroke and the delay of its word slot after the edge. -/
def State.sendTicks (s : State) : State :=
  (List.finRange 24).foldl (fun (s : State) o =>
    if s.oarlocks[o].state = .admitted then
      let (d, s) := s.draw
      s.sendWord o (.tick (s.clock.stroke % 2 ^ 40).toNat d)
    else s) s

/-- The Erg sources that give a sample at each edge (Table 10-7), and one more stroke in every window. -/
def State.edgeSamples (s : State) : State :=
  let s := s.feed 7 0 (s.entry 0x9000 2)
  let s := (List.range 2).foldl (fun (s : State) d => s.feed 8 d (s32 (s.entry (0x9120 + d) 1))) s
  let s := (List.range 4).foldl (fun (s : State) n => s.feed 9 n (s.entry (0x9100 + n) 4)) s
  let s := (List.finRange 4).foldl (fun (s : State) c => s.feed 11 c.val (s.crews[c].admission.length)) s
  { s with ergs := s.ergs.map fun (e : Erg) => { e with strokes := e.strokes + 1 } }

/-- The work of an edge, after its commits: the Pacer targets, the scheduler, ADMIT, the opening of frames (R602); starved
strokes, ticks, samples, and the pulse of a TICK_OUT set to stroke edge out, as long as the shorter of 1 µs and a quarter
period (R454). -/
def State.edgeWork (s : State) : State :=
  let all := List.finRange 64
  let s := State.moveBlades { s with blades := s.blades.map (·.takePhase) }
  let s := all.foldl State.requestPreemption s
  let s := all.foldl State.resumeRestored s
  let s := all.foldl State.admitAtEdge s
  let s := all.foldl State.starve (s.openFrames s.clock.now)
  let s := s.sendTicks.edgeSamples.idleSlices
  if s.entry 0x2010 0xA = 1 then s.emit { kind := .pin, unit := 1, fields := [1, (min 1000 (s.period / 4) : Nat)] } else s

/-- STROKE_EDGE (R440): module time reaches the edge of the next stroke. -/
def execStrokeEdge (s : State) : Host.Outcome State Fault Refusal :=
  let n := s.clock.stroke + 1
  .next (if s.inReset then s
  else
    let s := s.advanceTo (s.edgeTime n).toNat
    State.edgeWork { s with clock := { s.clock with stroke := n, slotOpen := false } })

/-- MAINTENANCE_SLOT_OPEN (R458): the last slot length of the stroke period begins; channels retrain (R327) and seat-test slices
start (R574). A share of 0 gives no slot. -/
def execMaintenanceSlotOpen (s : State) : Host.Outcome State Fault Refusal :=
  .next (if s.inReset ∨ s.slotLength = 0 ∨ s.clock.slotOpen then s
  else
    let s := s.advanceTo (s.edgeTime (s.clock.stroke + 1) - s.slotLength).toNat
    State.startSlices (State.openRetrain { s with clock := { s.clock with slotOpen := true } }))

end Sys2Proof.Machine
end

