-- ==== Sys2Proof/Machine/Spdm.lean ====
section
/-! DEFINITION. The SPDM responder (R523, R524). The bytes of a message follow DMTF DSP0274, which R523 names: version, code, two
parameters, then the body with multi-byte fields little-endian. -/
namespace Sys2Proof.Machine

/-- A request, as its bytes. -/
def spdmVersion (m : List Byte) : Nat := (m.getD 0 0).toNat
@[inherit_doc spdmVersion] def spdmCode (m : List Byte) : Nat := (m.getD 1 0).toNat
@[inherit_doc spdmVersion] def spdmParam (m : List Byte) (i : Nat) : Nat := (m.getD (1 + i) 0).toNat
@[inherit_doc spdmVersion] def spdmField (m : List Byte) (at_ n : Nat) : Nat := ofLeBytes ((m.drop at_).take n)

/-- The requests of Table 12-6. -/
def spdmSupported : List Nat := [0x81, 0x82, 0x83, 0x84, 0xE0, 0xE1, 0xE3]

/-- What a request gives: a response, an ERROR with its code, both with the state that follows. -/
structure SpdmAnswer where
  error : Bool := false
  bytes : List Byte
  conn : SpdmState
  st : State

/-- The version that an answer carries. -/
def SpdmState.versionOf : SpdmState → Nat
  | .capabilities v => v
  | .negotiated v => v
  | _ => 0x10

/-- A message: version, code, two parameters and a body. -/
def spdmMessage (version code p1 p2 : Nat) (body : List Byte) : List Byte :=
  beBytes 1 version ++ beBytes 1 code ++ beBytes 1 p1 ++ beBytes 1 p2 ++ body

/-- ERROR with its code and data. -/
def spdmError (s : State) (c : SpdmState) (code data : Nat) : SpdmAnswer :=
  { error := true, bytes := spdmMessage c.versionOf 0x7F code data [], conn := c, st := s }

/-! ## The measurement blocks (Table 12-7) -/

/-- The committed values that block 15 covers, in the order of Table 12-7. -/
def State.measuredConfig (s : State) : List Byte :=
  let family := fun (base n : Nat) (subs : List Nat) => (List.range n).flatMap fun i =>
    subs.flatMap fun sub => match dictRow (base + i) sub with
      | some r => s.valueBytes r (base + i) sub
      | none => []
  family 0x7000 4 [1, 2, 3] ++ family 0x4100 64 [3, 4, 5, 6, 7] ++ family 0x4200 2 [1, 2, 3, 4, 5] ++ family 0x7300 64 [4, 5]

/-- The value of a block. -/
def State.measurement (s : State) (i : Nat) : List Byte :=
  if i = 1 then (List.range 32).map (Config.identityByte 0x8010 8)
  else if i ≤ 7 then s.headerDigest (Fin.ofNat 9 (i - 1))
  else if i = 8 then (match s.ownerSet with
    | some _ => s.headerDigest 7
    | none => List.replicate 32 0)
  else if i = 9 then ((List.range 8).flatMap fun k => beBytes 1 (s.componentEntry (Fin.ofNat 9 (k + 1)) 2))
    ++ (List.range 4).flatMap fun k => leBytes 2 (s.componentEntry (Fin.ofNat 9 (k + 1)) 4)
  else if i = 10 then beBytes 1 s.boot.code ++ beBytes 1 s.bladeMap ++ beBytes 1 s.ownerFlags ++ beBytes 1 s.trngMask
    ++ List.replicate 4 0
  else if i ≤ 14 then (match (s.trust[Fin.ofNat 4 (i - 11)]).receipt with
    | some k => digest (k ++ leBytes 4 (s.trust[Fin.ofNat 4 (i - 11)]).generation)
    | none => List.replicate 32 0)
  else digest s.measuredConfig

/-- A DMTF measurement block: index, specification, sizes, value type (bit 7 for a raw value), value. -/
def State.measurementBlock (s : State) (i : Nat) : List Byte :=
  let v := s.measurement i
  let raw := if i = 9 ∨ i = 10 then 128 else 0
  beBytes 1 i ++ [1] ++ leBytes 2 (v.length + 3) ++ beBytes 1 (raw + Config.measurementType i % 128) ++ leBytes 2 v.length ++ v

/-- All blocks. -/
def State.measurementBlocks (s : State) : List Byte := (List.range 15).flatMap fun i => s.measurementBlock (i + 1)

/-- The certificate chain of slot 0: that of the DEVCERT image. -/
def State.chain (s : State) : List Byte := Config.certChain (s.parts[8]).slots[0].image

/-! ## The requests (Table 12-6) -/

/-- The version byte of a request against the connection: ERROR VersionMismatch, or UnexpectedRequest before the connection
has come as far as `ready` asks. -/
def spdmGate (s : State) (c : SpdmState) (m : List Byte) (least : Nat) (ok : SpdmState → Bool) (f : Nat → SpdmAnswer) : SpdmAnswer :=
  if !ok c then spdmError s c 0x04 0
  else if spdmVersion m ≠ c.versionOf then spdmError s c 0x41 0
  else if m.length < least then spdmError s c 0x01 0
  else f c.versionOf

/-- Whether the algorithms are negotiated. -/
def SpdmState.ready : SpdmState → Bool
  | .negotiated _ => true
  | _ => false

/-- GET_VERSION: versions 1.2 and 1.3; the connection starts anew. -/
def State.spdmGetVersion (s : State) (c : SpdmState) (m : List Byte) : SpdmAnswer :=
  if spdmVersion m ≠ 0x10 then spdmError s c 0x41 0
  else { bytes := spdmMessage 0x10 0x04 0 0 ([0, 2] ++ leBytes 2 0x1200 ++ leBytes 2 0x1300), conn := .version, st := s }

/-- GET_CAPABILITIES: CERT_CAP, CHAL_CAP, MEAS_CAP with signatures; CT exponent 20. The message sizes are free. -/
def State.spdmGetCapabilities (s : State) (c : SpdmState) (m : List Byte) : SpdmAnswer :=
  let v := spdmVersion m
  if c = .fresh then spdmError s c 0x04 0
  else if v ≠ 0x12 ∧ v ≠ 0x13 then spdmError s c 0x41 0
  else if m.length < 20 then spdmError s c 0x01 0
  else
    let (sizes, s) := s.drawBytes 4
    { bytes := spdmMessage v 0x61 0 0 ([0, 20, 0, 0] ++ leBytes 4 0x16 ++ sizes ++ sizes), conn := .capabilities v, st := s }

/-- NEGOTIATE_ALGORITHMS: SHA-256, no BaseAsymAlgo, the vendor-defined HSS algorithm of 0x8100.01, each where it is offered. -/
def State.spdmNegotiate (s : State) (c : SpdmState) (m : List Byte) : SpdmAnswer :=
  spdmGate s c m 32 (fun (c : SpdmState) => match c with
    | .capabilities _ => true
    | _ => false) fun v =>
    let ext := leBytes 4 (s.viewNat 0x8100 1)
    let hash := bitOf (spdmField m 12 4) 0
    let asym := (List.range (m.getD 28 0).toNat).any fun i => (m.drop (32 + 4 * i)).take 4 == ext
    let body := leBytes 2 (if asym then 40 else 36) ++ beBytes 1 (bitsOf (spdmField m 6 1) 0 1) ++ [0] ++ leBytes 4 2 ++ leBytes 4 0
      ++ leBytes 4 (if hash then 1 else 0) ++ List.replicate 12 0 ++ beBytes 1 (if asym then 1 else 0) ++ [0, 0, 0]
      ++ if asym then ext else []
    { bytes := spdmMessage v 0x63 0 0 body, conn := if hash && asym then .negotiated v else c, st := s }

/-- GET_DIGESTS: slot 0 only. -/
def State.spdmGetDigests (s : State) (c : SpdmState) (m : List Byte) : SpdmAnswer :=
  spdmGate s c m 4 SpdmState.ready fun v =>
    { bytes := spdmMessage v 0x01 (if v = 0x13 then 1 else 0) 1 (digest s.chain), conn := c, st := s }

/-- GET_CERTIFICATE: slot 0, any offset and length. -/
def State.spdmGetCertificate (s : State) (c : SpdmState) (m : List Byte) : SpdmAnswer :=
  spdmGate s c m 8 SpdmState.ready fun v =>
    let off := spdmField m 4 2
    let chain := s.chain
    if spdmParam m 1 % 16 ≠ 0 ∨ chain.length ≤ off then spdmError s c 0x01 0
    else
      let part := (chain.drop off).take (spdmField m 6 2)
      { bytes := spdmMessage v 0x02 0 0 (leBytes 2 part.length ++ leBytes 2 (chain.length - off - part.length) ++ part), conn := c, st := s }

/-- The summary that CHALLENGE names: none, TCB (which blocks belong to it the spec does not say: free), or all. -/
def State.spdmSummary (s : State) (kind : Nat) : List Byte × State :=
  if kind = 0 then ([], s) else if kind = 0xFF then (digest s.measurementBlocks, s) else s.drawBytes 32

/-- A signed response: the body that binds the nonce, then the signature; ERROR where no leaf index remains (R522). -/
def State.spdmSigned (s : State) (c : SpdmState) (v code p1 p2 : Nat) (body : List Byte) : SpdmAnswer :=
  match s.sign with
  | none => spdmError s c 0x05 0
  | some (sig, t) => { bytes := spdmMessage v code p1 p2 (body ++ sig), conn := c, st := t }

/-- The end of a response that version 1.3 gives a requester context. -/
def spdmContext (m : List Byte) (v at_ : Nat) : List Byte := if v = 0x13 then (m.drop at_).take 8 else []

/-- CHALLENGE: slot 0, summary none, TCB or all. -/
def State.spdmChallenge (s : State) (c : SpdmState) (m : List Byte) : SpdmAnswer :=
  spdmGate s c m (if c = .negotiated 0x13 then 44 else 36) SpdmState.ready fun v =>
    let kind := spdmParam m 2
    if spdmParam m 1 ≠ 0 ∨ (kind ≠ 0 ∧ kind ≠ 1 ∧ kind ≠ 0xFF) then spdmError s c 0x01 0
    else
      let (sum, t) := s.spdmSummary kind
      let (nonce, t) := t.drawBytes 32
      t.spdmSigned c v 0x03 0 1 (digest s.chain ++ nonce ++ sum ++ leBytes 2 0 ++ spdmContext m v 36)

/-- GET_MEASUREMENTS (R524): the count, one block or all; signed when requested. -/
def State.spdmGetMeasurements (s : State) (c : SpdmState) (m : List Byte) : SpdmAnswer :=
  let signed := bitOf (spdmParam m 1) 0
  spdmGate s c m ((if signed then 37 else 4) + if c = .negotiated 0x13 then 8 else 0) SpdmState.ready fun v =>
    let op := spdmParam m 2
    if (15 < op ∧ op ≠ 0xFF) ∨ (signed ∧ (m.getD 36 0).toNat % 16 ≠ 0) then spdmError s c 0x01 0
    else
      let record := if op = 0 then [] else if op = 0xFF then s.measurementBlocks else s.measurementBlock op
      let count := if op = 0 then 0 else if op = 0xFF then 15 else 1
      let p1 := if op = 0 then 15 else 0
      let (nonce, t) := s.drawBytes 32
      let body := beBytes 1 count ++ leBytes 3 record.length ++ record ++ nonce ++ leBytes 2 0 ++ spdmContext m v (if signed then 37 else 4)
      if signed then t.spdmSigned c v 0x60 p1 0 body
      else { bytes := spdmMessage v 0x60 p1 0 body, conn := c, st := t }

/-! ## The two transports (R523) -/

/-- What a request does. -/
abbrev SpdmAct := State → SpdmState → List Byte → SpdmAnswer

/-- The counts of 0x8100.02 and 0x8100.03. -/
def State.spdmCount (s : State) (error : Bool) : State :=
  let s := s.bump 0x8100 2 1
  if error then s.bump 0x8100 3 1 else s

/-- A request of `mine` arrives: over DOE on the open CXL port, or inside Xefin frames (R590). Each transport keeps its own
connection. A request of another command changes nothing here. -/
def State.spdm (s : State) (via : SpdmVia) (mine : List Byte → Bool) (act : SpdmAct) : State :=
  match via with
  | .doe m =>
    if s.portClosed .mailbox ∨ !mine m then s
    else
      let a := act s s.xefin.spdmDoe m
      let t := a.st.spdmCount a.error
      { t with
        xefin := { t.xefin with spdmDoe := a.conn }
        out := t.out ++ [{ kind := .response, unit := 2, fields := [], bytes := a.bytes }] }
  | .xefin q =>
    s.xefinFrame q (fun op p => op == 0x0B && mine p) fun s msg =>
      let a := act s s.xefin.spdmMgmt msg.payload
      let t := a.st.spdmCount a.error
      (0, a.bytes, { t with xefin := { t.xefin with spdmMgmt := a.conn } })

/-- GET_VERSION (R523). -/
def execGetVersion (via : SpdmVia) (s : State) : Host.Outcome State Fault Refusal :=
  .next (s.spdm via (spdmCode · == 0x84) State.spdmGetVersion)

/-- GET_CAPABILITIES (R523). -/
def execGetCapabilities (via : SpdmVia) (s : State) : Host.Outcome State Fault Refusal :=
  .next (s.spdm via (spdmCode · == 0xE1) State.spdmGetCapabilities)

/-- NEGOTIATE_ALGORITHMS (R523). -/
def execNegotiateAlgorithms (via : SpdmVia) (s : State) : Host.Outcome State Fault Refusal :=
  .next (s.spdm via (spdmCode · == 0xE3) State.spdmNegotiate)

/-- GET_DIGESTS (R523). -/
def execGetDigests (via : SpdmVia) (s : State) : Host.Outcome State Fault Refusal :=
  .next (s.spdm via (spdmCode · == 0x81) State.spdmGetDigests)

/-- GET_CERTIFICATE (R523). -/
def execGetCertificate (via : SpdmVia) (s : State) : Host.Outcome State Fault Refusal :=
  .next (s.spdm via (spdmCode · == 0x82) State.spdmGetCertificate)

/-- CHALLENGE (R523). -/
def execChallenge (via : SpdmVia) (s : State) : Host.Outcome State Fault Refusal :=
  .next (s.spdm via (spdmCode · == 0x83) State.spdmChallenge)

/-- GET_MEASUREMENTS (R524). -/
def execGetMeasurements (via : SpdmVia) (s : State) : Host.Outcome State Fault Refusal :=
  .next (s.spdm via (spdmCode · == 0xE0) State.spdmGetMeasurements)

/-- SPDM_UNSUPPORTED_REQUEST (R523): ERROR UnsupportedRequest, which names the request. -/
def execSpdmUnsupportedRequest (via : SpdmVia) (s : State) : Host.Outcome State Fault Refusal :=
  .next (s.spdm via (fun m => !spdmSupported.contains (spdmCode m)) fun s c m => spdmError s c 0x07 (spdmCode m))

end Sys2Proof.Machine
end

