-- ==== Sys2Proof/Machine/Dispatch.lean ====
section
/-! DEFINITION. What each command does to everything but the queue: one arm per row of spec/opcode_table.json. -/
namespace Sys2Proof.Machine

/-- The effect of a command. -/
def exec (i : Instr) (s : State) : Host.Outcome State Fault Refusal :=
  match i with
  | .blRun h lane blade pd xi chx chn ch ramp acc csem => Sys2Proof.Machine.execBlRun h lane blade pd xi chx chn ch ramp acc csem s
  | .bladeCheck n => Sys2Proof.Machine.execBladeCheck n s
  | .rampGateOpen n => Sys2Proof.Machine.execRampGateOpen n s
  | .granuleWatchdog n g q drain cycles => Sys2Proof.Machine.execGranuleWatchdog n g q drain cycles s
  | .tileDecision n band group => Sys2Proof.Machine.execTileDecision n band group s
  | .tileRedo n band => Sys2Proof.Machine.execTileRedo n band s
  | .bladeComplete n x => Sys2Proof.Machine.execBladeComplete n x s
  | .receiveSlotArrival n => Sys2Proof.Machine.execReceiveSlotArrival n s
  | .receiveSlotCreditReturn n rslot => Sys2Proof.Machine.execReceiveSlotCreditReturn n rslot s
  | .chOpen h lane blade ledger xi csem rsv => Sys2Proof.Machine.execChOpen h lane blade ledger xi csem rsv s
  | .chDrop h lane blade slot rsv => Sys2Proof.Machine.execChDrop h lane blade slot rsv s
  | .chBind h lane blade rslot tag rsv => Sys2Proof.Machine.execChBind h lane blade rslot tag rsv s
  | .chUnbind h lane blade rslot rsv => Sys2Proof.Machine.execChUnbind h lane blade rslot rsv s
  | .chTopen h lane handle xi rsvHi rsvLo => Sys2Proof.Machine.execChTopen h lane handle xi rsvHi rsvLo s
  | .chTclose h lane handle xi rsvHi rsvLo => Sys2Proof.Machine.execChTclose h lane handle xi rsvHi rsvLo s
  | .scExpand h lane scull handle xi csem rsv => Sys2Proof.Machine.execScExpand h lane scull handle xi csem rsv s
  | .scQuant h lane scull handle xi csem rsv => Sys2Proof.Machine.execScQuant h lane scull handle xi csem rsv s
  | .scBias h lane scull handle xi csem rsv => Sys2Proof.Machine.execScBias h lane scull handle xi csem rsv s
  | .scAct h lane scull handle xi csem rsv => Sys2Proof.Machine.execScAct h lane scull handle xi csem rsv s
  | .scGate h lane scull handle xi csem rsv => Sys2Proof.Machine.execScGate h lane scull handle xi csem rsv s
  | .scResid h lane scull handle xi csem rsv => Sys2Proof.Machine.execScResid h lane scull handle xi csem rsv s
  | .scSmax h lane scull handle xi csem rsv => Sys2Proof.Machine.execScSmax h lane scull handle xi csem rsv s
  | .scStats h lane scull handle xi csem rsv => Sys2Proof.Machine.execScStats h lane scull handle xi csem rsv s
  | .scMark h lane scull handle xi csem rsv => Sys2Proof.Machine.execScMark h lane scull handle xi csem rsv s
  | .scLedger h lane scull handle xi csem rsv => Sys2Proof.Machine.execScLedger h lane scull handle xi csem rsv s
  | .scAdd h lane scull handle xi csem rsv => Sys2Proof.Machine.execScAdd h lane scull handle xi csem rsv s
  | .scRsum h lane scull handle xi csem rsv => Sys2Proof.Machine.execScRsum h lane scull handle xi csem rsv s
  | .scCarry h lane scull handle xi csem rsv => Sys2Proof.Machine.execScCarry h lane scull handle xi csem rsv s
  | .scCadd h lane scull handle xi csem rsv => Sys2Proof.Machine.execScCadd h lane scull handle xi csem rsv s
  | .scUncarry h lane scull handle xi csem rsv => Sys2Proof.Machine.execScUncarry h lane scull handle xi csem rsv s
  | .scOpt h lane scull handle xi csem rsv => Sys2Proof.Machine.execScOpt h lane scull handle xi csem rsv s
  | .scLoss h lane scull handle xi csem rsv => Sys2Proof.Machine.execScLoss h lane scull handle xi csem rsv s
  | .scullComplete k x => Sys2Proof.Machine.execScullComplete k x s
  | .laMove h lane e handle xi csem rsv => Sys2Proof.Machine.execLaMove h lane e handle xi csem rsv s
  | .moveComplete e x => Sys2Proof.Machine.execMoveComplete e x s
  | .laWindow h lane e handle xi csem rsv => Sys2Proof.Machine.execLaWindow h lane e handle xi csem rsv s
  | .windowLayerLanded x => Sys2Proof.Machine.execWindowLayerLanded x s
  | .windowRelease e => Sys2Proof.Machine.execWindowRelease e s
  | .laHintPrefetch h lane e handle xi csem rsv => Sys2Proof.Machine.execLaHintPrefetch h lane e handle xi csem rsv s
  | .laHintPin h lane e handle xi csem rsv => Sys2Proof.Machine.execLaHintPin h lane e handle xi csem rsv s
  | .laHintUnpin h lane e handle xi csem rsv => Sys2Proof.Machine.execLaHintUnpin h lane e handle xi csem rsv s
  | .pinResident d line => Sys2Proof.Machine.execPinResident d line s
  | .laRelay h lane engine handle xi csem rsv => Sys2Proof.Machine.execLaRelay h lane engine handle xi csem rsv s
  | .reduceScatter h => Sys2Proof.Machine.execReduceScatter h s
  | .allGather h => Sys2Proof.Machine.execAllGather h s
  | .allReduce h => Sys2Proof.Machine.execAllReduce h s
  | .permute h => Sys2Proof.Machine.execPermute h s
  | .reduceSegment o f => Sys2Proof.Machine.execReduceSegment o f s
  | .gatherSegment o f => Sys2Proof.Machine.execGatherSegment o f s
  | .permuteSegment o f => Sys2Proof.Machine.execPermuteSegment o f s
  | .consensusWord o f => Sys2Proof.Machine.execConsensusWord o f s
  | .consensusLapEnd c tag => Sys2Proof.Machine.execConsensusLapEnd c tag s
  | .collectiveComplete c tag => Sys2Proof.Machine.execCollectiveComplete c tag s
  | .syPost h lane sem n rsv => Sys2Proof.Machine.execSyPost h lane sem n rsv s
  | .syWait h lane sem n consume xwin rsv => Sys2Proof.Machine.execSyWait h lane sem n consume xwin rsv s
  | .waitSatisfied h lane => Sys2Proof.Machine.execWaitSatisfied h lane s
  | .sySet h lane sem value rsv => Sys2Proof.Machine.execSySet h lane sem value rsv s
  | .syAcq h lane sem rsv => Sys2Proof.Machine.execSyAcq h lane sem rsv s
  | .syRel h lane sem rsv => Sys2Proof.Machine.execSyRel h lane sem rsv s
  | .syFence h lane mask rsv => Sys2Proof.Machine.execSyFence h lane mask rsv s
  | .syFrame h lane join rsv => Sys2Proof.Machine.execSyFrame h lane join rsv s
  | .frameWorkEnd h lane => Sys2Proof.Machine.execFrameWorkEnd h lane s
  | .waitWatchdog h lane => Sys2Proof.Machine.execWaitWatchdog h lane s
  | .queueSpace h lane => Sys2Proof.Machine.execQueueSpace h lane s
  | .ctNop h lane rsv => Sys2Proof.Machine.execCtNop h lane rsv s
  | .ctSetc h lane reg imm rsv => Sys2Proof.Machine.execCtSetc h lane reg imm rsv s
  | .ctAddc h lane reg simm rsv => Sys2Proof.Machine.execCtAddc h lane reg simm rsv s
  | .ctBr h lane cond reg imm off sem => Sys2Proof.Machine.execCtBr h lane cond reg imm off sem s
  | .ctLoop h lane reg off rsv => Sys2Proof.Machine.execCtLoop h lane reg off rsv s
  | .ctPhase h lane phase rsv => Sys2Proof.Machine.execCtPhase h lane phase rsv s
  | .ctPmark h lane handle xi rsv => Sys2Proof.Machine.execCtPmark h lane handle xi rsv s
  | .ctStep h lane rsv => Sys2Proof.Machine.execCtStep h lane rsv s
  | .stepLoop h => Sys2Proof.Machine.execStepLoop h s
  | .ctHalt h lane rsv => Sys2Proof.Machine.execCtHalt h lane rsv s
  | .heatDone h => Sys2Proof.Machine.execHeatDone h s
  | .ingest h lane handle csem rsv => Sys2Proof.Machine.execIngest h lane handle csem rsv s
  | .ingestCopy h ring producer ok bytes => Sys2Proof.Machine.execIngestCopy h ring producer ok bytes s
  | .admitService h lane handle csem rsv => Sys2Proof.Machine.execAdmit h lane handle csem rsv s
  | .admitRequestRead h producer consumer entry => Sys2Proof.Machine.execAdmitRequestRead h producer consumer entry s
  | .checkpoint h lane handle csem rsv => Sys2Proof.Machine.execCheckpoint h lane handle csem rsv s
  | .checkpointSnapshot h => Sys2Proof.Machine.execCheckpointSnapshot h s
  | .note h lane handle csem rsv => Sys2Proof.Machine.execNote h lane handle csem rsv s
  | .strokeEdge => Sys2Proof.Machine.execStrokeEdge s
  | .maintenanceSlotOpen => Sys2Proof.Machine.execMaintenanceSlotOpen s
  | .pmarkSave h => Sys2Proof.Machine.execPmarkSave h s
  | .pmarkDeadline h => Sys2Proof.Machine.execPmarkDeadline h s
  | .collectiveWaitLimit h => Sys2Proof.Machine.execCollectiveWaitLimit h s
  | .saveComplete h => Sys2Proof.Machine.execSaveComplete h s
  | .restoreComplete h => Sys2Proof.Machine.execRestoreComplete h s
  | .start h => Sys2Proof.Machine.execStart h s
  | .stop h => Sys2Proof.Machine.execStop h s
  | .suspend h => Sys2Proof.Machine.execSuspend h s
  | .resume h => Sys2Proof.Machine.execResume h s
  | .hbmRead h lane addr launch lookup mism ecc waits lat => Sys2Proof.Machine.execHbmRead h lane addr launch lookup mism ecc waits lat s
  | .hbmWrite h lane addr bytes waits => Sys2Proof.Machine.execHbmWrite h lane addr bytes waits s
  | .partialWriteMergeTimeout ch unit x => Sys2Proof.Machine.execPartialWriteMergeTimeout ch unit x s
  | .regionFillDone r => Sys2Proof.Machine.execRegionFillDone r s
  | .retrainDone ch pass => Sys2Proof.Machine.execRetrainDone ch pass s
  | .forcedRetrain ch => Sys2Proof.Machine.execForcedRetrain ch s
  | .stackTemperature k mc => Sys2Proof.Machine.execStackTemperature k mc s
  | .oarlockDownWait o => Sys2Proof.Machine.execOarlockDownWait o s
  | .signalDetect o => Sys2Proof.Machine.execSignalDetect o s
  | .equaliseDone o => Sys2Proof.Machine.execEqualiseDone o s
  | .alignDone o polarity reversed => Sys2Proof.Machine.execAlignDone o polarity reversed s
  | .trainingLimit o => Sys2Proof.Machine.execTrainingLimit o s
  | .identityFrame o f => Sys2Proof.Machine.execIdentityFrame o f s
  | .identityFrameSend o => Sys2Proof.Machine.execIdentityFrameSend o s
  | .encaps o f => Sys2Proof.Machine.execEncaps o f s
  | .cipher o f => Sys2Proof.Machine.execCipher o f s
  | .proof o f sigOk digest => Sys2Proof.Machine.execProof o f sigOk digest s
  | .ready o w => Sys2Proof.Machine.execReady o w s
  | .readySend o => Sys2Proof.Machine.execReadySend o s
  | .rekey o f macOk => Sys2Proof.Machine.execRekey o f macOk s
  | .linkRekeyStart o => Sys2Proof.Machine.execLinkRekeyStart o s
  | .crewUpdate o f macOk => Sys2Proof.Machine.execCrewUpdate o f macOk s
  | .crewAck o f macOk => Sys2Proof.Machine.execCrewAck o f macOk s
  | .crewUpdateTimeout o c => Sys2Proof.Machine.execCrewUpdateTimeout o c s
  | .telem o f => Sys2Proof.Machine.execTelem o f s
  | .telemSend => Sys2Proof.Machine.execTelemSend s
  | .telemetryMissing w => Sys2Proof.Machine.execTelemetryMissing w s
  | .stopFrame o f => Sys2Proof.Machine.execStopFrame o f s
  | .oarlockLoss o c => Sys2Proof.Machine.execOarlockLoss o c s
  | .electricalIdleTimer o from_ => Sys2Proof.Machine.execElectricalIdleTimer o from_ s
  | .codewordLockTimer o from_ => Sys2Proof.Machine.execCodewordLockTimer o from_ s
  | .noValidWordTimer o => Sys2Proof.Machine.execNoValidWordTimer o s
  | .idle o w => Sys2Proof.Machine.execIdle o w s
  | .credit o w => Sys2Proof.Machine.execCredit o w s
  | .ack o w => Sys2Proof.Machine.execAck o w s
  | .ackSend o => Sys2Proof.Machine.execAckSend o s
  | .replayTimeout o => Sys2Proof.Machine.execReplayTimeout o s
  | .tick o w => Sys2Proof.Machine.execTick o w s
  | .notReady o w => Sys2Proof.Machine.execNotReady o w s
  | .align o w => Sys2Proof.Machine.execAlign o w s
  | .alignSend o => Sys2Proof.Machine.execAlignSend o s
  | .peerRecordIdle origin crew => Sys2Proof.Machine.execPeerRecordIdle origin crew s
  | .wardData o f => Sys2Proof.Machine.execWardData o f s
  | .sealReq o f => Sys2Proof.Machine.execSealReq o f s
  | .sealRep o f => Sys2Proof.Machine.execSealRep o f s
  | .restoreData o f => Sys2Proof.Machine.execRestoreData o f s
  | .ptpSync domain source t1 t2 t3 t4 c1 c2 => Sys2Proof.Machine.execPtpSync domain source t1 t2 t3 t4 c1 c2 s
  | .ptpAnnounce domain p1 class_ acc var p2 gm steps source => Sys2Proof.Machine.execPtpAnnounce domain p1 class_ acc var p2 gm steps source s
  | .ppsInEdge => Sys2Proof.Machine.execPpsInEdge s
  | .tickInEdge => Sys2Proof.Machine.execTickInEdge s
  | .referenceLossTimeout => Sys2Proof.Machine.execReferenceLossTimeout s
  | .eventRecord d => Sys2Proof.Machine.execEventRecord d s
  | .mirrorDatagram => Sys2Proof.Machine.execMirrorDatagram s
  | .ergWindowClose m => Sys2Proof.Machine.execErgWindowClose m s
  | .ergSnapshot => Sys2Proof.Machine.execErgSnapshot s
  | .pacerEval e0 e1 e2 e3 rest => Sys2Proof.Machine.execPacerEval e0 e1 e2 e3 rest s
  | .powerCapStep => Sys2Proof.Machine.execPowerCapStep s
  | .capFloorTimeout => Sys2Proof.Machine.execCapFloorTimeout s
  | .disagreementTimeout => Sys2Proof.Machine.execDisagreementTimeout s
  | .holdEnd => Sys2Proof.Machine.execHoldEnd s
  | .junctionTemperature d sensor mc => Sys2Proof.Machine.execJunctionTemperature d sensor mc s
  | .thermalTrip mc => Sys2Proof.Machine.execThermalTrip mc s
  | .railRead r ok mv ma mw => Sys2Proof.Machine.execRailRead r ok mv ma mw s
  | .droopTrip d rail => Sys2Proof.Machine.execDroopTrip d rail s
  | .stretchEnd d cycles => Sys2Proof.Machine.execStretchEnd d cycles s
  | .seatSliceEnd u signature => Sys2Proof.Machine.execSeatSliceEnd u signature s
  | .rotateOut n => Sys2Proof.Machine.execRotateOut n s
  | .seatReturn n => Sys2Proof.Machine.execReturn n s
  | .automaticRotation n => Sys2Proof.Machine.execAutomaticRotation n s
  | .scrub c => Sys2Proof.Machine.execScrub c s
  | .scrubEnd c => Sys2Proof.Machine.execScrubEnd c s
  | .rotate c => Sys2Proof.Machine.execRotate c s
  | .rekeyPassDone c => Sys2Proof.Machine.execRekeyPassDone c s
  | .keyDelivery q unwraps => Sys2Proof.Machine.execKeyDelivery q unwraps s
  | .unseal c req => Sys2Proof.Machine.execUnseal c req s
  | .trngHealthFailure d => Sys2Proof.Machine.execTrngHealthFailure d s
  | .getVersion via => Sys2Proof.Machine.execGetVersion via s
  | .getCapabilities via => Sys2Proof.Machine.execGetCapabilities via s
  | .negotiateAlgorithms via => Sys2Proof.Machine.execNegotiateAlgorithms via s
  | .getDigests via => Sys2Proof.Machine.execGetDigests via s
  | .getCertificate via => Sys2Proof.Machine.execGetCertificate via s
  | .challenge via => Sys2Proof.Machine.execChallenge via s
  | .getMeasurements via => Sys2Proof.Machine.execGetMeasurements via s
  | .spdmUnsupportedRequest via => Sys2Proof.Machine.execSpdmUnsupportedRequest via s
  | .read q => Sys2Proof.Machine.execRead q s
  | .readBlob q => Sys2Proof.Machine.execReadBlob q s
  | .logbookRead q => Sys2Proof.Machine.execLogbookRead q s
  | .write q => Sys2Proof.Machine.execWrite q s
  | .writeBlob q => Sys2Proof.Machine.execWriteBlob q s
  | .imageWrite q outside => Sys2Proof.Machine.execImageWrite q outside s
  | .registerWrite index sub value => Sys2Proof.Machine.execRegisterWrite index sub value s
  | .stage q => Sys2Proof.Machine.execStage q s
  | .discard q => Sys2Proof.Machine.execDiscard q s
  | .commit q => Sys2Proof.Machine.execCommit q s
  | .commitApply => Sys2Proof.Machine.execCommitApply s
  | .cancel q => Sys2Proof.Machine.execCancel q s
  | .sessOpen q sigOk => Sys2Proof.Machine.execSessOpen q sigOk s
  | .sessClose q => Sys2Proof.Machine.execSessClose q s
  | .sessionIdleTimeout id => Sys2Proof.Machine.execSessionIdleTimeout id s
  | .fragmentTimeout => Sys2Proof.Machine.execFragmentTimeout s
  | .activate part => Sys2Proof.Machine.execActivate part s
  | .abandon part => Sys2Proof.Machine.execAbandon part s
  | .partActiveEnd part => Sys2Proof.Machine.execPartActiveEnd part s
  | .arpRequest target senderIp senderMac => Sys2Proof.Machine.execArpRequest target senderIp senderMac s
  | .icmpEcho target source data => Sys2Proof.Machine.execIcmpEcho target source data s
  | .dhcpClient e => Sys2Proof.Machine.execDhcpClient e s
  | .recover c => Sys2Proof.Machine.execRecover c s
  | .restore c => Sys2Proof.Machine.execRestore c s
  | .sendWard c => Sys2Proof.Machine.execSendWard c s
  | .receive c => Sys2Proof.Machine.execReceive c s
  | .clear c => Sys2Proof.Machine.execClear c s
  | .restoreDone c => Sys2Proof.Machine.execRestoreDone c s
  | .pwrOk low ns => Sys2Proof.Machine.execPwrOk low ns s
  | .sysRstN low ns => Sys2Proof.Machine.execSysRstN low ns s
  | .perstN low => Sys2Proof.Machine.execPerstN low s
  | .reset => Sys2Proof.Machine.execReset s
  | .stage1Start puf stage1 cal => Sys2Proof.Machine.execStage1Start puf stage1 cal s
  | .bootRunning codes => Sys2Proof.Machine.execBootRunning codes s
  | .backgroundVerifyDone codes => Sys2Proof.Machine.execBackgroundVerifyDone codes s
  | .xefinPhase1 => Sys2Proof.Machine.execXefinPhase1 s
  | .xefinPhase2 failed => Sys2Proof.Machine.execXefinPhase2 failed s
  | .hbmTrainingEnd passed => Sys2Proof.Machine.execHbmTrainingEnd passed s
  | .linkTrainingBegin => Sys2Proof.Machine.execLinkTrainingBegin s
  | .moduleReady => Sys2Proof.Machine.execModuleReady s
  | .illegal h lane word => Sys2Proof.Machine.execIllegal h lane word s
  | .lossOfSignal o => Sys2Proof.Machine.execLossOfSignal o s
  | .railSettled n => Sys2Proof.Machine.execRailSettled n s
  | .thermalStepDown n => Sys2Proof.Machine.execThermalStepDown n s
  | .trngHealthRecovery d => Sys2Proof.Machine.execTrngHealthRecovery d s
  | .signingTreeBuilt => Sys2Proof.Machine.execSigningTreeBuilt s
  | .unsealSegmentDone c header plain tagOk => Sys2Proof.Machine.execUnsealSegmentDone c header plain tagOk s
  | .ppsOutSecond => Sys2Proof.Machine.execPpsOutSecond s
  | .mailboxOpen => Sys2Proof.Machine.execMailboxOpen s
  | .wardTransferEnd c => Sys2Proof.Machine.execWardTransferEnd c s
  | .bankRefresh ch pc bank asked => Sys2Proof.Machine.execBankRefresh ch pc bank asked s
  | .boundaryScan code cells => Sys2Proof.Machine.execBoundaryScan code cells s

end Sys2Proof.Machine
end

