-- ==== Sys2Proof/Safety.lean ====
section
/-! DEFINITION. What the statements call safe: a step that goes on, and the canonical forms that the state keeps. -/
namespace Sys2Proof.Machine

/-- A command ends in a next state, not in a fault or a refusal. -/
def Completes (c : Instr) (s : State) : Prop := ∃ t, exec c s = .next t

/-- The memory is in its canonical form: keys strictly rising, no entry 0. -/
def State.memCanonical (s : State) : Prop := sparseWf (fun _ => (0 : Byte)) s.mem = true

/-- What every step keeps: the memory in its canonical form, so that equal contents are equal data. -/
def State.Inv (s : State) : Prop := s.memCanonical

/-- Entries outside a list keep their values. -/
def EntriesKept (but : List (Nat × Nat)) (s t : State) : Prop :=
  ∀ i j, (∀ p ∈ but, entryKey i j ≠ entryKey p.1 p.2) → t.entry i j = s.entry i j

/-- Every byte of every memory is as it was. -/
def SameMemory (s t : State) : Prop := ∀ k, t.cell k = s.cell k

/-- Every lane but lane `l` of Heat `h` is as it was. -/
def LanesKept (h : Fin 64) (l : Fin 4) (s t : State) : Prop := ∀ g m, (g ≠ h ∨ m ≠ l) → t.lane g m = s.lane g m

/-- The issue counter of a Heat (0x72hh.06) counts one instruction. -/
def CountsIssue (h : Fin 64) (s t : State) : Prop :=
  t.entry (0x7200 + h.val) 6 = wrap64 (s.entry (0x7200 + h.val) 6 + 1)

/-- The Heat is FAULTED with a code, by a lane, at an address (R251). -/
def FaultedBy (h : Fin 64) (l : Fin 4) (pc : Nat) (p : Plan) (t : State) : Prop :=
  t.heats[h].status = .faulted ∧ t.heats[h].faultCode = p.code ∧ t.heats[h].faultLane = l.val ∧ t.heats[h].faultPc = pc
    ∧ ∀ m, (t.lane h m).stop = .halted

/-- The job of a Crew has stopped (R436, R628): the Crew is STOPPED, none of its Heats is RUNNING or PREEMPTED, and nothing of its
collectives is left. -/
def JobStopped (c : Fin 4) (t : State) : Prop :=
  t.crews[c].state = .stopped
    ∧ (∀ h, crewOf h = c → t.heats[h].status ≠ .running ∧ t.heats[h].status ≠ .preempted ∧ t.relayQueues[h] = {})
    ∧ ∀ k ∈ t.collectives, crewOf k.item.heat ≠ c

/-- An event of die `d` joined the die's queue, as its last. -/
def RaisedLast (d : Fin 2) (code : Nat) (payload : List Int) (s t : State) : Prop :=
  ∃ e, t.log.queues[d].waiting = s.log.queues[d].waiting ++ [e] ∧ e.code = code ∧ e.payload = payload

/-- A frame of the replay buffer that an acknowledgement of `ack` frees (R404): its seq is not later than it. -/
def ackFrees (ack : Nat) (f : SentFrame) : Bool := decide ((ack + 2 ^ 32 - f.seq % 2 ^ 32) % 2 ^ 32 < 2 ^ 31)

/-- A frame of the replay buffer as it is resent, byte for byte (R406). -/
def resentOn (o : Fin 24) (f : SentFrame) : Output :=
  { kind := .frame, unit := o.val, fields := [f.hdr, f.ext], bytes := f.wire }

/-- A TRAIN frame as Oarlock `o` sends it: its header and its payload in whole words (R394 to R396). -/
def trainOn (s : State) (o : Fin 24) (payload : List Byte) : Output :=
  { kind := .frame, unit := o.val, fields := [(s.trainHeader o payload.length : Int)]
    bytes := beBytes 32 (s.trainHeader o payload.length) ++ padWords payload }

/-- A control word as Oarlock `o` sends it: its type and its 32 bytes (R399). -/
def wordOn (o : Fin 24) (w : CtlWord) : Output :=
  { kind := .word, unit := o.val, fields := [(w.ctype : Int)], bytes := beBytes 32 w.bits }

/-- A Xefin request that every check lets through (R587 to R593, R606): the frame `q` completes the message `m` with opcode `op`, no gate
and no limit of the mailbox holds it back, and its seq is new. `u` is the state in which it acts: the session has taken note of it. -/
def Served (s u : State) (q : XefinFrame) (m : Message) (op : Nat) : Prop :=
  s.portClosed q.port = false ∧ hdrField q 240 16 = 0x5846 ∧ frameStatus q = 0 ∧ hdrField q 216 8 = op ∧ s.sessionStatus q = 0
    ∧ ∃ v, (s.onSession q.port (hdrField q 160 32) fun x => { x with lastAt := s.clock.now, port := q.port }).assemble q = (v, some m)
      ∧ v.gate op m.payload = 0 ∧ (∀ x, v.session m.port m.session = some x → x.high < m.seq)
      ∧ (m.port = .mailbox → v.mailboxDenies op m.payload = false)
      ∧ u = v.onSession m.port m.session fun x => { x with high := m.seq }

/-- The response to a request (R587, R593): `u` is the state after the request's own effect; the answer is sent, with opcode, status, seq
and payload in its frames, counted in 0xC010.08 and kept; nothing else changes. A payload of one frame stands in it whole. -/
def AnsweredFrom (m : Message) (status : Nat) (payload : List Byte) (u t : State) : Prop :=
  t.xefin = { u.xefin with sessions := t.xefin.sessions, mailbox := t.xefin.mailbox }
    ∧ t = { u with out := t.out, dict := t.dict, xefin := t.xefin }
    ∧ EntriesKept [(0xC010, 8)] u t ∧ t.entry 0xC010 8 = wrap64 (u.entry 0xC010 8 + 1)
    ∧ t.xefin.sessions.map (·.id) = u.xefin.sessions.map (·.id)
    ∧ (payload.length ≤ 1424 → ∃ y, t.out = u.out ++ [y] ∧ y.kind = .response ∧ y.unit = portUnit m.port ∧ y.fields = portFields m.port
      ∧ (y.bytes.drop 4).take 2 = beBytes 1 m.opcode ++ beBytes 1 status ∧ (y.bytes.drop 12).take 8 = beBytes 8 m.seq
      ∧ (y.bytes.drop 32).take payload.length = payload)

/-- An SPDM request reaches the responder (R523): over DOE on the open CXL port, or inside a served Xefin request. `u` is the state in which
it acts, `c` the connection of its transport, `b` its bytes. -/
def Asked (s u : State) (via : SpdmVia) (c : SpdmState) (b : List Byte) : Prop :=
  match via with
  | .doe bytes => s.portClosed .mailbox = false ∧ u = s ∧ c = s.xefin.spdmDoe ∧ b = bytes
  | .xefin q => ∃ m, Served s u q m 0x0B ∧ c = u.xefin.spdmMgmt ∧ b = m.payload

/-- The responder's answer leaves by the transport of the request, whose connection is then `c`; 0x8100.02 counts the request. -/
def Replied (u : State) (via : SpdmVia) (c : SpdmState) (reply : List Byte) (t : State) : Prop :=
  t.entry 0x8100 2 = wrap64 (u.entry 0x8100 2 + 1) ∧ SameMemory u t
    ∧ match via with
      | .doe _ => t.out = u.out ++ [{ kind := .response, unit := 2, fields := [], bytes := reply }] ∧ t.xefin.spdmDoe = c
      | .xefin _ => t.xefin.spdmMgmt = c ∧ (reply.length ≤ 1424 → ∃ y, t.out = u.out ++ [y] ∧ y.kind = .response
        ∧ (y.bytes.drop 32).take reply.length = reply)

/-- Commands whose effect the spec gives no part in any memory: time, Erg, Pacer, power-up, boot, keys, SPDM, Xefin's reads and
staging, sessions, parts, the management port, control words, training and key frames of a link, Heat commands, waits and frames. -/
def storesNothing : Instr → Bool
  | .ptpSync .. | .ptpAnnounce .. | .ppsInEdge | .tickInEdge | .referenceLossTimeout | .ppsOutSecond | .mirrorDatagram => true
  | .ergWindowClose _ | .ergSnapshot => true
  | .pacerEval .. | .powerCapStep | .disagreementTimeout | .holdEnd | .railSettled _ | .thermalStepDown _ => true
  | .junctionTemperature .. | .railRead .. | .droopTrip .. | .stretchEnd .. => true
  | .xefinPhase1 | .xefinPhase2 _ | .hbmTrainingEnd _ | .linkTrainingBegin | .moduleReady | .mailboxOpen | .boundaryScan .. => true
  | .stage1Start .. | .bootRunning _ | .backgroundVerifyDone _ => true
  | .trngHealthFailure _ | .trngHealthRecovery _ | .signingTreeBuilt | .rotate _ | .rekeyPassDone _ | .unseal .. => true
  | .getVersion _ | .getCapabilities _ | .negotiateAlgorithms _ | .getDigests _ | .getCertificate _ | .challenge _ => true
  | .getMeasurements _ | .spdmUnsupportedRequest _ => true
  | .read _ | .readBlob _ | .logbookRead _ | .write _ | .writeBlob _ | .imageWrite .. | .keyDelivery .. | .registerWrite .. => true
  | .stage _ | .discard _ | .cancel _ | .sessOpen .. | .sessClose _ | .sessionIdleTimeout _ | .fragmentTimeout => true
  | .activate _ | .abandon _ | .partActiveEnd _ | .arpRequest .. | .icmpEcho .. | .dhcpClient _ => true
  | .idle .. | .align .. | .alignSend _ | .ackSend _ | .identityFrameSend _ | .readySend _ => true
  | .encaps .. | .cipher .. | .rekey .. | .crewUpdate .. | .crewAck .. => true
  | .oarlockDownWait _ | .signalDetect _ | .lossOfSignal _ | .equaliseDone _ | .alignDone .. => true
  | .start _ | .suspend _ | .resume _ | .pinResident .. | .regionFillDone _ | .forcedRetrain _ | .bankRefresh .. | .seatReturn _ => true
  | .waitSatisfied .. | .waitWatchdog .. | .frameWorkEnd .. | .granuleWatchdog .. | .tileRedo .. | .pmarkDeadline _ | .admitRequestRead .. => true
  | .identityFrame .. | .trainingLimit .. | .ready .. | .crewUpdateTimeout .. | .credit .. | .telemSend | .telemetryMissing _ | .tick .. => true
  | _ => false

end Sys2Proof.Machine
end

