-- ==== Sys2Proof/Certificates/Slice0/Obligations.lean ====
section
/-! DEFINITION. The statements for the provers. -/
open Sys2Proof Sys2Proof.Machine

/-- A step takes the command at the front of the queue: it is exec of that command on the state with the rest of the queue. -/
def Obligations.StepTakesTheFrontCommand : Prop :=
  ∀ (c : Instr) (rest : List Instr) (s : State), step { s with pending := c :: rest } = exec c { s with pending := rest }

/-- With no command waiting a step is one nanosecond of the local oscillator, and a module held in reset stands still. The step's length
is the model's own choice (log entry 1). -/
def Obligations.AnEmptyQueueTicks : Prop :=
∀ s : State, s.pending = [] →
    (s.inReset = true → step s = .next s)
    ∧ (s.inReset = false → s.clock.adjust = 0 → s.clock.frac < 2 ^ 32 →
      ∃ t, step s = .next t ∧ t.clock.now = (s.clock.now + 1) % 2 ^ 64 ∧ t.clock.frac = s.clock.frac ∧ t = { s with clock := t.clock })

/-- The machine right after reset (R292, R417, R448, R458, R480, R594, R606, R617, R618): every dictionary entry at the reset value of
its table, no memory listed, no command waiting, every Oarlock DOWN, every region OFF, every Heat IDLE, no session, no commit, boot in
ROM, module time FREE. -/
def Obligations.ResetStandsAsTabled : Prop :=
State.reset.pending = [] ∧ State.reset.mem = [] ∧ State.reset.boot = .rom ∧ State.reset.xefin.phase = 0
    ∧ State.reset.xefin.sessions = [] ∧ State.reset.xefin.commits = [] ∧ State.reset.xefin.staged = []
    ∧ State.reset.clock.state = .free ∧ State.reset.linkTraining = false ∧ State.reset.inReset = false
    ∧ (∀ i j, State.reset.entry i j = resetOf i j) ∧ (∀ k, State.reset.cell k = 0)
    ∧ (∀ o : Fin 24, State.reset.oarlocks[o].state = .down) ∧ (∀ r : Fin 64, State.reset.regions[r].state = .off)
    ∧ (∀ h : Fin 64, State.reset.heats[h].status = .idle) ∧ (∀ (h : Fin 64) (k : Nat), State.reset.sem h k = 0)
    ∧ State.reset.entry 0x2000 2 = 2 ∧ State.reset.entry 0x2010 0xA = 0 ∧ State.reset.entry 0x2010 0xB = 0
    ∧ State.reset.entry 0xD000 1 = 0

/-- The state after reset meets the invariant. -/
def Obligations.ResetMeetsTheInvariant : Prop :=
  State.reset.Inv

/-- Every step keeps the memory in its canonical form: keys strictly rising, no entry equal to what an unlisted byte reads as. -/
def Obligations.EveryStepKeepsTheInvariant : Prop :=
  ∀ s t : State, s.Inv → step s = .next t → t.Inv

/-- No command stops, and none reaches into the queue of waiting commands: exec answers a next state with the same queue. -/
def Obligations.CommandsGoOnAndLeaveTheQueue : Prop :=
  ∀ (c : Instr) (s : State), ∃ t, exec c s = .next t ∧ t.pending = s.pending

/-- The words of the Race Plan instructions (Tables 05-7 to 05-16): decoding the word of an instruction gives it back, with every field
at every value. Whether a hint prefetches, pins or unpins is a field of its descriptor, not of its word. -/
def Obligations.PlanWordsDecodeBack : Prop :=
  ∀ (i : Instr) (h : Fin 64) (l : Fin 4) (w : BitVec 64), encodePlan i = some (h, l, w) → decodePlan h l (hintOf i) w = i

/-- Words of Table 05-19 and words written out from the encoding tables read as the instructions that they stand for. -/
def Obligations.PlanWordsReadAsTabled : Prop :=
decodePlan 0 0 .prefetch 0x1010100090900414#64 = .blRun 0 0 0 0x0400 2 false true 0x0900 false 2 20
    ∧ decodePlan 0 0 .prefetch 0x6051FFFFE0000000#64 = .ctLoop 0 0 1 0xFFFFE 0
    ∧ decodePlan 5 1 .prefetch 0x5010280018000000#64 = .syPost 5 1 5 3 0
    ∧ decodePlan 5 1 .prefetch 0x6080000000000000#64 = .ctStep 5 1 0

/-- Memory: bytes written at consecutive keys read back, and every other byte keeps its value; a byte stored through an address that
leads to a cell reads back through it. -/
def Obligations.MemoryReadsBack : Prop :=
∀ s : State,
    (∀ (k : Nat) (bs : List Byte), (∀ i, i < bs.length → (s.setCells k bs).cell (k + i) = bs.getD i 0)
      ∧ (∀ a, (a < k ∨ k + bs.length ≤ a) → (s.setCells k bs).cell a = s.cell a) ∧ s.setCells k bs = { s with mem := (s.setCells k bs).mem })
    ∧ ∀ (a : Acc) (addr k : Nat) (b : Byte), s.locate a addr = some (.cell k) →
      (s.store1 a addr b).load1 a addr = b ∧ ∀ j, j ≠ k → (s.store1 a addr b).cell j = s.cell j

/-- A command in which no memory has a part leaves every byte of every memory as it was. -/
def Obligations.CommandsWithoutStoresKeepMemory : Prop :=
  ∀ (c : Instr) (s t : State), storesNothing c = true → exec c s = .next t → t.mem = s.mem

/-- SY_POST adds n to a semaphore of its Heat or Crew; SY_SET gives a Heat semaphore a value (R236). Both then go on to the next
instruction, and touch nothing else but the issue counter (R201). A wait whose semaphore does not reach its count stops the lane at the
instruction. A wait that is satisfied, and for which no other lane waits, is granted: SY_WAIT subtracts the count where `consume` is
set, SY_ACQ subtracts 1 and records its Heat as holder, and the lane goes on (R236, R237). WAIT_SATISFIED grants a lane that waits;
SY_REL gives the semaphore back. -/
def Obligations.SemaphoresCount : Prop :=
  (∀ (s : State) (h : Fin 64) (l : Fin 4), s.canIssue h l = true →
    (∀ (sem : BitVec 9) (n : BitVec 16), sem.toNat < 320 → n ≠ 0 → s.sem h sem.toNat + n.toNat < 2 ^ 32 →
      ∃ t, exec (.syPost h l sem n 0) s = .next t ∧ t.sem h sem.toNat = s.sem h sem.toNat + n.toNat
        ∧ (∀ k, k ≠ sem.toNat → t.sem h k = s.sem h k)
        ∧ t.lane h l = { s.lane h l with pc := (s.lane h l).pc + 8 } ∧ LanesKept h l s t
        ∧ CountsIssue h s t ∧ EntriesKept [(0x7200 + h.val, 6)] s t
        ∧ t = { s with heats := t.heats, crews := t.crews, dict := t.dict })
    ∧ ∀ (sem : BitVec 9) (v : BitVec 32), sem.toNat < 256 →
      ∃ t, exec (.sySet h l sem v 0) s = .next t ∧ t.sem h sem.toNat = v.toNat
        ∧ (∀ k, k ≠ sem.toNat → t.sem h k = s.sem h k)
        ∧ t.lane h l = { s.lane h l with pc := (s.lane h l).pc + 8 } ∧ LanesKept h l s t
        ∧ CountsIssue h s t ∧ EntriesKept [(0x7200 + h.val, 6)] s t
        ∧ t = { s with heats := t.heats, dict := t.dict })
  ∧ (∀ (s : State) (h : Fin 64) (l : Fin 4),
    (∀ (sem : BitVec 9) (n : BitVec 16) (consume xwin : Bool), s.canIssue h l = true → sem.toNat < 320 →
      s.parkedForOther h sem.toNat = false → s.sem h sem.toNat < n.toNat →
      ∃ t, exec (.syWait h l sem n consume xwin 0) s = .next t ∧ t.sem h sem.toNat = s.sem h sem.toNat
        ∧ t.lane h l = { s.lane h l with stop := .waiting sem.toNat n.toNat consume xwin false s.clock.now false }
        ∧ LanesKept h l s t ∧ CountsIssue h s t ∧ t = { s with heats := t.heats, dict := t.dict })
    ∧ (∀ (sem : BitVec 9) (n : BitVec 16) (consume xwin : Bool), s.canIssue h l = true → sem.toNat < 320 →
      s.parkedForOther h sem.toNat = false → n.toNat ≤ s.sem h sem.toNat →
      (∀ g m, (g ≠ h ∨ m ≠ l) → s.satisfiable g m (semKey h sem.toNat) = false) →
      ∃ t, exec (.syWait h l sem n consume xwin 0) s = .next t
        ∧ t.sem h sem.toNat = s.sem h sem.toNat - (if consume then n.toNat else 0)
        ∧ t.lane h l = { s.lane h l with pc := (s.lane h l).pc + 8, stop := .running, waited := 0, leftAt := s.clock.now }
        ∧ LanesKept h l s t ∧ CountsIssue h s t)
    ∧ (∀ (sem : BitVec 9), s.canIssue h l = true → 256 ≤ sem.toNat → sem.toNat < 320 →
      s.parkedForOther h sem.toNat = false → 1 ≤ s.sem h sem.toNat →
      (∀ g m, (g ≠ h ∨ m ≠ l) → s.satisfiable g m (semKey h sem.toNat) = false) →
      ∃ t, exec (.syAcq h l sem 0) s = .next t
        ∧ t.sem h sem.toNat = s.sem h sem.toNat - 1
        ∧ sparseGet 0 t.crews[crewOf h].holders (sem.toNat - 256) = h.val + 1
        ∧ t.lane h l = { s.lane h l with pc := (s.lane h l).pc + 8, stop := .running, waited := 0 } ∧ CountsIssue h s t)
    ∧ (∀ (sem : BitVec 9), s.canIssue h l = true → 256 ≤ sem.toNat → sem.toNat < 320 →
      sparseGet 0 s.crews[crewOf h].holders (sem.toNat - 256) = h.val + 1 → s.sem h sem.toNat + 1 < 2 ^ 32 →
      ∃ t, exec (.syRel h l sem 0) s = .next t
        ∧ t.sem h sem.toNat = s.sem h sem.toNat + 1
        ∧ sparseGet 0 t.crews[crewOf h].holders (sem.toNat - 256) = 0
        ∧ t.lane h l = { s.lane h l with pc := (s.lane h l).pc + 8 } ∧ CountsIssue h s t)
    ∧ ∀ (sem n since : Nat) (consume warned : Bool),
      (s.lane h l).stop = .waiting sem n consume false false since warned → s.heats[h].acting = true → n ≤ s.sem h sem →
      (∀ g m, (g ≠ h ∨ m ≠ l) → s.satisfiable g m (semKey h sem) = false) →
      ∃ t, exec (.waitSatisfied h l) s = .next t
        ∧ t.sem h sem = s.sem h sem - (if consume then n else 0)
        ∧ t.lane h l = { s.lane h l with pc := (s.lane h l).pc + 8, stop := .running, waited := 0, leftAt := s.clock.now }
        ∧ LanesKept h l s t)

/-- SY_FENCE lets the lane go on at once where every instruction that it issued to the masked units has completed, and stops it
otherwise; SY_FRAME stops it until its frame closes (R236, R240). A frame closes when its work and its join are done: the next one opens
at the next stroke edge, or at once when the due edge has passed; lane 0 measures its slack (R240, R455). -/
def Obligations.FencesAndFramesStopTheLane : Prop :=
  (∀ (s : State) (h : Fin 64) (l : Fin 4), s.canIssue h l = true →
    (∀ mask : BitVec 4, ∃ t, exec (.syFence h l mask 0) s = .next t
      ∧ t.lane h l = (if s.fenceClear h l mask.toNat then { s.lane h l with pc := (s.lane h l).pc + 8, waited := 0 }
          else { s.lane h l with stop := .fenced mask.toNat s.clock.now })
      ∧ CountsIssue h s t ∧ SameMemory s t)
    ∧ ∀ join : Bool, (∀ m, (s.lane h m).stop ≠ .closing true true) →
      ∃ t, exec (.syFrame h l join 0) s = .next t ∧ t.lane h l = { s.lane h l with stop := .closing join false }
        ∧ LanesKept h l s t ∧ CountsIssue h s t ∧ EntriesKept [(0x7200 + h.val, 6)] s t
        ∧ t = { s with heats := t.heats, dict := t.dict })
  ∧ (∀ (s : State) (h : Fin 64) (l : Fin 4) (join : Bool), (s.lane h l).stop = .closing join false →
    s.heats[h].status = .running → s.heats[h].request = none → s.frameWorkDone h l = true →
    (join = true → s.joined h (s.lane h l).frame = true) →
    ∃ t, exec (.frameWorkEnd h l) s = .next t
      ∧ t.lane h l = (if s.edgeAfter (s.lane h l).openedAt < s.clock.now then
          { s.lane h l with
            pc := (s.lane h l).pc + 8, frame := (s.lane h l).frame + 1, openedAt := s.clock.now, stop := .running }
        else { s.lane h l with pc := (s.lane h l).pc + 8, stop := .unopened ((s.lane h l).frame + 1) })
      ∧ (l = 0 → t.entry (0x2100 + h.val) 6 =
          ofSigned 32 ((s.edgeAfter (s.lane h l).openedAt : Int) - s.slotLength - s.clock.now))
      ∧ LanesKept h l s t ∧ SameMemory s t)

/-- A wait that has lasted longer than 0x7100.01 µs, what it waited before a save counted, raises EV-7030 once, and goes on waiting
(R239). -/
def Obligations.WatchdogReportsOnce : Prop :=
∀ (s : State) (h : Fin 64) (l : Fin 4) (sem n since : Nat) (c x a : Bool),
    (s.lane h l).stop = .waiting sem n c x a since false → s.heats[h].acting = true → s.log.queues[0].waiting.length < 256 →
    ∃ t e, exec (.waitWatchdog h l) s = .next t
      ∧ t.lane h l = { s.lane h l with stop := .waiting sem n c x a since true } ∧ LanesKept h l s t
      ∧ t.clock = (s.advanceTo (since + s.entry 0x7100 1 * 1000 + 1 - (s.lane h l).waited)).clock
      ∧ t.log.queues[0].waiting = s.log.queues[0].waiting ++ [e] ∧ e.code = 0x7030 ∧ e.payload = [(h.val : Int), l.val, sem]
      ∧ e.heat = h.val ∧ e.ts = t.stamp
      ∧ SameMemory s t ∧ exec (.waitWatchdog h l) t = .next t

/-- A lane stopped by a full queue enters its instruction when there is space, and goes on; an idle Scull or engine takes the
instruction up (R202). -/
def Obligations.QueueSpaceEnters : Prop :=
∀ (s : State) (h : Fin 64) (l : Fin 4) (u : UnitId) (q : QItem) (since : Nat),
    (s.lane h l).stop = .stalled u q since → (s.queue u).waiting.length < u.depth → s.heats[h].acting = true →
    (∀ m, m < l → ∀ q' t, (s.lane h m).stop ≠ .stalled u q' t) →
    ∃ e : State, e.queue u = { s.queue u with waiting := (s.queue u).waiting ++ [q] }
      ∧ e.lane h l = { s.lane h l with pc := (s.lane h l).pc + 8, stop := .running, waited := 0 } ∧ LanesKept h l s e
      ∧ exec (.queueSpace h l) s = .next (match u with
        | .scull k => State.scullHead k 8 e
        | .engine k => State.launchHead k 9 e
        | _ => e)

/-- Lane counters (R242): LC1 to LC15 are u32 and read 0 when the Heat starts; LC0 always reads 0, and writes to it are discarded;
arithmetic is modulo 2³². CT_SETC writes a counter, CT_ADDC adds to one, CT_NOP goes on. -/
def Obligations.CountersAreWritten : Prop :=
(∀ (s t : State) (h : Fin 64) (l : Fin 4) (k : Nat), s.startStatus h = 0 → exec (.start h) s = .next t → (t.lane h l).counter k = 0)
  ∧ (∀ (s : State) (h : Fin 64) (l : Fin 4), (s.lane h l).counter 0 = 0)
  ∧ ∀ (s : State) (h : Fin 64) (l : Fin 4), s.canIssue h l = true →
    (∃ t, exec (.ctNop h l 0) s = .next t ∧ t.lane h l = { s.lane h l with pc := (s.lane h l).pc + 8 } ∧ LanesKept h l s t
      ∧ CountsIssue h s t ∧ EntriesKept [(0x7200 + h.val, 6)] s t ∧ t = { s with heats := t.heats, dict := t.dict })
    ∧ (∀ (i : Fin 16) (imm : BitVec 32), ∃ t, exec (.ctSetc h l i imm 0) s = .next t
      ∧ (t.lane h l).counter i.val = (if i = 0 then 0 else imm.toNat)
      ∧ (∀ k, k ≠ i.val → (t.lane h l).counter k = (s.lane h l).counter k)
      ∧ t.lane h l = { s.lane h l with pc := (s.lane h l).pc + 8, lc := (t.lane h l).lc } ∧ LanesKept h l s t
      ∧ CountsIssue h s t ∧ EntriesKept [(0x7200 + h.val, 6)] s t ∧ t = { s with heats := t.heats, dict := t.dict })
    ∧ ∀ (i : Fin 16) (simm : BitVec 32), ∃ t, exec (.ctAddc h l i simm 0) s = .next t
      ∧ (t.lane h l).counter i.val = (if i = 0 then 0 else ((s.lane h l).counter i.val + simm.toNat) % 2 ^ 32)
      ∧ (∀ k, k ≠ i.val → (t.lane h l).counter k = (s.lane h l).counter k)
      ∧ t.lane h l = { s.lane h l with pc := (s.lane h l).pc + 8, lc := (t.lane h l).lc } ∧ LanesKept h l s t
      ∧ CountsIssue h s t ∧ EntriesKept [(0x7200 + h.val, 6)] s t ∧ t = { s with heats := t.heats, dict := t.dict }

/-- CT_LOOP counts down and branches until its counter is 0; CT_BR branches on its condition (R243, R244). A taken branch is counted in
0x72hh.09, and one on `skip` in 0x3208.05 (R278). -/
def Obligations.BranchesGoWhereTheySay : Prop :=
∀ (s : State) (h : Fin 64) (l : Fin 4) (i : Fin 16) (off : BitVec 20), s.canIssue h l = true →
    ((s.lane h l).start : Int) ≤ (s.lane h l).pc + 8 * off.toInt →
    ((s.lane h l).pc : Int) + 8 * off.toInt < (s.lane h l).start + 8 * (s.lane h l).length →
    (∃ t, exec (.ctLoop h l i off 0) s = .next t
      ∧ (if (s.lane h l).counter i.val = 0 then t.lane h l = { s.lane h l with pc := (s.lane h l).pc + 8 }
        else (t.lane h l).counter i.val = ((s.lane h l).counter i.val - 1) % 2 ^ 32
          ∧ t.lane h l = { s.lane h l with
              pc := ((s.lane h l).pc + 8 * off.toInt : Int).toNat, lc := (t.lane h l).lc }
          ∧ t.entry (0x7200 + h.val) 9 = wrap64 (s.entry (0x7200 + h.val) 9 + 1))
      ∧ LanesKept h l s t ∧ CountsIssue h s t ∧ EntriesKept [(0x7200 + h.val, 6), (0x7200 + h.val, 9)] s t
      ∧ t = { s with heats := t.heats, dict := t.dict })
    ∧ ∀ (cond : BitVec 3) (imm : BitVec 16) (sem : BitVec 9), cond ≠ 7 → (cond ≠ 4 → sem = 0) → sem.toNat < 320 →
      ∃ t, exec (.ctBr h l cond i imm off sem) s = .next t
        ∧ (if cond = 0 ∨ (cond = 1 ∧ (s.lane h l).counter i.val = imm.toNat)
            ∨ (cond = 2 ∧ (s.lane h l).counter i.val ≠ imm.toNat) ∨ (cond = 3 ∧ (s.lane h l).counter i.val < imm.toNat)
            ∨ (cond = 4 ∧ imm.toNat ≤ s.sem h sem.toNat) ∨ (cond = 5 ∧ s.heats[h].skip = true)
            ∨ (cond = 6 ∧ s.heats[h].skip = false) then
            t.lane h l = { s.lane h l with pc := ((s.lane h l).pc + 8 * off.toInt : Int).toNat }
            ∧ t.entry (0x7200 + h.val) 9 = wrap64 (s.entry (0x7200 + h.val) 9 + 1)
            ∧ (cond = 5 → t.entry 0x3208 5 = wrap64 (s.entry 0x3208 5 + 1))
          else t.lane h l = { s.lane h l with pc := (s.lane h l).pc + 8 })
        ∧ LanesKept h l s t ∧ CountsIssue h s t
        ∧ EntriesKept [(0x7200 + h.val, 6), (0x7200 + h.val, 9), (0x3208, 5)] s t
        ∧ t = { s with heats := t.heats, dict := t.dict }

/-- CT_PHASE names the phase that the lane's Blades take at the next edge; CT_PMARK keeps its handle, and stops the lane where a
pre-emption waits; CT_STEP closes frame and step (R245 to R247). STEP_LOOP: with every lane at CT_STEP and its frame's work done, the
step number advances and each lane's next frame opens at the next stroke edge (R247). -/
def Obligations.ControlStopsAndSteps : Prop :=
  (∀ (s : State) (h : Fin 64) (l : Fin 4), s.canIssue h l = true →
    (∀ phase : BitVec 3, phase.toNat < 5 → ∃ t, exec (.ctPhase h l phase 0) s = .next t
      ∧ (∀ n : Fin 4, t.blades[n] =
          if bitOf (s.lane h l).blades n.val then { s.blades[n] with phaseNext := some phase.toNat } else s.blades[n])
      ∧ t.lane h l = { s.lane h l with pc := (s.lane h l).pc + 8 } ∧ LanesKept h l s t ∧ CountsIssue h s t
      ∧ EntriesKept [(0x7200 + h.val, 6)] s t ∧ t = { s with heats := t.heats, blades := t.blades, dict := t.dict })
    ∧ (∀ (handle : BitVec 16) (xi : BitVec 4) (d : Nat), d = (s.lane h l).handle handle.toNat xi.toNat →
      d < s.heats[h].header.dcount → s.kindOf h d = 9 → ∀ r, (s.heats[h].request = none ∨ s.liveRanges h d = .inr r) →
      ∃ t, exec (.ctPmark h l handle xi 0) s = .next t
        ∧ t.lane h l = (if s.heats[h].request = none then { s.lane h l with pc := (s.lane h l).pc + 8, pmark := some d, live := none }
          else { s.lane h l with pmark := some d, live := some r, stop := .atPmark })
        ∧ LanesKept h l s t ∧ CountsIssue h s t ∧ EntriesKept [(0x7200 + h.val, 6)] s t
        ∧ t = { s with heats := t.heats, dict := t.dict })
    ∧ ∃ t, exec (.ctStep h l 0) s = .next t ∧ t.lane h l = { s.lane h l with stop := .closing true true }
      ∧ LanesKept h l s t ∧ CountsIssue h s t ∧ t = { s with heats := t.heats, dict := t.dict })
  ∧ (∀ (s : State) (h : Fin 64),
    ∀ (lanes : List (Fin 4)) (s' : State), lanes = ((List.finRange 4).filter fun l => decide (l.val < s.heats[h].header.lanes.length)) →
      lanes ≠ [] → s.heats[h].acting = true → s.heats[h].request = none →
      (∀ l ∈ lanes, (s.lane h l).stop = .closing true true ∧ s.frameWorkDone h l = true) →
      s' = lanes.foldl (fun s l => s.closeFrame h l) s → s'.historyOk h (s'.autoTensors h) = true →
      ∃ t, exec (.stepLoop h) s = .next t ∧ t.entry 0x3020 5 = wrap64 (s.entry 0x3020 5 + 1)
        ∧ (∀ l ∈ lanes, t.lane h l = { s.lane h l with
            pc := (s.lane h l).pc + 8, stop := .unopened ((s.lane h l).frame + 1) })
        ∧ t.heats[h].stepMark = false ∧ t.heats[h].loss.acc = 0
        ∧ (s'.autoTensors h = [] → SameMemory s t))

/-- CT_HALT stops the lane. When every lane has halted and all issued work has completed, the Heat enters DONE, raises EV-7032 and
reports completion to the host (R248). -/
def Obligations.HaltedHeatsAreDone : Prop :=
∀ (s : State) (h : Fin 64),
    (∀ l : Fin 4, s.canIssue h l = true → ∃ t, exec (.ctHalt h l 0) s = .next t
      ∧ t.lane h l = { s.lane h l with pc := (s.lane h l).pc + 8, stop := .halted }
      ∧ LanesKept h l s t ∧ CountsIssue h s t ∧ t = { s with heats := t.heats, dict := t.dict })
    ∧ (s.heats[h].status = .running → (∀ l, (s.lane h l).stop = .halted) → s.outstanding (·.heat == h) = false →
      s.heats[h].services = [] → s.log.queues[0].waiting.length < 256 →
      ∃ t, exec (.heatDone h) s = .next t ∧ t.heats[h].status = .done
        ∧ (∃ e ∈ t.log.queues[0].waiting, e.code = 0x7032 ∧ e.heat = h.val)
        ∧ t.out.getLast? = some { kind := .hostDone, unit := h.val })

/-- A word that names no instruction faults its Heat with ILLEGAL, a CT_SVC of an unlisted service with SVC (R203, R249). The Heat is
FAULTED with code, lane and address, and its lanes are halted (R251). A set reserved bit faults the Heat with INSN_RESERVED, whatever
else the instruction asks (R13, R250, R666), and no other Heat changes its state. -/
def Obligations.BadWordsFault : Prop :=
  (∀ (s : State) (h : Fin 64) (l : Fin 4) (word : BitVec 64), s.canIssue h l = true →
    (listedWord word.toNat = false →
      ∃ t, exec (.illegal h l word) s = .next t ∧ FaultedBy h l (s.lane h l).pc .illegal t)
    ∧ (listedWord word.toNat = true → unknownService word.toNat = true → bitsOf word.toNat 0 15 = 0 →
      semBad true (bitsOf word.toNat 15 9) = false →
      ∃ t, exec (.illegal h l word) s = .next t ∧ FaultedBy h l (s.lane h l).pc .svc t))
  ∧ (∀ (s : State) (h : Fin 64) (l : Fin 4) (c : Instr), s.canIssue h l = true →
    ((∃ sem n r, r ≠ 0 ∧ c = .syPost h l sem n r) ∨ (∃ sem n k x r, r ≠ 0 ∧ c = .syWait h l sem n k x r)
      ∨ (∃ sem v r, r ≠ 0 ∧ c = .sySet h l sem v r) ∨ (∃ sem r, r ≠ 0 ∧ c = .syAcq h l sem r)
      ∨ (∃ sem r, r ≠ 0 ∧ c = .syRel h l sem r) ∨ (∃ m r, r ≠ 0 ∧ c = .syFence h l m r)
      ∨ (∃ r, r ≠ 0 ∧ c = .ctNop h l r) ∨ (∃ i v r, r ≠ 0 ∧ c = .ctSetc h l i v r) ∨ (∃ i v r, r ≠ 0 ∧ c = .ctAddc h l i v r)
      ∨ (∃ i o r, r ≠ 0 ∧ c = .ctLoop h l i o r) ∨ (∃ p r, r ≠ 0 ∧ c = .ctPhase h l p r) ∨ (∃ r, r ≠ 0 ∧ c = .ctStep h l r)
      ∨ (∃ r, r ≠ 0 ∧ c = .ctHalt h l r) ∨ (∃ e d x k r, r ≠ 0 ∧ c = .laMove h l e d x k r)
      ∨ (∃ u d x k r, r ≠ 0 ∧ c = .scAdd h l u d x k r)) →
    ∃ t, exec c s = .next t ∧ FaultedBy h l (s.lane h l).pc .insnReserved t
      ∧ ∀ g, g ≠ h → t.heats[g].status = s.heats[g].status)

/-- The services of CT_SVC (R249): with an argument that is well formed, INGEST and ADMIT wait and the lane goes on; NOTE enters its
bytes into the Logbook as EV-D001 and posts its completion semaphore. INGEST_COPY: the next INGEST in issue order, with n entries ahead
in the ring: the entries reach their destination, the consumer index moves on by n, and the service ends (R462). ADMIT_REQUEST_READ: a
request that fits joins the end of the Crew's admission queue (R497). -/
def Obligations.ServicesReadTheHostRings : Prop :=
  (∀ (s : State) (h : Fin 64) (l : Fin 4) (handle : BitVec 16) (csem : BitVec 9) (at_ len : Nat), s.canIssue h l = true →
    (csem.toNat < 320 ∨ csem = 511) → handle.toNat < s.heats[h].header.dcount → s.kindOf h handle.toNat = 5 →
    s.argTable h handle.toNat = some (at_, len) → s.decodes (s.accOf h) at_ len = true →
    (len ≤ 32 → (csem = 511 ∨ s.sem h csem.toNat + 1 < 2 ^ 32) → s.log.queues[0].waiting.length < 256 →
      ∃ t e, exec (.note h l handle csem 0) s = .next t
        ∧ t.log.queues[0].waiting = s.log.queues[0].waiting ++ [e] ∧ e.code = 0xD001
        ∧ e.payload = [(h.val : Int), l.val] ++ (s.load (s.accOf h) at_ len).map (fun b => (b.toNat : Int))
        ∧ (csem ≠ 511 → t.sem h csem.toNat = s.sem h csem.toNat + 1)
        ∧ t.lane h l = { s.lane h l with pc := (s.lane h l).pc + 8 } ∧ SameMemory s t)
    ∧ (∀ a, IngestArg.parse (s.loadNat (s.accOf h) at_ 32) = some a → len = 32 →
      ∃ t, exec (.ingest h l handle csem 0) s = .next t
        ∧ t.heats[h].services = s.heats[h].services ++ [{ op := .ingest a, lane := l, pc := (s.lane h l).pc, csem := csem.toNat, order := s.serviceCount }]
        ∧ t.lane h l = { s.lane h l with pc := (s.lane h l).pc + 8 } ∧ LanesKept h l s t ∧ CountsIssue h s t
        ∧ t = { s with heats := t.heats, dict := t.dict, serviceCount := s.serviceCount + 1 })
    ∧ ∀ a, AdmitArg.parse (s.loadNat (s.accOf h) at_ 64) = some a → len = 64 →
      (∀ v ∈ s.heats[h].services, ∀ b, v.op ≠ .admission b) →
      s.plainRange h a.stab (8192 + 512 * a.need a.ctxmax) = true → s.plainRange h a.pool (256 * a.psize * a.npages) = true →
      ∃ t, exec (.admitService h l handle csem 0) s = .next t ∧ t.heats[h].admission = some a
        ∧ t.heats[h].services = s.heats[h].services ++ [{ op := .admission a, lane := l, pc := (s.lane h l).pc, csem := csem.toNat, order := s.serviceCount }]
        ∧ t.lane h l = { s.lane h l with pc := (s.lane h l).pc + 8 } ∧ LanesKept h l s t ∧ CountsIssue h s t
        ∧ t = { s with heats := t.heats, dict := t.dict, serviceCount := s.serviceCount + 1 })
  ∧ (∀ (s : State) (h : Fin 64),
    (∀ (ring producer : BitVec 64) (bytes : List (BitVec 8)) (v : Service) (a : IngestArg) (fill : Nat),
      s.heats[h].ingestOn ring.toNat = some (v, a) → s.heats[h].acting = true → v.csem = 511 → s.ingestNext a.ring v = true →
      fill = (producer.toNat + 2 ^ 64 - s.ringIndex a.ring) % 2 ^ 64 → fill ≤ 2 ^ a.k → a.n ≤ fill →
      s.writable (s.accOf h) a.dst (a.n * a.esize) = true →
      s.delivers [{ at_ := a.dst, len := a.n * a.esize, write := true }] = true →
      ∃ t, exec (.ingestCopy h ring producer true bytes) s = .next t
        ∧ t.mem = (s.store (s.accOf h) a.dst ((List.range (a.n * a.esize)).map fun i => bytes.getD i 0)).mem
        ∧ t.ringIndex a.ring = wrap64 (s.ringIndex a.ring + a.n)
        ∧ t.heats[h].services = s.heats[h].services.erase v ∧ t.heats[h].starved = 0
        ∧ t.entry (0xD100 + h.val) 3 = min fill (2 ^ 32 - 1))
    ∧ ∀ (producer consumer : BitVec 64) (entry : BitVec 512) (a : AdmitArg) (plen maxnew : Nat),
      s.heats[h].admission = some a → s.ringIndex a.rq ≠ producer.toNat →
      (s.ringIndex a.cq + 2 ^ 64 - consumer.toNat) % 2 ^ 64 < 2 ^ a.kcq → s.crews[crewOf h].admission.length < 1024 →
      plen = bitsOf entry.toNat 64 32 → maxnew = bitsOf entry.toNat 96 32 → a.need (plen + maxnew) ≤ a.npages →
      plen + maxnew ≤ a.ctxmax →
      ∃ t r, exec (.admitRequestRead h producer consumer entry) s = .next t
        ∧ t.crews[crewOf h].admission = s.crews[crewOf h].admission ++ [r]
        ∧ r.rid = bitsOf entry.toNat 0 64 ∧ r.plen = plen ∧ r.maxnew = maxnew ∧ r.heat = h
        ∧ t.ringIndex a.rq = wrap64 (s.ringIndex a.rq + 1) ∧ SameMemory s t ∧ EntriesKept [] s t)

/-- CHECKPOINT at a step that is no multiple of K posts at once, and otherwise waits as a service; its snapshot fills the target slot of
the Crew's Slipway region with the present step, and the service ends (R632). -/
def Obligations.CheckpointsSnapshot : Prop :=
∀ (s : State) (h : Fin 64),
    (∀ (l : Fin 4) (csem : BitVec 9), s.canIssue h l = true → csem.toNat < 320 ∨ csem = 511 →
      (csem = 511 ∨ s.sem h csem.toNat + 1 < 2 ^ 32) →
      ∃ t, exec (.checkpoint h l 0 csem 0) s = .next t ∧ t.lane h l = { s.lane h l with pc := (s.lane h l).pc + 8 }
        ∧ (if s.entry 0x3020 5 % s.entry (0xD200 + (crewOf h).val) 3 ≠ 0 then
            t.heats[h].services = s.heats[h].services ∧ (csem ≠ 511 → t.sem h csem.toNat = s.sem h csem.toNat + 1)
          else t.heats[h].services = s.heats[h].services ++
            [{ op := .checkpoint (s.issuedItems h), lane := l, pc := (s.lane h l).pc, csem := csem.toNat, order := s.serviceCount }])
        ∧ SameMemory s t)
    ∧ ∀ (v : Service) (rest : List Service) (before : List QItem), s.heats[h].services = v :: rest → v.op = .checkpoint before →
      v.csem = 511 → s.heats[h].acting = true → (∀ q ∈ before, s.outstanding (· == q) = false) →
      s.slipways[crewOf h].settled = true →
      ∃ t, exec (.checkpointSnapshot h) s = .next t ∧ t.heats[h].services = rest
        ∧ ((s.slipRegion (crewOf h)).isSome →
          (t.slipways[crewOf h].slots[s.slipways[crewOf h].target]).state = .local_
          ∧ (t.slipways[crewOf h].slots[s.slipways[crewOf h].target]).step = s.entry 0x3020 5
          ∧ (t.slipways[crewOf h].slots[s.slipways[crewOf h].target]).origin = s.moduleId)

/-- START gives a Heat its lanes at their starts, with frame 0 to open at the next edge and every Heat semaphore 0; it runs, or waits as
PREEMPTED behind another Heat of its Crew, and EV-7001 is raised. STOP makes it IDLE; SUSPEND holds a RUNNING Heat; RESUME clears the
hold (R481). A START that is refused changes nothing. -/
def Obligations.HeatCommandsAct : Prop :=
∀ (s : State) (h : Fin 64),
    (s.startStatus h = 0 → s.log.queues[0].waiting.length < 256 →
      ∃ t p, exec (.start h) s = .next t ∧ s.planHeader h = some p ∧ t.heats[h].header = p
        ∧ t.heats[h].status = (if s.crewBusy (crewOf h) then .preempted else .running)
        ∧ (∀ l : Fin 4, t.lane h l = (match p.lanes[l.val]? with
            | some e => { start := e.start, length := e.length, blades := e.blades, budget := e.budget, pc := e.start,
                          stop := .unopened 0 }
            | none => {}))
        ∧ (∀ k, k < 256 → t.sem h k = 0) ∧ (∀ g, g ≠ h → t.heats[g] = s.heats[g]) ∧ RaisedLast 0 0x7001 [(h.val : Int)] s t
        ∧ EntriesKept [] s t ∧ t = { s with heats := t.heats, crews := t.crews, log := t.log })
    ∧ (s.startStatus h ≠ 0 → exec (.start h) s = .next s)
    ∧ (s.heats[h].status = .running ∨ s.heats[h].status = .preempted →
      ∃ t, exec (.stop h) s = .next t ∧ t.heats[h].status = .idle ∧ (∀ l, (t.lane h l).stop = .halted)
        ∧ t.heats[h].services = [] ∧ t.heats[h].admission = none ∧ ∀ g, g ≠ h → t.heats[g].status = s.heats[g].status)
    ∧ (s.heats[h].status = .running →
      ∃ t, exec (.suspend h) s = .next t ∧ t.heats[h] = { s.heats[h] with held := true }
        ∧ (∀ g, g ≠ h → t.heats[g] = s.heats[g]) ∧ t = { s with heats := t.heats })
    ∧ ∃ t, exec (.resume h) s = .next t ∧ t.heats[h].held = false ∧ t.heats[h].status = s.heats[h].status
      ∧ (s.heats[h].status = .preempted → s.crewBusy (crewOf h) = false → s.crews[crewOf h].state = .normal →
        ∃ g, crewOf g = crewOf h ∧ t.heats[g].restoring = some s.clock.now)
      ∧ t = { s with heats := t.heats }

/-- A pre-emption: the save begins when every lane has stopped and the issued work is done, or when the deadline passes (R484); a save
that is complete leaves the Heat PREEMPTED with its save area valid, and the Crew's Tank scratch cleared (R488); a restore is complete
before the Heat resumes. The collectives of a Heat of several modules that do not end in time stop the job (R487). -/
def Obligations.PreemptionSavesAndRestores : Prop :=
∀ (s : State) (h : Fin 64),
    (∀ r, s.heats[h].request = some r → s.heats[h].acting = true →
      (s.heats[h].lanesStopped = true → s.issuedDone h = true → s.markFault h = none →
        (s.entry 0x7100 2 ≠ 0 ∨ s.multiModule (crewOf h) = true) →
        ∃ t, exec (.pmarkSave h) s = .next t ∧ t.heats[h] = { s.heats[h] with request := some { r with save := some (r.stopped.getD s.clock.now, false) } }
          ∧ (∀ g, g ≠ h → t.heats[g] = s.heats[g]) ∧ t = { s with heats := t.heats })
      ∧ (s.multiModule (crewOf h) = false → s.log.queues[0].waiting.length < 256 →
        ∃ t, exec (.pmarkDeadline h) s = .next t ∧ t.clock.now = (s.advanceTo (r.at_ + s.entry 0x7100 2 * 1000)).clock.now
          ∧ t.heats[h] = { s.heats[h] with request := some { r with save := some (t.clock.now, true) } }
          ∧ RaisedLast 0 0x7013 [(h.val : Int)] s t))
    ∧ (s.heats[h].request.isSome = true → s.multiModule (crewOf h) = true → s.collecting h = true →
      s.crews[crewOf h].state = .normal → ∃ t, exec (.collectiveWaitLimit h) s = .next t ∧ JobStopped (crewOf h) t)
    ∧ (∀ at_ full, (s.heats[h].request.bind (·.save)) = some (at_, full) → s.collecting h = false → s.windowsIdle h = true →
      s.unitsRun (crewOf h) (· != h) = false →
      ∃ t, exec (.saveComplete h) s = .next t ∧ t.heats[h].status = .preempted ∧ t.heats[h].request = none
        ∧ t.heats[h].save.isSome = true ∧ t.heats[h].saveValid = true
        ∧ t.entry (0x7300 + h.val) (if full then 0xA else 0xB)
            = wrap64 (s.entry (0x7300 + h.val) (if full then 0xA else 0xB) + 1)
        ∧ t.entry (0x7300 + h.val) 0xD = (s.clock.now - at_) % 2 ^ 32
        ∧ ∀ k, s.tankKeyOf (crewOf h) k = true → t.cell k = 0)
    ∧ ∀ at_, s.heats[h].restoring = some at_ → s.heats[h].restored = false → s.unitsRun (crewOf h) (fun _ => true) = false →
      ∃ t, exec (.restoreComplete h) s = .next t ∧ t.heats[h] = { s.heats[h] with restored := true }
        ∧ t.entry (0x7300 + h.val) 0xE = (s.clock.now - at_) % 2 ^ 32

/-- A stroke edge advances the stroke number, and module time reaches the edge (R440). A RUNNING Heat's lanes open the frames that wait
for the edge (R240), where no service acts and nothing is restored at it. -/
def Obligations.EdgesOpenFrames : Prop :=
∀ s : State, s.inReset = false → (∀ h : Fin 64, s.heats[h].services = [] ∧ s.heats[h].restored = false) →
    ∃ t, exec .strokeEdge s = .next t ∧ t.clock.stroke = s.clock.stroke + 1 ∧ t.clock.slotOpen = false
      ∧ t.clock.now = (s.advanceTo (s.edgeTime (s.clock.stroke + 1)).toNat).clock.now
      ∧ (∀ (h : Fin 64) (l : Fin 4) (n : Nat), s.heats[h].status = .running → (s.lane h l).stop = .unopened n →
        t.lane h l = { s.lane h l with frame := n, openedAt := t.clock.now, leftAt := t.clock.now, stop := .running })
      ∧ (∀ (h : Fin 64) (l : Fin 4), (∀ n, (s.lane h l).stop ≠ .unopened n) → t.lane h l = s.lane h l)
      ∧ (∀ n : Fin 4, t.blades[n].phase = s.blades[n].phaseNext.getD s.blades[n].phase ∧ t.blades[n].phaseNext = none)
      ∧ (s.slotLength ≠ 0 → SameMemory s t)

/-- The maintenance slot closes each stroke (R458): its length is floor(P × m / 100) ns, with m in 0x2000.02, and 0x2000.06 gives it; it
opens that long before the next edge, once in a stroke, and is over at the edge. -/
def Obligations.MaintenanceSlotOpens : Prop :=
(∀ r, dictRow 0x2000 2 = some r → r.type = .u8 ∧ r.access = .rws ∧ r.reset = 2 ∧ ∀ v, r.legal v = true ↔ v ≤ 10)
  ∧ (∀ s : State, s.slotLength = 1000 * s.entry 0x2000 1 * s.entry 0x2000 2 / 100 ∧ s.viewNat 0x2000 6 = s.slotLength)
  ∧ (∀ s t : State, s.inReset = false → exec .strokeEdge s = .next t → t.clock.slotOpen = false)
  ∧ ∀ s : State, s.inReset = false → s.slotLength ≠ 0 → s.clock.slotOpen = false →
    ∃ t, exec .maintenanceSlotOpen s = .next t ∧ t.clock.slotOpen = true ∧ t.clock.stroke = s.clock.stroke
      ∧ t.clock.now = (s.advanceTo (s.edgeTime (s.clock.stroke + 1) - s.slotLength).toNat).clock.now
      ∧ exec .maintenanceSlotOpen t = .next t

/-- COMMIT_APPLY takes the pending commit with the earliest edge, the first accepted, out of the queue (R602). One whose checks pass
takes effect whole and counts in 0xC000.07; one that fails changes no entry but its counter 0xC000.09 and the event counter; one whose
number a new grid has passed fails at that grid's first edge (R442). -/
def Obligations.CommitsApplyWhole : Prop :=
∀ (s u : State) (k : Commit), s.inReset = false → nextCommit s.turnOf s.xefin.commits = some k →
    u = { s.advanceTo (s.turnOf k) with
      xefin := { s.xefin with commits := s.xefin.commits.filter fun j => j.id != k.id } } →
    (s.turnOf k = if s.passed k then s.edgeAfter (s.clock.gridFrom.getD 0) else (s.edgeTime k.stroke).toNat)
    ∧ (s.passed k = false →
      u.commitFailure (u.project k.items) [] (u.xefin.commits.flatMap fun j => activations j.items) k.items true = none →
      ∃ t, exec .commitApply s = .next t
        ∧ EntriesKept [(0xC000, 7), (0xA000, 3)] (u.applyItems k.items k.stroke) t
        ∧ t.entry 0xC000 7 = wrap64 ((u.applyItems k.items k.stroke).entry 0xC000 7 + 1))
    ∧ ((s.passed k = true ∨
        (u.commitFailure (u.project k.items) [] (u.xefin.commits.flatMap fun j => activations j.items) k.items true).isSome = true) →
      ∃ t, exec .commitApply s = .next t ∧ t.xefin.commits = u.xefin.commits
        ∧ EntriesKept [(0xC000, 9), (0xA000, 3)] s t ∧ t.entry 0xC000 9 = wrap64 (s.entry 0xC000 9 + 1)
        ∧ SameMemory s t)

/-- The instructions of a Blade queue issue (R202, R213, R222, R223): one that finds room, with no lower-numbered lane of its Heat
stopped for that queue, enters at the end of its Blade's queue and the lane goes on; what is at the head of the queue then acts. At the
head of an idle Blade's queue, CH_DROP empties a retain slot, CH_BIND binds a free receive slot to the Heat and a tag, and CH_UNBIND
frees one whose credits have returned, or faults its Heat where another holds the slot (R223). On a Blade that is disabled or outside
the Heat's Crew the instruction faults its Heat (the model's reading, log entry 70). -/
def Obligations.BladeQueuesAct : Prop :=
  (∀ (s : State) (h : Fin 64) (l : Fin 4) (n : Fin 4) (c : Instr) (op : QOp) (csem : Nat), s.canIssue h l = true →
    (s.queue (.blade n)).waiting.length < 4 → s.yields h l (.blade n) = false →
    ((∃ (pd : BitVec 16) (xi : BitVec 4) (chx chn : Bool) (ch : BitVec 16) (ramp : Bool) (acc : BitVec 2) (k : BitVec 9)
        (d d' : Nat), d = (s.lane h l).handle pd.toNat xi.toNat
        ∧ d' = (if chx then (s.lane h l).handle ch.toNat xi.toNat else ch.toNat) ∧ acc ≠ 3 ∧ (chn = true ∨ ch = 0)
        ∧ semBad true k.toNat = false ∧ bitOf (s.lane h l).blades n.val = true
        ∧ d < s.heats[h].header.dcount ∧ s.kindOf h d = 2
        ∧ (chn = true → d' < s.heats[h].header.dcount ∧ s.kindOf h d' = 3)
        ∧ c = .blRun h l n pd xi chx chn ch ramp acc k ∧ csem = k.toNat
        ∧ op = .blRun d (if chn then some d' else none) acc.toNat ramp)
      ∨ (∃ (led : BitVec 16) (xi : BitVec 4) (k : BitVec 9) (d : Nat), d = (s.lane h l).handle led.toNat xi.toNat
        ∧ semBad true k.toNat = false ∧ d < s.heats[h].header.dcount ∧ s.kindOf h d = 4
        ∧ c = .chOpen h l n led xi k 0 ∧ csem = k.toNat ∧ op = .chOpen d)
      ∨ (∃ slot, c = .chDrop h l n slot 0 ∧ csem = 511 ∧ op = .chDrop slot)
      ∨ (∃ (r : Fin 64) (tag : BitVec 16), c = .chBind h l n r tag 0 ∧ csem = 511 ∧ op = .chBind r tag.toNat)
      ∨ (∃ r, c = .chUnbind h l n r 0 ∧ csem = 511 ∧ op = .chUnbind r)) →
    ∃ (e : State) (q : QItem), exec c s = .next (e.bladeHead n)
      ∧ e.queue (.blade n) = { s.queue (.blade n) with waiting := (s.queue (.blade n)).waiting ++ [q] }
      ∧ q.op = op ∧ q.heat = h ∧ q.lane = l ∧ q.pc = (s.lane h l).pc ∧ q.csem = csem
      ∧ e.lane h l = { s.lane h l with pc := (s.lane h l).pc + 8 } ∧ LanesKept h l s e ∧ CountsIssue h s e
      ∧ EntriesKept [(0x7200 + h.val, 6)] s e ∧ e = { s with heats := e.heats, blades := e.blades, dict := e.dict })
  ∧ (∀ (s : State) (h : Fin 64) (l : Fin 4) (n : Fin 4), s.canIssue h l = true → s.blades[n].queue.waiting = [] →
    s.yields h l (.blade n) = false → s.blades[n].arrival = none → s.slicing (bladeUnit n) = false →
    (s.reachesBlade h n.val = false →
      ∀ slot : Fin 4, ∃ t, exec (.chDrop h l n slot 0) s = .next t ∧ FaultedBy h l (s.lane h l).pc .bladeAbsent t)
    ∧ (s.reachesBlade h n.val = true →
    (∀ slot : Fin 4, ∃ t, exec (.chDrop h l n slot 0) s = .next t
      ∧ t.blades[n] = { s.blades[n] with slots := s.blades[n].slots.set slot {} } ∧ (t.lane h l).pc = (s.lane h l).pc + 8
      ∧ SameMemory s t)
    ∧ (∀ (r : Fin 64) (tag : BitVec 16), s.blades[n].recv[r].bound = none → s.blades[n].recv[r].releasing = false →
      ∃ t, exec (.chBind h l n r tag 0) s = .next t
        ∧ t.blades[n] = { s.blades[n] with recv := s.blades[n].recv.set r { bound := some (h, tag.toNat) } }
        ∧ (t.lane h l).pc = (s.lane h l).pc + 8 ∧ SameMemory s t)
    ∧ (∀ (r : Fin 64) (tag : Nat), s.blades[n].recv[r].bound = some (h, tag) → s.blades[n].recv[r].returned = true →
      s.blades[n].recv[r].releasing = false →
      ∃ t, exec (.chUnbind h l n r 0) s = .next t ∧ t.blades[n] = { s.blades[n] with recv := s.blades[n].recv.set r {} }
        ∧ (t.lane h l).pc = (s.lane h l).pc + 8 ∧ SameMemory s t)
    ∧ ∀ (r : Fin 64) (g : Fin 64) (tag : Nat), s.blades[n].recv[r].bound = some (g, tag) → g ≠ h →
      s.blades[n].recv[r].releasing = false →
      ∃ t, exec (.chUnbind h l n r 0) s = .next t ∧ FaultedBy h l (s.lane h l).pc .chainSource t))

/-- The BLADE at the head of an idle Blade's queue is checked (R138): the lowest fault faults its Heat and the BLADE does nothing else;
one without a fault leaves the queue and stands before the gate, with its descriptors as read there. A checked BLADE with its gate open
and its tile arrived enters at its receive slot's arrival (R185): it is in flight, and the Blade has no BLADE before the gate; one whose
earlier stream has undecided tiles of a drain-through BLADE goes on waiting (R131), and so does one whose arrival semaphore is short of
the tile's blocks. RAMP_GATE_OPEN opens the gate at its time and starts the 2,048 cycles (R571). -/
def Obligations.BladesAreCheckedAndEnter : Prop :=
  (∀ (s : State) (n : Fin 4) (q : QItem) (rest : List QItem) (pd : Nat) (ch : Option Nat) (acc : Nat) (ramp : Bool) (b : BladeNames),
    s.blades[n].arrival = none → s.blades[n].queue.waiting = q :: rest → s.slicing (bladeUnit n) = false →
    q.op = .blRun pd ch acc ramp → s.bladeNames q pd ch = some b →
    (∀ p, lowestFault (s.bladeFaults n q acc b) = some p →
      (s.heats[q.heat].status = .running ∨ s.heats[q.heat].status = .preempted) →
      ∃ t, exec (.bladeCheck n) s = .next t ∧ FaultedBy q.heat q.lane q.pc p t ∧ t.blades[n].runs = s.blades[n].runs)
    ∧ ∀ hs hw ho ha, lowestFault (s.bladeFaults n q acc b) = none → b.hs = some hs → b.hw = some hw → b.ho = some ho →
      b.ha = some ha →
      s.bladeReach { item := q, acc := acc, prod := b.prod, chain := b.chain, hs := hs, hw := hw, out := ho,
                     refs := ((b.chain.map (·.stages)).getD []).map (s.stageRef q.heat), ceilT := 0, ceilS := 0,
                     anchors := [] } ha = true →
      ∃ (e : State) (j : BladeJob), exec (.bladeCheck n) s = .next ((e.tryStream n).bladeHead n)
        ∧ e.blades[n].arrival = some j ∧ e.blades[n].queue = { s.blades[n].queue with waiting := rest }
        ∧ j.item = q ∧ j.acc = acc ∧ j.prod = b.prod ∧ j.chain = b.chain ∧ j.hs = hs ∧ j.hw = hw ∧ j.out = ho
        ∧ j.refs = ((b.chain.map (·.stages)).getD []).map (s.stageRef q.heat)
        ∧ e.blades[n].rampWait = (if ramp && !s.gateRuns n then some (q.tref + staggerNs s.moduleId n.val) else none)
        ∧ e.blades[n].runs = s.blades[n].runs ∧ SameMemory s e)
  ∧ (∀ (s : State) (n : Fin 4),
    (∀ (j : BladeJob) (c : Chain), s.blades[n].arrival = some j → j.chain = some c → c.source = 1 →
      s.blades[n].rampWait = none → s.blades[n].holdsSwap = false →
      j.tileBlocks.length ≤ (s.countArrivals n j).sem j.item.heat c.arrSem → (s.blades[n].recvSlot c.rslot).busy = false →
      (s.countArrivals n j).badUnit ((s.countArrivals n j).entry (0x7300 + j.item.heat.val) 5)
        ((s.countArrivals n j).bladeSpans j) = none →
      (s.countArrivals n j).delivers ((s.countArrivals n j).bladeSpans j) = true →
      ∃ t run, exec (.receiveSlotArrival n) s = .next t ∧ t.blades[n].arrival = none
        ∧ t.blades[n].runs = s.blades[n].runs ++ [run] ∧ run.item = j.item)
    ∧ (∀ (j : BladeJob) (c : Chain), s.blades[n].arrival = some j → j.chain = some c → c.source = 1 →
      s.blades[n].rampWait.isSome = true ∨ s.blades[n].holdsSwap = true
        ∨ (s.countArrivals n j).sem j.item.heat c.arrSem < j.tileBlocks.length →
      exec (.receiveSlotArrival n) s = .next ((s.countArrivals n j).bladeHead n)
        ∧ (s.countArrivals n j).blades[n].arrival = some j)
    ∧ ∀ at_, s.blades[n].rampWait = some at_ →
      ∃ e, exec (.rampGateOpen n) s = .next ((e.tryStream n).bladeHead n) ∧ e.clock.now = (s.advanceTo at_).clock.now
        ∧ e.blades[n] = { s.blades[n] with rampWait := none, gate := some e.clock.now } ∧ SameMemory s e ∧ e.heats = s.heats)

/-- The credits of a receive slot that its BLADE has read return, and the slot can be filled again; one that waits for its release is
free (R187). Each pause of a granule past the limit raises EV-3030, and 0x310n.0E keeps the longest pause (R125); a pause behind the
Finish is granule (7, q)'s, and the numbers of the two causes are the model's choice (log entry 15). A tile of the oldest undecided
BLADE is final when its blocks quantize at its attempt, and overflows otherwise (R127, R128); a CLOSE tile is re-quantized at once, up
to its final attempt (R132); one re-stream gives every overflowing tile of a band its next attempt (R129). -/
def Obligations.SlotsReturnAndTilesAreDecided : Prop :=
  (∀ (s : State) (n : Fin 4),
    (∀ r : Fin 64, s.blades[n].recv[r].busy = true → s.blades[n].arrival = none → s.blades[n].queue.waiting = [] →
      ∃ t, exec (.receiveSlotCreditReturn n r) s = .next t
        ∧ t.blades[n].recv[r] = (if s.blades[n].recv[r].releasing then {}
          else { s.blades[n].recv[r] with busy := false, credits := [], landed := [], posted := 0 })
        ∧ (∀ k, k ≠ r → t.blades[n].recv[k] = s.blades[n].recv[k])
        ∧ (∀ q ∈ t.blades[n].queue.started, q.op ≠ .chUnbind r) ∧ SameMemory s t)
    ∧ ∀ (g q : Fin 8) (drain : Bool) (cycles : Nat), s.entry 0x3108 1 < cycles → cycles < 2 ^ 32 →
      s.log.queues[dieOf 2 n.val].waiting.length < 256 →
      ∃ t, exec (.granuleWatchdog n g q drain cycles) s = .next t
        ∧ t.entry (0x3100 + n.val) 0xE = max (s.entry (0x3100 + n.val) 0xE) cycles
        ∧ RaisedLast (dieOf 2 n.val) 0x3030 [(n.val : Int), if drain then 7 else g.val, q.val, if drain then 1 else 0] s t
        ∧ EntriesKept [(0x3100 + n.val, 0xE)] s t ∧ SameMemory s t)
  ∧ (∀ (s : State) (n : Fin 4) (k : Nat) (r : BladeRun), s.blades[n].deciding = some (k, r) →
    s.blades[n].arrival = none →
    (∀ (band : Nat) (g : Fin 8) (tile : TileSt), band < r.prod.bands → g.val < r.prod.groups →
      r.tiles[band * r.prod.groups + g.val]? = some tile → tile.final = false → tile.overflow = false → r.acc ≠ 2 →
      ∃ t r', exec (.tileDecision n band g) s = .next t ∧ t.blades[n].runs[k]? = some r'
        ∧ r'.tiles[band * r.prod.groups + g.val]? = some
          (match quantizeTile r.out.fmt.width (attemptCeiling r.out.expo tile.attempt) (attemptLast r.out.expo tile.attempt)
              (s.tileBlocks r band g.val) with
            | some _ => { tile with final := true }
            | none => { tile with overflow := true }))
    ∧ (∀ (band : Nat) (g : Fin 8) (tile : TileSt) (a : Nat) (qs : List ((Nat × Nat) × QuantResult)), band < r.prod.bands →
      g.val < r.prod.groups → r.tiles[band * r.prod.groups + g.val]? = some tile → tile.final = false → tile.overflow = false →
      r.acc = 2 → closeAttempts r.out.fmt.width r.out.expo (s.tileBlocks r band g.val) 4 0 = some (a, qs) →
      ∃ t r', exec (.tileDecision n band g) s = .next t ∧ t.blades[n].runs[k]? = some r'
        ∧ r'.tiles[band * r.prod.groups + g.val]? = some { attempt := a, overflow := false, final := true })
    ∧ ∀ band : Nat, band < r.prod.bands → r.stopped = [] →
      (∀ g, g < r.prod.groups → ∃ x, r.tiles[band * r.prod.groups + g]? = some x ∧ (x.final = true ∨ x.overflow = true)) →
      (∃ g, g < r.prod.groups ∧ (r.tiles.getD (band * r.prod.groups + g) {}).overflow = true) →
      ∃ t r', exec (.tileRedo n band) s = .next t ∧ t.blades[n].runs[k]? = some r'
        ∧ (∀ g, g < r.prod.groups → r'.tiles[band * r.prod.groups + g]? = (r.tiles[band * r.prod.groups + g]?).map fun x =>
          if x.overflow then { x with attempt := x.attempt + 1, overflow := false } else x)
        ∧ SameMemory s t)

/-- The oldest BLADE in flight leaves when its tiles are final and its requests are delivered, posts its completion semaphore, and a
CLOSE empties its retain slot (R219); the entry cycles in which no row entered are counted by cause (R124). CH_TOPEN gives the status
word of a tensor its opening values, CH_TCLOSE sets its done bit; both are the sequencer's own, and the lane goes on (R224). -/
def Obligations.BladesCompleteAndTensorsOpen : Prop :=
  (∀ (s : State) (n : Fin 4) (r : BladeRun) (rest : List BladeRun) (waits : List (BitVec 32)) (rep : MemReport),
    s.blades[n].runs = r :: rest → r.tiles.all (·.final) = true → r.stopped = [] → s.blades[n].queue.waiting = [] →
    s.blades[n].arrival = none → rep.failed = none →
    ∃ t, exec (.bladeComplete n ⟨waits, rep⟩) s = .next t ∧ t.blades[n].runs = rest
      ∧ (∀ q ∈ t.blades[n].queue.started, q ≠ r.item)
      ∧ (∀ i : Nat, i < 6 →
        t.entry (0x3100 + n.val) (4 + i) = wrap64 (s.entry (0x3100 + n.val) (4 + i) + (waits.getD i 0).toNat))
      ∧ (r.item.csem < 320 → s.sem r.item.heat r.item.csem + 1 < 2 ^ 32 →
        t.sem r.item.heat r.item.csem = s.sem r.item.heat r.item.csem + 1)
      ∧ (r.acc = 2 → rest = [] → t.blades[n].slots[Fin.ofNat 4 r.prod.rslot] = {})
      ∧ (r.outKind ≠ 0 → r.item.csem = 511 → SameMemory s t))
  ∧ (∀ (s : State) (h : Fin 64) (l : Fin 4) (handle : BitVec 16) (xi : BitVec 4) (d : Nat) (x : Tensor), s.canIssue h l = true →
    d = (s.lane h l).handle handle.toNat xi.toNat → d < s.heats[h].header.dcount → s.kindOf h d = 1 →
    bitOf (s.descOf h d) 232 = true → Tensor.parse (s.descOf h d) = some x → s.statusReach (s.accOf h) x = true →
    (∃ t, exec (.chTopen h l handle xi 0 0) s = .next t
      ∧ t.mem = (s.putStatus (s.accOf h) x (StatusWord.opened x.expo)).mem
      ∧ t.lane h l = { s.lane h l with pc := (s.lane h l).pc + 8 } ∧ LanesKept h l s t ∧ CountsIssue h s t)
    ∧ ∃ t, exec (.chTclose h l handle xi 0 0) s = .next t
      ∧ t.mem = (s.putStatus (s.accOf h) x { s.statusOf (s.accOf h) x with done := true }).mem
      ∧ t.lane h l = { s.lane h l with pc := (s.lane h l).pc + 8 } ∧ LanesKept h l s t ∧ CountsIssue h s t)

/-- The instructions of Sculls, Launch engines and Relay issue (R202, R225, R233, R234): one that finds room, with no lower-numbered
lane of its Heat stopped for that queue, enters at the end of its unit's queue and the lane goes on; an idle Scull or engine then takes
up what is at the head of its queue. -/
def Obligations.UnitInstructionsEnterTheirQueues : Prop :=
∀ (s : State) (h : Fin 64) (l : Fin 4) (k : Fin 16) (handle : BitVec 16) (xi : BitVec 4) (csem : BitVec 9) (c : Instr) (u : UnitId)
    (op d kind : Nat) (x : QOp), s.canIssue h l = true → semBad true csem.toNat = false →
    d = (s.lane h l).handle handle.toNat xi.toNat → d < s.heats[h].header.dcount → s.kindOf h d = kind →
    (s.queue u).waiting.length < 8 → s.yields h l u = false →
    ((u = .scull k ∧ kind = 6 ∧ s.crewHas h 2 k.val = true ∧ x = .scull op d ∧
        ((c = .scExpand h l k handle xi csem 0 ∧ op = 0x01) ∨ (c = .scQuant h l k handle xi csem 0 ∧ op = 0x02)
          ∨ (c = .scBias h l k handle xi csem 0 ∧ op = 0x03) ∨ (c = .scAct h l k handle xi csem 0 ∧ op = 0x04)
          ∨ (c = .scGate h l k handle xi csem 0 ∧ op = 0x05) ∨ (c = .scResid h l k handle xi csem 0 ∧ op = 0x06)
          ∨ (c = .scSmax h l k handle xi csem 0 ∧ op = 0x07) ∨ (c = .scStats h l k handle xi csem 0 ∧ op = 0x08)
          ∨ (c = .scMark h l k handle xi csem 0 ∧ op = 0x09) ∨ (c = .scLedger h l k handle xi csem 0 ∧ op = 0x0A)
          ∨ (c = .scAdd h l k handle xi csem 0 ∧ op = 0x0B) ∨ (c = .scRsum h l k handle xi csem 0 ∧ op = 0x0C)
          ∨ (c = .scCarry h l k handle xi csem 0 ∧ op = 0x0D) ∨ (c = .scCadd h l k handle xi csem 0 ∧ op = 0x0E)
          ∨ (c = .scUncarry h l k handle xi csem 0 ∧ op = 0x0F) ∨ (c = .scOpt h l k handle xi csem 0 ∧ op = 0x10)
          ∨ (c = .scLoss h l k handle xi csem 0 ∧ op = 0x11)))
      ∨ (u = .engine k ∧ kind = 7 ∧ s.crewHas h 3 k.val = true ∧ x = .launch op d ∧
        ((c = .laMove h l k handle xi csem 0 ∧ op = 1) ∨ (c = .laWindow h l k handle xi csem 0 ∧ op = 2)
          ∨ (c = .laHintPrefetch h l k handle xi csem 0 ∧ op = 4) ∨ (c = .laHintPin h l k handle xi csem 0 ∧ op = 4)
          ∨ (c = .laHintUnpin h l k handle xi csem 0 ∧ op = 4)))
      ∨ (u = .relay h ∧ kind = 8 ∧ x = .launch 3 d ∧ c = .laRelay h l 0 handle xi csem 0)) →
    ∃ (e : State) (q : QItem), exec c s = .next (match u with
        | .scull k => State.scullHead k 8 e
        | .engine k => State.launchHead k 9 e
        | _ => e)
      ∧ e.queue u = { s.queue u with waiting := (s.queue u).waiting ++ [q] }
      ∧ q.op = x ∧ q.heat = h ∧ q.lane = l ∧ q.pc = (s.lane h l).pc ∧ q.csem = csem.toNat
      ∧ e.lane h l = { s.lane h l with pc := (s.lane h l).pc + 8 } ∧ LanesKept h l s e ∧ CountsIssue h s e
      ∧ EntriesKept [(0x7200 + h.val, 6)] s e ∧ SameMemory s e

/-- A Scull that executes leaves its queue waiting; one that is idle takes the instruction at the head, once its reads are delivered,
and executes it (R225); one whose reads are not delivered waits (R332). At its completion it counts, posts the completion semaphore, and
takes the next (R228); a carry-flag word takes its flags only then (R354, R355). -/
def Obligations.ScullsTakeOneAtATime : Prop :=
∀ (s : State) (k : Fin 16),
    (∀ fuel, s.scullRuns[k].isSome = true → State.scullHead k fuel s = s)
    ∧ (∀ (q : QItem) (rest : List QItem) (op d fuel : Nat) (v u : State) (r : ScullRun), s.scullRuns[k] = none →
      s.sculls[k].waiting = q :: rest → s.slicing (scullUnit k) = false → q.op = .scull op d →
      s.delivers (s.scullWants q op d) = true → s.badUnit (s.entry (0x7300 + q.heat.val) 5) (s.scullWants q op d) = none →
      v = (s.setQueue (.scull k) { s.sculls[k] with waiting := rest }).readSpans (crewOf q.heat).val
        (s.entry (0x7300 + q.heat.val) 5) true (s.scullWants q op d) →
      (if op = 0x10 then v.optRun k q d else v.scullRun k q op d) = (u, some r) →
      (State.scullHead k (fuel + 1) s).scullRuns[k] = some r ∧ (State.scullHead k (fuel + 1) s).mem = u.mem
        ∧ (State.scullHead k (fuel + 1) s).dict = u.dict ∧ (State.scullHead k (fuel + 1) s).heats = u.heats
        ∧ (State.scullHead k (fuel + 1) s).sculls[k].started = [q])
    ∧ (∀ (q : QItem) (rest : List QItem) (op d fuel : Nat), s.scullRuns[k] = none → s.sculls[k].waiting = q :: rest →
      s.slicing (scullUnit k) = false → q.op = .scull op d → s.delivers (s.scullWants q op d) = false →
      State.scullHead k (fuel + 1) s = s)
    ∧ ∀ (r : ScullRun) (waits : Nat) (rep : MemReport), s.scullRuns[k] = some r → s.sculls[k].waiting = [] → rep.failed = none →
      ∃ t, exec (.scullComplete k ⟨waits, rep⟩) s = .next t ∧ t.scullRuns[k] = none ∧ t.sculls[k] = {}
        ∧ t.entry (0x3140 + k.val) 1 = wrap64 (s.entry (0x3140 + k.val) 1 + 1)
        ∧ (r.item.csem < 320 → s.sem r.item.heat r.item.csem + 1 < 2 ^ 32 →
          t.sem r.item.heat r.item.csem = s.sem r.item.heat r.item.csem + 1)
        ∧ (r.item.csem = 511 → r.flags = none → SameMemory s t)
        ∧ (∀ addr w, r.item.csem = 511 → r.flags = some (addr, w) →
          ∃ v : State, v.mem = s.mem ∧ v.regions = s.regions ∧ t.mem = (v.mergeFlags (s.accOf r.item.heat) addr w).mem)

/-- A move of a valid descriptor at the head of a free engine is in flight on its span, and nothing of it has landed (R316, R317). Its
rows land part by part; once all have, it is counted and posts its semaphore; a part on a FAILED channel does not land (R332). Which
part lands when is the command's operand (the model's choice, log entry 13). The last line of a pin makes its entry RESIDENT, or frees
it (R310, R311). A window posts `arr` as each layer lands, ends after its last layer, and fetches the layer after the first W once `rel`
has reached 1, which it consumes (R321). -/
def Obligations.MovesAndWindowsComplete : Prop :=
  (∀ (s : State) (e : Fin 16),
    (∀ (q : QItem) (d : Nat) (m : MoveDesc), s.engines[e].queue.waiting = [q] → q.op = .launch 1 d →
      MoveDesc.parse (s.descOf q.heat d) = some m → checkFault (s.moveFaults q.heat e m) (s.moveReach q.heat m) = none →
      s.slicing (engineUnit e) = false → s.windowHolds e.val = false →
      (∀ i, i < m.span → s.windowHolds (e.val + i) = false ∧ s.slicing (Fin.ofNat 36 (16 + e.val + i)) = false) →
      (State.launchHead e 9 s).engines[e].moves = s.engines[e].moves
          ++ [{ item := q, span := m.span, order := s.moveCount, rows := m.moveRows e, layer := false }]
        ∧ (State.launchHead e 9 s).mem = s.mem ∧ (State.launchHead e 9 s).heats = s.heats)
    ∧ (∀ (k : Nat) (m : MoveRun) (part : Option (Nat × Nat)) (rep : MemReport) (w : State) (x : List Piece × List MoveRow × Nat),
      s.engines[e].moves[k]? = some m → (m.layer = false ∨ part.isSome = true) → s.delivers (m.spans part) = true →
      s.badUnit (s.entry (0x7300 + m.item.heat.val) 5) (m.spans part) = none → rep.failed = none →
      w = (s.memReport (crewOf m.item.heat).val rep).2 →
      x = w.landedPart m part →
      earlierMoves (w.movesBefore m.order) x.1 = [] → (∀ p ∈ x.1, w.rowReach m.item.heat p.1 p.2.1 p.2.2 = true) →
      s.engines[e].queue.waiting = [] → (m.item.csem = 511 ∨ s.sem m.item.heat m.item.csem + 1 < 2 ^ 32) →
      ∃ t, exec (.moveComplete e ⟨k, part, rep⟩) s = .next t
        ∧ t.mem = (x.1.foldl (fun s p => s.landBytes m.item.heat p.1 p.2.1 p.2.2) w).mem
        ∧ (part.isSome = true → t.engines = (s.onMove m.order fun m => { m with rows := x.2.1, off := x.2.2 }).engines)
        ∧ (part = none → t.engines[e].moves = s.engines[e].moves.filter (·.order != m.order)
          ∧ t.entry (0x4500 + e.val) 1 = wrap64 (s.entry (0x4500 + e.val) 1 + 1)
          ∧ (m.item.csem ≠ 511 → t.sem m.item.heat m.item.csem = s.sem m.item.heat m.item.csem + 1)))
    ∧ (∀ (k : Nat) (m : MoveRun) (part : Option (Nat × Nat)) (rep : MemReport), s.engines[e].moves[k]? = some m →
      s.delivers (m.spans part) = false → exec (.moveComplete e ⟨k, part, rep⟩) s = .next s)
    ∧ ∀ (d : Fin 2) (line : Nat), ∃ t, exec (.pinResident d line) s = .next t
      ∧ (∀ p ∈ s.dies[d].pins, p.line = line → (if p.claims.isEmpty then { p with resident := true } ∉ t.dies[d].pins
          else { p with resident := true } ∈ t.dies[d].pins))
      ∧ t = { s with dies := t.dies })
  ∧ (∀ (s : State) (e : Fin 16) (w : WindowRun), s.engines[e].window = some w →
    (∀ (m : MoveRun) (rep : MemReport) (v : State), s.engines[e].layerMove w = some m → s.delivers (m.spans none) = true →
      s.badUnit (s.entry (0x7300 + m.item.heat.val) 5) (m.spans none) = none → rep.failed = none →
      v = (s.memReport (crewOf m.item.heat).val rep).2.landMove m none → v.engines[e].window = some w →
      v.sem w.item.heat w.desc.arr + 1 < 2 ^ 32 →
      (w.item.csem = 511 → w.landed + 1 = w.desc.count → (∀ i : Fin 16, v.engines[i].queue.waiting = []) →
        ∃ t, exec (.windowLayerLanded ⟨e, rep⟩) s = .next t ∧ t.engines[e].window = none
          ∧ t.sem w.item.heat w.desc.arr = v.sem w.item.heat w.desc.arr + 1 ∧ t.mem = v.mem)
      ∧ (w.landed + 1 ≠ w.desc.count → w.slots ≤ w.next →
        ∃ t, exec (.windowLayerLanded ⟨e, rep⟩) s = .next t
          ∧ t.engines[e].window = some { w with fetching := none, landed := w.landed + 1 }
          ∧ t.sem w.item.heat w.desc.arr = v.sem w.item.heat w.desc.arr + 1 ∧ t.mem = v.mem)
      ∧ (w.landed + 1 ≠ w.desc.count → w.next < w.slots → v.heats[w.item.heat].savesWork = false →
        ∃ t y, exec (.windowLayerLanded ⟨e, rep⟩) s = .next t ∧ t.engines[e].window = some y ∧ y.landed = w.landed + 1
          ∧ y.next = w.next + 1 ∧ y.fetching.isSome = true
          ∧ t.sem w.item.heat w.desc.arr = v.sem w.item.heat w.desc.arr + 1 ∧ t.mem = v.mem))
    ∧ (w.fetching = none → s.heats[w.item.heat].savesWork = false → w.slots ≤ w.next → w.next < w.desc.count →
      1 ≤ s.sem w.item.heat w.desc.rel →
      exec (.windowRelease e) s = .next ((s.setSem w.item.heat w.desc.rel (s.sem w.item.heat w.desc.rel - 1)).fetchLayer e w w.next))
    ∧ (s.sem w.item.heat w.desc.rel = 0 → exec (.windowRelease e) s = .next s))

/-- The operation at the head of a Heat's Relay queue starts when its checks pass and its tag is not OPEN: it leaves the queue, its tag
is OPEN and the collective is under way (R343); while the tag is OPEN it waits, and while a save of its Heat holds it back (R381); a
check that fails faults the Heat. A DATA frame that the link accepts reaches Relay (R348): a segment of a past step, or of a tag that is
not the Crew's, is dropped, counted and reported as EV-6020; one that is not due is held; one that is due is acted on. -/
def Obligations.CollectivesStartAndTakeSegments : Prop :=
  (∀ (s : State) (h : Fin 64) (c : Instr) (op x : Nat) (q : QItem) (rest : List QItem),
    (c = .reduceScatter h ∧ op = 1) ∨ (c = .allGather h ∧ op = 2) ∨ (c = .allReduce h ∧ op = 3) ∨ (c = .permute h ∧ op = 4) →
    s.relayQueues[h].waiting = q :: rest → q.op = .launch 3 x → q.heat = h → bitsOf (s.descOf h x) 0 4 = op →
    (s.heats[h].savesWork = true → exec c s = .next s)
    ∧ (∀ d, RelayDesc.parse (s.descOf h x) = some d → checkFault (s.relayFaults h d) (s.relayReach h d) = none →
      (∀ k ∈ s.collectives, ¬ (k.crew = crewOf h ∧ k.d.tag = d.tag)) → bitOf (sparseGet 0 s.tags d.tag) 9 = false →
      s.heats[h].savesWork = false →
      ∃ t k, exec c s = .next t ∧ k ∈ t.collectives ∧ k.item = q ∧ k.d = d ∧ bitOf (sparseGet 0 t.tags d.tag) 9 = true
        ∧ t.relayQueues[h].started = s.relayQueues[h].started ++ [q] ∧ ∀ y ∈ t.relayQueues[h].waiting, y ∈ rest)
    ∧ (∀ d, RelayDesc.parse (s.descOf h x) = some d → checkFault (s.relayFaults h d) (s.relayReach h d) = none →
      bitOf (sparseGet 0 s.tags d.tag) 9 = true → exec c s = .next s)
    ∧ ∀ d p, RelayDesc.parse (s.descOf h x) = some d → checkFault (s.relayFaults h d) (s.relayReach h d) = some p →
      s.heats[h].savesWork = false → (s.heats[h].status = .running ∨ s.heats[h].status = .preempted) →
      ∃ t, exec c s = .next t ∧ FaultedBy h q.lane q.pc p t)
  ∧ (∀ (s u : State) (o : Fin 24) (f : RxFrame) (c : Instr) (op : Nat) (w : Fin 12) (crew : Fin 4) (x : HeldSegment) (r : RingHeader),
    (c = .reduceSegment o f ∧ op = 1) ∨ (c = .gatherSegment o f ∧ op = 2) ∨ (c = .permuteSegment o f ∧ op = 3)
      ∨ (c = .consensusWord o f ∧ op = 4) →
    f.ftype = 1 → bitsOf f.ext.toNat 120 4 = op → s.receive o f = (u, some w) → crew = Fin.ofNat 4 f.crew →
    x = { hdr := f.ext.toNat, payload := f.payload, sweep := w.val, origin := f.origin } → r = RingHeader.parse x.hdr →
    ((r.step < u.entry 0x3020 5 % 2 ^ 32 ∨ r.tag < u.entry (0x6100 + crew.val) 7
        ∨ u.entry (0x6100 + crew.val) 7 + u.entry (0x6100 + crew.val) 8 ≤ r.tag) →
      ∃ t, exec c s = .next t ∧ t.entry (0x6200 + crew.val) 8 = wrap64 (u.entry (0x6200 + crew.val) 8 + 1)
        ∧ t.pools = u.pools ∧ t.collectives = u.collectives ∧ t.mem = u.mem)
    ∧ (¬ (r.step < u.entry 0x3020 5 % 2 ^ 32 ∨ r.tag < u.entry (0x6100 + crew.val) 7
        ∨ u.entry (0x6100 + crew.val) 7 + u.entry (0x6100 + crew.val) 8 ≤ r.tag) →
      (∀ v : State, v = u.bump (0x6200 + crew.val) 6 (if r.op = 4 then 0 else 1) →
        ((v.collective? crew r.tag).filter fun k => k.due r) = none →
        ∃ t, exec c s = .next t ∧ t.pools[crew] = u.pools[crew] ++ [x]
          ∧ t.entry (0x6200 + crew.val) 7 = wrap64 (u.entry (0x6200 + crew.val) 7 + 1) ∧ t.mem = u.mem)
      ∧ ∀ (v : State) (k : Collective), v = u.bump (0x6200 + crew.val) 6 (if r.op = 4 then 0 else 1) →
        ((v.collective? crew r.tag).filter fun k => k.due r) = some k →
        exec c s = .next ((v.actOn k x).drain crew)))

/-- The end of a consensus lap (R364 to R366): a clean or marked bucket is finished; a spilled one is repeated at an exponent raised by
4; at the repeat limit or at exponent 127 it is finished marked. A finished collective leaves Relay: its tag is OPEN no more, it is
counted, a reduction sets `skip` and the step mark where its bucket or the step is marked, records its word with the next agreed
exponent, which its tag keeps, and writes its status word; the completion semaphore is posted (R344, R363, R367 to R370). -/
def Obligations.LapsDecideAndCollectivesComplete : Prop :=
  (∀ (s : State) (c : Fin 4) (tag : BitVec 12) (k : Collective), s.collective? c tag.toNat = some k → k.phase = .decide → k.d.op ≠ 3 →
    ((k.word.spill = false ∨ k.word.bmark = true) →
      ∃ t j, exec (.consensusLapEnd c tag) s = .next t ∧ j ∈ t.collectives ∧ j.item = k.item ∧ j.d = k.d ∧ j.phase = .finished
        ∧ j.word = k.word ∧ t.tags = s.tags ∧ EntriesKept [(0x6200 + c.val, 9)] s t ∧ SameMemory s t)
    ∧ (k.word.spill = true → k.word.bmark = false → (k.attempt = s.entry 0x6000 2 ∨ k.aexp = 127) →
      ∃ t j, exec (.consensusLapEnd c tag) s = .next t ∧ j ∈ t.collectives ∧ j.item = k.item ∧ j.d = k.d ∧ j.phase = .finished
        ∧ j.word.bmark = true ∧ t.entry (0x6200 + c.val) 4 = wrap64 (s.entry (0x6200 + c.val) 4 + 1) ∧ SameMemory s t)
    ∧ (k.word.spill = true → k.word.bmark = false → k.attempt ≠ s.entry 0x6000 2 → k.aexp ≠ 127 →
      ∃ t j, exec (.consensusLapEnd c tag) s = .next t ∧ j ∈ t.collectives ∧ j.item = k.item ∧ j.d = k.d
        ∧ j.attempt = k.attempt + 1 ∧ j.aexp = min (k.aexp + 4) 127
        ∧ t.entry (0x6200 + c.val) 2 = wrap64 (s.entry (0x6200 + c.val) 2 + 1)))
  ∧ (∀ (s : State) (c : Fin 4) (tag : BitVec 12) (k : Collective), s.collective? c tag.toNat = some k → k.phase = .finished →
    ∃ t, exec (.collectiveComplete c tag) s = .next t
      ∧ t.collectives = s.collectives.filter (fun j => !j.same k) ∧ bitOf (sparseGet 0 t.tags k.d.tag) 9 = false
      ∧ t.entry (0x6200 + c.val) 1 = wrap64 (s.entry (0x6200 + c.val) 1 + 1)
      ∧ (k.d.reduces = true → t.heats[k.item.heat].skip = (s.heats[k.item.heat].stepMark || k.word.bmark)
        ∧ t.heats[k.item.heat].stepMark = (s.heats[k.item.heat].stepMark || k.word.bmark)
        ∧ t.heats[k.item.heat].consensus = beBytes 32 ({ k.word with
            naexp := nextAgreed k.word.top k.first k.size (s.entry 0x6000 1)
            mark := s.heats[k.item.heat].stepMark || k.word.bmark } : ConsensusWord).bits
        ∧ sparseGet 0 t.tags k.d.tag
          = ofSigned 8 (nextAgreed k.word.top k.first k.size (s.entry 0x6000 1)) + 2 ^ 8 + k.item.heat.val * 2 ^ 10
        ∧ (k.item.csem = 511 → t.mem = (s.relayStatus k).mem))
      ∧ (k.item.csem < 320 → s.sem k.item.heat k.item.csem + 1 < 2 ^ 32 →
        t.sem k.item.heat k.item.csem = s.sem k.item.heat k.item.csem + 1)
      ∧ (k.d.reduces = false → k.item.csem = 511 → SameMemory s t))

/-- HBM_READ of a region that the Crew reaches, in a channel that has not FAILED (R290, R300, R330): with fewer than three mismatches
the 512 bytes of the unit, or the page of a pack region, are delivered and no memory changes; three mismatches are an integrity failure,
which stops the Crew's job. A FAILED channel delivers nothing (R332). An address that does not decode faults the Heat (R31). HBM_WRITE
stores its bytes where the Crew may write and the channels live, and faults its Heat elsewhere (R31, R290); a partial unit is merged
later, which the channel counts. -/
def Obligations.HbmIsReadAndWritten : Prop :=
  (∀ (s : State) (h : Fin 64) (l : Fin 4) (addr : BitVec 40) (launch lookup : Bool) (mism : Fin 4) (ecc lat : Nat)
    (waits : List (BitVec 12)),
    (∀ (r : Fin 64) (x : Loc) (ch : Fin 384) (dev : Nat), s.hbmSpot addr.toNat = some (r, ch, dev) →
      s.locate { s.accOf h with launch := launch } addr.toNat = some x →
      (s.channels[ch].failed = false →
        s.mismatches (s.entry (0x7300 + h.val) 5) r (addr.toNat - s.regions[r].base) mism.val < 3 →
        ∃ t, exec (.hbmRead h l addr launch lookup mism ecc waits lat) s = .next t
          ∧ t.out.getLast? = some { kind := .delivered, unit := ch.val, fields := [(addr.toNat : Int)],
                                    bytes := if s.regions[r].pack then s.readPage s.regions[r] ((addr.toNat - s.regions[r].base) / 4096)
                                      else s.cells (hbmKey ch.val (512 * (dev / 512))) 512 }
          ∧ SameMemory s t)
      ∧ (s.channels[ch].failed = false → s.channels[ch].buffer.contains (dev / 512) = false → s.regions[r].pack = false →
        lookup = false → s.mismatches (s.entry (0x7300 + h.val) 5) r (addr.toNat - s.regions[r].base) mism.val = 3 →
        s.crews[crewOf h].state = .normal →
        ∃ t, exec (.hbmRead h l addr launch lookup mism ecc waits lat) s = .next t ∧ JobStopped (crewOf h) t
          ∧ t.entry (0x4020 + ch.val / 32) 9 = wrap64 (s.entry (0x4020 + ch.val / 32) 9 + 1))
      ∧ (s.channels[ch].failed = true → exec (.hbmRead h l addr launch lookup mism ecc waits lat) s = .next s))
    ∧ ((s.hbmSpot addr.toNat = none ∨ s.locate { s.accOf h with launch := launch } addr.toNat = none) →
      (s.heats[h].status = .running ∨ s.heats[h].status = .preempted) →
      ∃ t, exec (.hbmRead h l addr launch lookup mism ecc waits lat) s = .next t ∧ FaultedBy h l (s.lane h l).pc .addr t))
  ∧ (∀ (s : State),
    (∀ (h : Fin 64) (l : Fin 4) (addr : BitVec 40) (bytes : List (BitVec 8)) (waits : List (BitVec 12)) (r : Fin 64),
      s.regionAt addr.toNat = some r →
      (s.writable (s.accOf h) addr.toNat bytes.length = true → s.delivers [{ at_ := addr.toNat, len := bytes.length }] = true →
        (∀ p ∈ Span.parts { at_ := addr.toNat, len := bytes.length }, (s.hbmSpot p.1).isSome = true) →
        ∃ t, exec (.hbmWrite h l addr bytes waits) s = .next t ∧ t.mem = (s.store (s.accOf h) addr.toNat bytes).mem
          ∧ t.heats = s.heats)
      ∧ (s.writable (s.accOf h) addr.toNat bytes.length = false →
        (s.heats[h].status = .running ∨ s.heats[h].status = .preempted) →
        ∃ t, exec (.hbmWrite h l addr bytes waits) s = .next t ∧ FaultedBy h l (s.lane h l).pc .addr t))
    ∧ ∀ (ch : Fin 384) (unit ecc : Nat) (mism : Fin 4) (p : PartialUnit), s.channels[ch].partials.find? (·.unit == unit) = some p →
      s.channels[ch].failed = false → mism.val < 3 →
      (∀ r c d, s.hbmSpot p.addr = some (r, c, d) →
        s.mismatches s.regions[r].domain r (p.addr - s.regions[r].base) mism.val < 3) →
      ∃ t, exec (.partialWriteMergeTimeout ch unit ⟨mism, ecc⟩) s = .next t ∧ (∀ p ∈ t.channels[ch].partials, p.unit ≠ unit)
        ∧ t.entry (0x4020 + ch.val / 32) 0xA = wrap64 (s.entry (0x4020 + ch.val / 32) 0xA + 1) ∧ SameMemory s t)

/-- A FILLING region becomes ACTIVE (R294). A retrain ends 320 ns after its start, and two margin failures in a row make its channel
FAILED (R327, R329); a channel that has not retrained in time retrains at a stroke edge, outside the slot, with EV-4012 (R328). A bank
is refreshed (R287). A stack's temperature enters 0x402s.02; from 85, 95 and 105 °C the refresh is halved, the commands are throttled,
and the stack trips with every channel FAILED; each is left 3 °C below its threshold (R331). -/
def Obligations.HbmIsKeptUp : Prop :=
  (∀ (s : State),
    (∀ r : Fin 64, s.regions[r].state = .filling → s.log.queues[0].waiting.length < 256 →
      ∃ t, exec (.regionFillDone r) s = .next t ∧ t.regions[r] = { s.regions[r] with state := .active }
        ∧ (∀ g, g ≠ r → t.regions[g] = s.regions[g]) ∧ RaisedLast 0 0x4041 [(r.val : Int), 2] s t ∧ SameMemory s t)
    ∧ (∀ (ch : Fin 384) (pass : Bool) (at_ : Nat), s.channels[ch].retraining = some at_ →
      ∃ t, exec (.retrainDone ch pass) s = .next t ∧ t.channels[ch].lastRetrain = (s.advanceTo (at_ + 320)).clock.now
        ∧ t.channels[ch].marginFails = (if pass then 0 else s.channels[ch].marginFails + 1)
        ∧ t.entry (0x4020 + ch.val / 32) 6 = wrap64 (s.entry (0x4020 + ch.val / 32) 6 + 1)
        ∧ (pass = false → 1 ≤ s.channels[ch].marginFails → t.channels[ch].failed = true))
    ∧ (∀ ch : Fin 384, s.channels[ch].trainable = true → s.channels[ch].retraining = none →
      s.channels[ch].lastRetrain + s.entry 0x4010 2 * 1000000 < s.clock.now →
      (s.clock.now : Int) = s.edgeTime s.clock.stroke → s.clock.slotOpen = false →
      ∃ t, exec (.forcedRetrain ch) s = .next t ∧ t.channels[ch] = { s.channels[ch] with retraining := some s.clock.now }
        ∧ (∀ g, g ≠ ch → t.channels[g] = s.channels[g])
        ∧ (s.log.queues[dieOfChannel ch].waiting.length < 256 → ∃ p, RaisedLast (dieOfChannel ch) 0x4012 p s t) ∧ SameMemory s t)
    ∧ ∀ (ch : Fin 384) (pc : Fin 2) (bank : Fin 16) (asked : Bool) (k : Fin 12), s.channels[ch].present = true → s.inReset = false →
      k.val = ch.val / 32 →
      ∃ t, exec (.bankRefresh ch pc bank asked) s = .next t
        ∧ sparseGet 0 t.hbmStacks[k].refreshed ((ch.val % 32) * 32 + pc.val * 16 + bank.val) = s.clock.now + 1
        ∧ t = { s with hbmStacks := t.hbmStacks, out := t.out })
  ∧ (∀ (s : State) (k : Fin 12) (mc : BitVec 32),
    ∃ t, exec (.stackTemperature k mc) s = .next t ∧ t.entry (0x4020 + k.val) 2 = mc.toNat
      ∧ (85000 ≤ mc.toInt → t.hbmStacks[k].halfRefresh = true) ∧ (mc.toInt ≤ 82000 → t.hbmStacks[k].halfRefresh = false)
      ∧ (95000 ≤ mc.toInt → t.hbmStacks[k].throttled = true) ∧ (mc.toInt ≤ 92000 → t.hbmStacks[k].throttled = false)
      ∧ (105000 ≤ mc.toInt → t.hbmStacks[k].tripped = true) ∧ (mc.toInt ≤ 102000 → t.hbmStacks[k].tripped = false)
      ∧ (82000 < mc.toInt → mc.toInt < 85000 → t.hbmStacks[k].halfRefresh = s.hbmStacks[k].halfRefresh)
      ∧ (92000 < mc.toInt → mc.toInt < 95000 → t.hbmStacks[k].throttled = s.hbmStacks[k].throttled)
      ∧ (102000 < mc.toInt → mc.toInt < 105000 → t.hbmStacks[k].tripped = s.hbmStacks[k].tripped)
      ∧ (105000 ≤ mc.toInt → s.hbmStacks[k].tripped = false → ∀ ch : Fin 384, ch.val / 32 = k.val → s.channels[ch].present = true →
        t.channels[ch].failed = true)
      ∧ (mc.toInt < 105000 → t.channels = s.channels ∧ t.crews = s.crews) ∧ (∀ j, j ≠ k → t.hbmStacks[j] = s.hbmStacks[j]))

/-- Training of an Oarlock (R417, R418): DOWN ends in DETECT once link training has begun; signal, and a free equalisation engine that
no other Oarlock of the die wants, bring EQUALISE; then ALIGN and IDENTIFY. Loss of signal returns to DETECT, and a state that reaches
its limit goes DOWN with one more failure. The identity of the peer (R419 to R421): it is recorded in 0x51oo.06 to .09; in IDENTIFY the
checks of Table 09-11 lead to KEYING, or to HOLD with the cause in 0x51oo.0A. An end in IDENTIFY or HOLD shows its own. -/
def Obligations.OarlocksTrainAndIdentify : Prop :=
  (∀ (s : State) (o : Fin 24) (x : Oarlock), x = s.oarlocks[o] →
    (x.state = .down → s.linkTraining = true → s.entry (0x5100 + o.val) 2 = 1 →
      ∃ t, exec (.oarlockDownWait o) s = .next t ∧ t.oarlocks[o].state = .detect ∧ t.entry (0x5100 + o.val) 1 = 1
        ∧ t.clock.now = (s.advanceTo (x.since + 2 ^ min x.fails 6 * 1000000)).clock.now
        ∧ t.entry (0x5100 + o.val) 0x16 = wrap64 (s.entry (0x5100 + o.val) 0x16 + 1)
        ∧ (∀ p, p ≠ o → t.oarlocks[p] = s.oarlocks[p]))
    ∧ (x.state = .detect → ∃ t, exec (.signalDetect o) s = .next t ∧ t.oarlocks[o].signal = true
      ∧ (t.oarlocks[o].state = .detect ∨ t.oarlocks[o].state = .equalise)
      ∧ ((∃ e, e < 6 ∧ ∀ p ∈ dieOars (dieOf 12 o.val), s.oarlocks[p].engine ≠ some e) →
        (∀ p ∈ dieOars (dieOf 12 o.val), p ≠ o → s.oarlocks[p].state ≠ .detect ∨ s.oarlocks[p].signal = false) →
        t.oarlocks[o].state = .equalise))
    ∧ (x.state = .detect ∨ x.state = .equalise → ∃ t, exec (.lossOfSignal o) s = .next t ∧ t.oarlocks[o].state = .detect
      ∧ t.oarlocks[o].signal = false ∧ t.oarlocks[o].engine = none)
    ∧ (x.state = .equalise → ∃ t, exec (.equaliseDone o) s = .next t ∧ t.oarlocks[o].state = .align
      ∧ t.entry (0x5100 + o.val) 1 = 3)
    ∧ (∀ (polarity : BitVec 8) (rev : Bool), x.state = .align → ∃ t, exec (.alignDone o polarity rev) s = .next t
      ∧ t.oarlocks[o].state = .identify ∧ t.entry (0x5100 + o.val) 1 = 4 ∧ t.entry (0x5100 + o.val) 0xC = polarity.toNat
      ∧ t.entry (0x5100 + o.val) 0xD = (if rev then 1 else 0) ∧ (∀ p, p ≠ o → t.oarlocks[p] = s.oarlocks[p]))
    ∧ ∀ limit, x.state.limit = some limit → ∃ t, exec (.trainingLimit o) s = .next t ∧ t.oarlocks[o].state = .down
      ∧ t.entry (0x5100 + o.val) 1 = 0 ∧ t.oarlocks[o].fails = x.fails + 1
      ∧ t.entry (0x5100 + o.val) 0x17 = wrap64 (s.entry (0x5100 + o.val) 0x17 + 1))
  ∧ (∀ (s : State) (o : Fin 24),
    (∀ (f : RxFrame) (p : Identity), (s.oarlocks[o].state = .identify ∨ s.oarlocks[o].state = .hold) → f.whole = true →
      f.ftype = 5 → Identity.parse f.payload = some p →
      ∃ t, exec (.identityFrame o f) s = .next t ∧ t.oarlocks[o].peer = some p ∧ t.entry (0x5100 + o.val) 6 = p.module
        ∧ t.entry (0x5100 + o.val) 7 = p.oar ∧ t.entry (0x5100 + o.val) 8 = p.proto ∧ t.entry (0x5100 + o.val) 9 = p.schema
        ∧ (s.oarlocks[o].state = .identify → t.entry (0x5100 + o.val) 0xA = s.identityCause o p
          ∧ t.oarlocks[o].state = (if s.identityCause o p = 0 then .keying else .hold)))
    ∧ ((s.oarlocks[o].state = .identify ∨ s.oarlocks[o].state = .hold) →
      ∃ t, exec (.identityFrameSend o) s = .next t
        ∧ t.clock.now = (s.advanceTo (s.oarlocks[o].lastSent + if s.oarlocks[o].state = .hold then 1000000 else 10000)).clock.now
        ∧ t.out = s.out ++ [trainOn t o (t.identityBytes o)] ∧ (t.identityBytes o).length = 64 ∧ EntriesKept [] s t))

/-- Keys of a link (R537 to R539): ENCAPS and CIPHER are kept and answered; a proof whose signature and digest pass leads to READY_WAIT,
one that fails takes the Oarlock DOWN (R423); READY admits it (R417). -/
def Obligations.LinksAreKeyedAndAdmitted : Prop :=
∀ (s : State) (o : Fin 24) (f : RxFrame) (body : List Byte) (k : KeyExchange),
    (s.oarlocks[o].state = .keying → s.oarlocks[o].key = some k →
      (f.keyBody 1 = some body → body.length = 1184 → k.peerEncaps = none →
        ∃ t k', exec (.encaps o f) s = .next t ∧ t.oarlocks[o].key = some k' ∧ k'.peerEncaps = some body
          ∧ t.oarlocks[o].state = .keying ∧ s.out.length < t.out.length)
      ∧ (f.keyBody 2 = some body → body.length = 1088 → k.peerCipher = none →
        ∃ t k', exec (.cipher o f) s = .next t ∧ t.oarlocks[o].key = some k' ∧ k'.peerCipher = some body
          ∧ t.oarlocks[o].state = .keying)
      ∧ ∀ (sigOk : Bool) (digest : List Byte) (p : Identity), f.keyBody 3 = some body → s.oarlocks[o].peer = some p →
        2 ≤ (((f.payload.getD 2 0).toNat, body) :: k.proof.filter (·.1 != (f.payload.getD 2 0).toNat)).length →
        ∃ t, exec (.proof o f sigOk digest) s = .next t
          ∧ t.oarlocks[o].state = (if sigOk = true ∧ digest = p.digest
              ∧ (((s.blob (0x8500 + o.val) 1 32).take 32).all (· == 0) = true ∨ digest = (s.blob (0x8500 + o.val) 1 32).take 32)
            then .readyWait else .down))
    ∧ (s.oarlocks[o].state = .readyWait →
      (∃ t, exec (.readySend o) s = .next t ∧ t.clock.now = (s.advanceTo (s.oarlocks[o].lastSent + 1000)).clock.now
        ∧ t.out = s.out ++ [wordOn o .ready] ∧ EntriesKept [] s t)
      ∧ ∀ w : RxWord, w.good = true → bitsOf w.bits.toNat 248 8 = 6 →
        ∃ t, exec (.ready o w) s = .next t ∧ t.oarlocks[o].state = .admitted ∧ t.oarlocks[o].fails = 0
          ∧ t.entry (0x5100 + o.val) 1 = 8)

/-- The loss of a partner (R435, R436): the Oarlock is DOWN, 0x51oo.18 counts, and the job of every Crew that has a share of its
ADMITTED Sweep stops. -/
def Obligations.LossesStopTheJobs : Prop :=
∀ (s : State) (o : Fin 24) (c : Instr), 3 ≤ s.oarlocks[o].state.code →
    ((∃ n : BitVec 3, n.toNat ≤ 2 ∧ c = .oarlockLoss o n)
      ∨ (∃ n : BitVec 3, (n.toNat = 3 ∨ n.toNat = 4) ∧ s.oarlocks[o].state = .admitted ∧ c = .oarlockLoss o n)
      ∨ (∃ at_, c = .electricalIdleTimer o at_) ∨ (∃ at_, c = .codewordLockTimer o at_) ∨ c = .noValidWordTimer o
      ∨ (∃ w : RxWord, w.good = true ∧ bitsOf w.bits.toNat 248 8 = 7 ∧ s.oarlocks[o].state = .admitted ∧ c = .notReady o w)) →
    ∃ t, exec c s = .next t ∧ t.oarlocks[o].state = .down ∧ t.entry (0x5100 + o.val) 1 = 0
      ∧ t.entry (0x5100 + o.val) 0x18 = wrap64 (s.entry (0x5100 + o.val) 0x18 + 1)
      ∧ ∀ (k : Fin 4) (w : Fin 12), s.sweepOf o = some w → s.sweeps[w].state = 2 → s.hasShare k.val w.val = true →
        s.crews[k].state = .normal → JobStopped k t

/-- Secrets of an admitted link change in place (R540, R541): the end that has sealed more frames starts at 2³⁹ and is lost at 2⁴⁰;
keys, ciphertexts and switch counters are exchanged, and once both switch counters are known a new secret is in force, with every Crew's
generation 0 and 0x85oo.04 counted. The keys of a Crew are updated to the greater of the two generations (R542); without a CREW_ACK
within 1 ms the Crew is UNKEYED, with EV-8022, and the update is repeated (R543). -/
def Obligations.LinkSecretsChange : Prop :=
∀ (s : State) (o : Fin 24), s.oarlocks[o].state = .admitted →
    (s.oarlocks[o].key = none → 2 ^ 39 ≤ max s.oarlocks[o].sealed s.oarlocks[o].opened →
      max s.oarlocks[o].sealed s.oarlocks[o].opened < 2 ^ 40 →
      (s.oarlocks[o].opened < s.oarlocks[o].sealed ∨ (s.oarlocks[o].opened = s.oarlocks[o].sealed ∧ s.endA o = true)) →
      s.dies[dieOf 12 o.val].trngBad = false →
      ∃ t k, exec (.linkRekeyStart o) s = .next t ∧ t.oarlocks[o] = { s.oarlocks[o] with key := some k } ∧ k.starter = true
        ∧ k.encaps.length = 1184
        ∧ t.out = s.out ++ [trainOn t o (keyPayload 4 0 1 (1 :: k.encaps))])
    ∧ (2 ^ 40 ≤ max s.oarlocks[o].sealed s.oarlocks[o].opened →
      ∃ t, exec (.linkRekeyStart o) s = .next t ∧ t.oarlocks[o].state = .down)
    ∧ (∀ (f : RxFrame) (ok : Bool) (body : List Byte), f.keyBody 4 = some body →
      ((body.getD 0 0).toNat = 1 → s.oarlocks[o].key = none → ∃ t k, exec (.rekey o f ok) s = .next t
        ∧ t.oarlocks[o].key = some k ∧ k.starter = false ∧ k.peerEncaps = some (body.drop 1)
        ∧ t.out = s.out ++ [trainOn t o (keyPayload 4 0 1 (1 :: k.encaps)), trainOn t o (keyPayload 4 0 1 (2 :: k.cipher))])
      ∧ (∀ k, (body.getD 0 0).toNat = 1 → s.oarlocks[o].key = some k → ∃ t j, exec (.rekey o f ok) s = .next t
        ∧ t.oarlocks[o].key = some j ∧ j.peerEncaps = some (body.drop 1))
      ∧ (∀ k, (body.getD 0 0).toNat = 2 → s.oarlocks[o].key = some k → ∃ t j, exec (.rekey o f ok) s = .next t
        ∧ t.oarlocks[o].key = some j ∧ j.peerCipher = some (body.drop 1)
        ∧ (k.starter = true → k.peerEncaps.isSome = true → j.sentSwitch = some s.oarlocks[o].txNext))
      ∧ ∀ k, (body.getD 0 0).toNat = 7 → s.oarlocks[o].key = some k → ok = true → ∃ t, exec (.rekey o f ok) s = .next t
        ∧ t.oarlocks[o].key = none ∧ t.oarlocks[o].oldSecret = s.oarlocks[o].secret ∧ t.oarlocks[o].secret.length = 32
        ∧ t.oarlocks[o].sealed = 0 ∧ t.oarlocks[o].opened = 0 ∧ (∀ c : Fin 4, t.oarlocks[o].crewKeys[c].gen = 0)
        ∧ t.entry (0x8500 + o.val) 4 = wrap64 (s.entry (0x8500 + o.val) 4 + 1) ∧ t.entry (0x8500 + o.val) 5 = 0)
    ∧ (∀ (f : RxFrame) (body : List Byte) (c : Fin 4), c = Fin.ofNat 4 (body.getD 0 0).toNat →
      (f.keyBody 5 = some body → (s.oarlocks[o].crewKeys[c].proposed = none ∨ s.endA o = false) →
        ∃ t, exec (.crewUpdate o f true) s = .next t
          ∧ t.oarlocks[o].crewKeys[c].gen = max (ofBeBytes ((body.drop 1).take 4)) (s.oarlocks[o].crewKeys[c].gen + 1)
          ∧ t.oarlocks[o].crewKeys[c].unkeyed = false ∧ t.oarlocks[o].crewKeys[c].proposed = none
          ∧ (∀ d, d ≠ c → t.oarlocks[o].crewKeys[d] = s.oarlocks[o].crewKeys[d])
          ∧ ((∀ w, s.sweepOf o = some w → s.sweeps[w].egress = []) → t.out.length = s.out.length + 1))
      ∧ (f.keyBody 6 = some body → s.oarlocks[o].crewKeys[c].proposed.isSome = true →
        ∃ t, exec (.crewAck o f true) s = .next t
          ∧ t.oarlocks[o].crewKeys[c].gen = ofBeBytes ((body.drop 1).take 4)
          ∧ t.oarlocks[o].crewKeys[c].unkeyed = false ∧ t.oarlocks[o].crewKeys[c].proposed = none
          ∧ (∀ d, d ≠ c → t.oarlocks[o].crewKeys[d] = s.oarlocks[o].crewKeys[d])
          ∧ ((∀ w, s.sweepOf o = some w → s.sweeps[w].egress = []) → t.out = s.out)))
    ∧ ∀ (c : Fin 4) (p : Nat × List Byte × Nat), s.oarlocks[o].crewKeys[c].proposed = some p →
      ∃ t r, exec (.crewUpdateTimeout o c) s = .next t ∧ t.oarlocks[o].crewKeys[c].unkeyed = true
        ∧ t.oarlocks[o].crewKeys[c].proposed = some (s.oarlocks[o].crewKeys[c].gen + 1, r, t.clock.now)
        ∧ t.clock.now = (s.advanceTo (p.2.2 + 1000000)).clock.now ∧ t.out.length = s.out.length + 1
        ∧ (s.oarlocks[o].crewKeys[c].unkeyed = false → s.log.queues[dieOf 12 o.val].waiting.length < 256 →
          RaisedLast (dieOf 12 o.val) 0x8022 [(o.val : Int), (c.val : Int)] s t)

/-- Control words (R392, R399, R404 to R409): IDLE brings the peer's status, CREDIT the cumulative counts, ACK frees the replay buffer
up to its seq, a nak has what is left resent in order, and so has the replay timeout; a frame resent as often as 0x5000.0F says takes
the Oarlock DOWN (R407). A word that fails its CRC, one of an uncorrectable codeword and one of an unlisted type are discarded and
counted. -/
def Obligations.WordsAreTaken : Prop :=
∀ (s : State) (o : Fin 24),
    (∀ w : RxWord, 3 ≤ s.oarlocks[o].state.code → w.good = true →
      (bitsOf w.bits.toNat 248 8 = 2 → ∃ t, exec (.idle o w) s = .next t
        ∧ t.oarlocks[o] = { s.oarlocks[o] with lastValid := s.clock.now, peerStatus := bitsOf w.bits.toNat 240 8,
                                               peerScrub := bitsOf w.bits.toNat 236 4 }
        ∧ (∀ p, p ≠ o → t.oarlocks[p] = s.oarlocks[p]) ∧ t = { s with oarlocks := t.oarlocks })
      ∧ (bitsOf w.bits.toNat 248 8 = 8 → ∃ t, exec (.align o w) s = .next t
        ∧ t.oarlocks[o] = { s.oarlocks[o] with lastValid := s.clock.now }
        ∧ (∀ p, p ≠ o → t.oarlocks[p] = s.oarlocks[p]) ∧ t = { s with oarlocks := t.oarlocks })
      ∧ (∀ (k : Fin 12) (i : Nat), bitsOf w.bits.toNat 248 8 = 3 → s.sweepOf o = some k → i < 4 →
        bitOf w.bits.toNat (192 - 32 * i + 31) = true →
        (∀ j, j < 4 → j ≠ i → bitOf w.bits.toNat (192 - 32 * j + 31) = true →
          bitsOf w.bits.toNat (192 - 32 * j + 26) 4 ≠ bitsOf w.bits.toNat (192 - 32 * i + 26) 4) →
        ∃ t, exec (.credit o w) s = .next t
          ∧ sparseGet 0 t.sweeps[k].peerGrant (bitsOf w.bits.toNat (192 - 32 * i + 26) 4)
            = (let old := sparseGet 0 s.sweeps[k].peerGrant (bitsOf w.bits.toNat (192 - 32 * i + 26) 4)
               let n := bitsOf w.bits.toNat (192 - 32 * i) 16
               if (n + 2 ^ 16 - old) % 2 ^ 16 < 2 ^ 15 then n else old))
      ∧ (bitsOf w.bits.toNat 248 8 = 4 → s.oarlocks[o].state = .admitted →
        (bitOf w.bits.toNat 215 = false → ∃ t new, exec (.ack o w) s = .next t
          ∧ t.oarlocks[o].replay = s.oarlocks[o].replay.filter (fun f => !ackFrees (bitsOf w.bits.toNat 216 32) f) ++ new)
        ∧ ∀ kept, kept = s.oarlocks[o].replay.filter (fun f => !ackFrees ((bitsOf w.bits.toNat 216 32 + 2 ^ 32 - 1) % 2 ^ 32) f) →
          bitOf w.bits.toNat 215 = true →
          ((∀ f ∈ kept, f.resent < s.entry 0x5000 0xF) → ∃ t rest, exec (.ack o w) s = .next t
            ∧ t.out = s.out ++ kept.map (resentOn o) ++ rest)
          ∧ ((∃ f ∈ kept, s.entry 0x5000 0xF ≤ f.resent) →
            ∃ t, exec (.ack o w) s = .next t ∧ t.oarlocks[o].state = .down)))
    ∧ (∀ (w : RxWord) (c : Instr), 3 ≤ s.oarlocks[o].state.code →
      (c = .idle o w ∨ c = .align o w ∨ c = .credit o w ∨ c = .ack o w ∨ c = .tick o w ∨ c = .ready o w ∨ c = .notReady o w) →
      (w.whole = true → w.good = false → exec c s = .next (s.bump (0x5100 + o.val) 0x14 1))
      ∧ (w.whole = false → exec c s = .next ((s.badCodeword o).bump (0x5100 + o.val) 0x14 1))
      ∧ (w.good = true → (bitsOf w.bits.toNat 248 8 = 0 ∨ 8 < bitsOf w.bits.toNat 248 8) →
        exec c s = .next ((s.onOar o fun x => { x with lastValid := s.clock.now }).bump (0x5100 + o.val) 0x14 1)))
    ∧ (3 ≤ s.oarlocks[o].state.code →
      exec (.alignSend o) s = .next { s with out := s.out ++ [wordOn o .align] })
    ∧ (s.oarlocks[o].state = .admitted → s.oarlocks[o].gap = none → s.oarlocks[o].sinceAck ≠ 0 →
      ∃ t, exec (.ackSend o) s = .next t ∧ t.clock.now = (s.advanceTo (s.oarlocks[o].lastAck + 200)).clock.now
        ∧ t.out = s.out ++ [wordOn o (.ack s.oarlocks[o].acked false s.oarlocks[o].lastTs)]
        ∧ t.oarlocks[o] = { s.oarlocks[o] with sinceAck := 0, lastAck := t.clock.now })
    ∧ (∀ at_, s.oarlocks[o].state = .admitted → s.oarlocks[o].gap = some at_ →
      ∃ t, exec (.ackSend o) s = .next t ∧ t.clock.now = (s.advanceTo (at_ + s.replayTimeout o)).clock.now
        ∧ t.out = s.out ++ [wordOn o (.ack s.oarlocks[o].rxNext true s.oarlocks[o].lastTs)]
        ∧ t.oarlocks[o].gap = some t.clock.now)
    ∧ ∀ (f : SentFrame) (rest : List SentFrame), s.oarlocks[o].replay = f :: rest →
      (∀ g ∈ f :: rest, g.resent < s.entry 0x5000 0xF) →
      ∃ t, exec (.replayTimeout o) s = .next t ∧ t.clock.now = (s.advanceTo (f.sentAt + s.replayTimeout o)).clock.now
        ∧ t.out = s.out ++ (f :: rest).map (resentOn o)
        ∧ t.oarlocks[o].replay = (f :: rest).map (fun g => { g with resent := g.resent + 1, sentAt := t.clock.now })
        ∧ t.entry (0x5100 + o.val) 0x12 = wrap64 (s.entry (0x5100 + o.val) 0x12 + (rest.length + 1))

/-- What the frames and words of the neighbours bring (R436, R437, R451, R452): a TELEM body is kept with its arrival, and its silence
is reported once; the first STOP of a job epoch stops the Crew's job, every other is counted and discarded; a TICK gives the neighbour
offset of the Sweep, by its lowest-numbered ADMITTED Oarlock. -/
def Obligations.NeighboursReport : Prop :=
∀ s : State,
    (∀ (u : State) (o : Fin 24) (f : RxFrame) (w : Fin 12), s.receive o f = (u, some w) →
      (f.ftype = 3 → ∃ t, exec (.telem o f) s = .next t ∧ (∀ n, t.blob (0x5500 + w.val) 1 n = f.payload)
        ∧ t.entry (0x5500 + w.val) 2 = u.stamp ∧ t.sweeps[w].telemAt = some u.clock.now ∧ t.sweeps[w].telemMissing = false
        ∧ EntriesKept [(0x5500 + w.val, 2)] u t ∧ SameMemory u t)
      ∧ ∀ (i : StopInfo) (c : Fin 4), i = StopInfo.parse f.payload → c = Fin.ofNat 4 i.crew → f.ftype = 4 →
        (i.epoch = u.epoch c.val → u.crews[c].stopSeen ≠ some i.epoch → u.crews[c].state = .normal →
          ∃ t, exec (.stopFrame o f) s = .next t ∧ JobStopped c t ∧ t.crews[c].stopSeen = some i.epoch
            ∧ t.entry (0x5200 + w.val) 0xC = wrap64 (u.entry (0x5200 + w.val) 0xC + 1))
        ∧ (i.epoch ≠ u.epoch c.val ∨ u.crews[c].stopSeen = some i.epoch →
          ∃ t, exec (.stopFrame o f) s = .next t ∧ t = { u with dict := t.dict }
            ∧ t.entry 0x5600 2 = wrap64 (u.entry 0x5600 2 + 1)
            ∧ t.entry (0x5200 + w.val) 0xC = wrap64 (u.entry (0x5200 + w.val) 0xC + 1)
            ∧ EntriesKept [(0x5600, 2), (0x5200 + w.val, 0xC)] u t))
    ∧ ((s.telem.last.all fun n => n + s.entry 0x5000 0x10 ≤ s.strokeAt s.clock.now) = true →
      ∃ t, exec .telemSend s = .next t ∧ t.telem = { last := some (s.strokeAt s.clock.now) }
        ∧ (∀ w : Fin 12, s.sweeps[w].state = 2 →
          s.neighbourFrame w.val 3 3 0 s.telemBody ∈ t.sweeps[w].egress
            ∨ (∃ (o : Fin 24) (key : List Byte) (seq ack hdr : Nat), s.entry (0x5100 + o.val) 3 = w.val
              ∧ hdr = (s.neighbourFrame w.val 3 3 0 s.telemBody).header seq ack
              ∧ ({ kind := .frame, unit := o.val, fields := [(hdr : Int), 0], bytes := sealFrame key seq hdr 0 s.telemBody } : Output)
                ∈ t.out))
        ∧ SameMemory s t)
    ∧ (∀ (w : Fin 12) (at_ : Nat), s.sweeps[w].telemAt = some at_ → s.sweeps[w].state = 2 → s.sweeps[w].telemMissing = false →
      ∃ t, exec (.telemetryMissing w) s = .next t ∧ t.sweeps[w].telemMissing = true
        ∧ t.clock.now = (s.advanceTo (at_ + s.entry 0x5000 0x11 * s.entry 0x5000 0x10 * s.period)).clock.now
        ∧ ∀ o, (s.sweepOars w.val).head? = some o → s.log.queues[dieOf 12 o.val].waiting.length < 256 →
          RaisedLast (dieOf 12 o.val) 0x5060 [(w.val : Int)] s t)
    ∧ ∀ (o : Fin 24) (x : RxWord) (k : Fin 12), 3 ≤ s.oarlocks[o].state.code → x.good = true → bitsOf x.bits.toNat 248 8 = 5 →
      s.sweepOf o = some k → s.entry (0x5200 + k.val) 1 ≠ 0 → s.oarlocks[o].state = .admitted →
      (∀ p : Fin 24, p < o → s.entry (0x5100 + p.val) 3 = k.val → s.oarlocks[p].state ≠ .admitted) →
      (∀ n : Int, (n = s.strokeAt s.clock.now ∨ n = s.strokeAt s.clock.now - 1) →
        bitsOf x.bits.toNat 208 40 = (n % 2 ^ 40).toNat →
        ∃ t, exec (.tick o x) s = .next t ∧ t.entry (0x2020 + k.val) 1 = ofSigned 32
          (16 * s.clock.now + s.clock.frac / 2 ^ 28 - bitsOf x.bits.toNat 192 16 - s.entry (0x5100 + o.val) 0xB
            - 16 * (s.entry 0x2000 3 + (n - s.entry 0x2000 4) * s.period)))
      ∧ (bitsOf x.bits.toNat 208 40 ≠ (s.strokeAt s.clock.now % 2 ^ 40).toNat →
        bitsOf x.bits.toNat 208 40 ≠ ((s.strokeAt s.clock.now - 1) % 2 ^ 40).toNat →
        ∃ t, exec (.tick o x) s = .next t ∧ t.entry (0x2020 + k.val) 3 = wrap64 (s.entry (0x2020 + k.val) 3 + 1)
          ∧ EntriesKept [(0x2020 + k.val, 3)] s t)

/-- Ward data (R402, R633, R634, R637): a PUT of the ward lands in its ward slot and a RESTORE_DATA in local slot 0 of the Crew that
receives; SEAL_REQ is answered once every block has landed, and the slot is COMPLETE; SEAL_REP seals the LOCAL slot, 0xD2cc.0B. A PUT
that is not accepted lands nowhere and is counted. An idle peer record is freed. -/
def Obligations.WardDataLandsAndSeals : Prop :=
∀ s : State,
    (∀ (u : State) (o : Fin 24) (f : RxFrame) (w : Fin 12) (c : Fin 4) (i addr : Nat), s.receive o f = (u, some w) → f.ftype = 2 →
      c = Fin.ofNat 4 f.crew → i = bitsOf f.ext.toNat 60 2 → addr = bitsOf f.ext.toNat 88 40 →
      (bitsOf f.ext.toNat 62 2 = 0 →
        (i < 3 → u.fromWard c f.origin = true → u.slotBase c (3 + i) ≤ addr → addr < u.slotBase c (3 + i) + u.slipSize c →
          ∃ t, exec (.wardData o f) s = .next t ∧ t.mem = (u.store (slipAcc c) addr f.payload).mem
            ∧ t.slipways[c].discarding = false ∧ ∀ k : Fin 6, k.val < 3 → t.slipways[c].slots[k] = u.slipways[c].slots[k])
        ∧ (u.fromWard c f.origin = false →
          ∃ t, exec (.wardData o f) s = .next t ∧ t.mem = u.mem ∧ t.slipways[c].slots = u.slipways[c].slots
            ∧ t.entry (0xD200 + c.val) 0x10 = wrap64 (u.entry (0xD200 + c.val) 0x10 + 1)))
      ∧ (∀ m, bitsOf f.ext.toNat 62 2 = 3 → i = 0 → u.slipways[c].op = some (.receive m) → sameModule m f.origin = true →
        u.slotBase c 0 ≤ addr → addr < u.slotBase c 0 + u.slipSize c →
        ∃ t, exec (.restoreData o f) s = .next t ∧ t.mem = (u.store (slipAcc c) addr f.payload).mem
          ∧ t.slipways[c].discarding = false ∧ ∀ k : Fin 6, k ≠ 0 → t.slipways[c].slots[k] = u.slipways[c].slots[k])
      ∧ (∀ k : Fin 6, bitsOf f.ext.toNat 62 2 = 1 → i < 3 → k.val = 3 + i → u.slipways[c].op = none → u.fromWard c f.origin = true →
        (u.slipways[c].slots[k].state = .receiving ∨ u.slipways[c].slots[k].state = .complete) →
        ofBeBytes (f.payload.take 8) = u.slipways[c].slots[k].step →
        (u.slipways[c].slots[k].size ≤ 4096 * u.slipways[c].slots[k].blocks.length →
          ∃ t, exec (.sealReq o f) s = .next t ∧ t.slipways[c].slots[k] = { u.slipways[c].slots[k] with state := .complete, asked := none })
        ∧ (4096 * u.slipways[c].slots[k].blocks.length < u.slipways[c].slots[k].size →
          ∃ t, exec (.sealReq o f) s = .next t ∧ t.slipways[c].slots[k] = { u.slipways[c].slots[k] with asked := some f.payload }))
      ∧ ∀ k : Fin 6, bitsOf f.ext.toNat 62 2 = 2 → k.val = i → i < 3 → u.slipways[c].slots[k].state = .local_ →
        u.slipways[c].slots[k].step = ofBeBytes (f.payload.take 8) → sameModule f.origin (u.buddyOf c false) = true →
        (∀ x ∈ u.slipways[c].transfers, x.restore = false) →
        ∃ t, exec (.sealRep o f) s = .next t ∧ t.slipways[c].slots[k] = { u.slipways[c].slots[k] with state := .sealed }
          ∧ (∀ j, j ≠ k → t.slipways[c].slots[j] = u.slipways[c].slots[j])
          ∧ t.entry (0xD200 + c.val) 0xB = u.slipways[c].slots[k].step ∧ t.mem = u.mem)
    ∧ (∀ (c : Fin 4) (x : Transfer), s.slipways[c].transfers.find? (fun t => !t.sealAsked) = some x →
      (∀ w : Fin 12, ∀ f ∈ s.sweeps[w].egress, ¬ (f.ftype = 2 ∧ f.crew = c.val ∧ f.origin = s.moduleId)) →
      ∃ t, exec (.wardTransferEnd c) s = .next t
        ∧ t.slipways[c].transfers = s.slipways[c].transfers.map (fun u => if u = x then { u with sealAsked := true } else u)
        ∧ t.slipways[c].slots = s.slipways[c].slots ∧ SameMemory s t
        ∧ ∀ (a : Nat) (m : Bool) (w : Fin 12), (s.route c.val x.dest).1 = some (a, m) → s.axisSweep a m = w.val →
          ∃ f : WaitFrame, f.ftype = 2 ∧ f.vc = 2 ∧ f.crew = c.val ∧ f.dest = x.dest ∧ bitsOf f.ext 62 2 = 1
            ∧ f.payload = (s.slipways[c].slots[x.slot]).sealBytes
            ∧ (f ∈ t.sweeps[w].egress
              ∨ ∃ (o : Fin 24) (key : List Byte) (seq ack hdr : Nat), s.entry (0x5100 + o.val) 3 = w.val ∧ hdr = f.header seq ack
                ∧ ({ kind := .frame, unit := o.val, fields := [(hdr : Int), (f.ext : Int)]
                     bytes := sealFrame key seq hdr f.ext f.payload } : Output) ∈ t.out))
    ∧ ∀ (origin : Nat) (crew : Fin 4) (p : PeerRecord), s.peers.find? (fun p => p.origin == origin && p.crew == crew.val) = some p →
      p.stroke + s.entry 0x5000 0x12 ≤ s.strokeAt s.clock.now → s.heldFrames = [] →
      exec (.peerRecordIdle origin crew) s = .next { s with peers := s.peers.erase p, peersFull := false }

/-- The recovery of a Crew (R637, Table 15-6): RECOVER takes a STOPPED Crew to RECOVERY and frees its segments and peer records;
RESTORE, SEND_WARD and RECEIVE start where the Crew's state and its slots allow them; CLEAR makes it NORMAL and keeps the slots; a
restore that is done takes the step number and the base seed from the slot's header. A command that is refused changes nothing. -/
def Obligations.RecoveryCommandsAct : Prop :=
∀ (s : State) (c : Fin 4) (step other : Nat), step = s.entry (0xD200 + c.val) 8 → other = s.entry (0xD200 + c.val) 9 →
    (s.crews[c].state = .stopped → s.heldFrames = [] →
      ∃ t, exec (.recover c) s = .next t ∧ t.crews[c].state = .recovery ∧ t.pools[c] = []
        ∧ t.peers = s.peers.filter (·.crew != c.val) ∧ (∀ d, d ≠ c → t.crews[d] = s.crews[d] ∧ t.pools[d] = s.pools[d]))
    ∧ (s.recoveryStatus c 2 step = 0 →
      ∃ t i, exec (.restore c) s = .next t ∧ s.slipways[c].localOf step = some i
        ∧ t.slipways[c] = { s.slipways[c] with op := some (.restore i), restore := 1 } ∧ t = { s with slipways := t.slipways })
    ∧ (s.recoveryStatus c 3 step = 0 →
      ∃ t i, exec (.sendWard c) s = .next t ∧ s.slipways[c].wardOf step = some i
        ∧ t.slipways[c] = { s.slipways[c] with op := some .sendWard, restore := 1
                                               transfers := s.slipways[c].transfers ++ [{ slot := i, dest := other, restore := true }] }
        ∧ SameMemory s t)
    ∧ (s.recoveryStatus c 4 step = 0 →
      ∃ t, exec (.receive c) s = .next t ∧ t.slipways[c].op = some (.receive other) ∧ t.slipways[c].restore = 1
        ∧ t.slipways[c].slots[(0 : Fin 6)] = {} ∧ (∀ k : Fin 6, k ≠ 0 → t.slipways[c].slots[k] = s.slipways[c].slots[k])
        ∧ t = { s with slipways := t.slipways })
    ∧ ((s.crews[c].state = .stopped ∨ s.crews[c].state = .recovery) →
      ∃ t, exec (.clear c) s = .next t ∧ t.crews[c] = { s.crews[c] with state := .normal }
        ∧ (∀ d, d ≠ c → t.crews[d] = s.crews[d]) ∧ t = { s with crews := t.crews })
    ∧ (∀ i head, s.slipways[c].op = some (.restore i) → head = s.load (slipAcc c) (s.slotBase c i.val) 32768 →
      s.log.queues[0].waiting.length < 256 →
      ∃ t, exec (.restoreDone c) s = .next t ∧ t.entry 0x3020 5 = ofLeBytes (head.take 8)
        ∧ t.entry 0x3020 3 = ofLeBytes ((head.drop 8).take 8) ∧ t.slipways[c] = { s.slipways[c] with op := none, restore := 2 }
        ∧ RaisedLast 0 0xD041 [(c.val : Int), (ofLeBytes (head.take 8) : Nat)] s t)
    ∧ ∀ (n : Nat) (x : Instr), (x = .recover c ∧ n = 1) ∨ (x = .restore c ∧ n = 2) ∨ (x = .sendWard c ∧ n = 3)
        ∨ (x = .receive c ∧ n = 4) ∨ (x = .clear c ∧ n = 5) → s.recoveryStatus c n step ≠ 0 → exec x s = .next s

/-- Module time (R446 to R449, R453, R454): an offset of the reference enters 0x2010.08 and is removed by one step above 1 µs while no
Heat is RUNNING or PREEMPTED; the first 1PPS edge after a commit of 0x2000.07 sets module time; a lost reference takes LOCKED to
HOLDOVER; 1PPS_OUT rises at each whole second; TICK_IN stamps, captures or is ignored; the best announced master is selected, and one
whose announcements stay away for the model's 6 s (log entry 73) is none. -/
def Obligations.TimeFollowsItsReference : Prop :=
∀ s : State, s.inReset = false →
    (∀ (c : Instr) (off : Int),
      (∃ (domain : BitVec 8) (source : Nat) (t1 t2 t3 t4 c1 c2 : Int), c = .ptpSync domain source t1 t2 t3 t4 c1 c2
          ∧ s.entry 0x2010 1 = 0 ∧ domain.toNat = s.entry 0x2010 3 ∧ s.master.getLast? = some source
          ∧ off = ((t2 - t1 - c1) - (t4 - t3 - c2)) / 2)
        ∨ (c = .ppsInEdge ∧ s.entry 0x2010 1 = 2 ∧ s.clock.pinBase = none
          ∧ off = ((s.clock.now + 500000000) % 1000000000 : Nat) - 500000000) →
      ∃ t, exec c s = .next t ∧ t.entry 0x2010 8 = ofSigned 32 off ∧ t.clock.offset = off
        ∧ t.entry 0x2010 0xC = wrap64 (s.entry 0x2010 0xC + 1)
        ∧ t.clock.now = (if 1000 < off.natAbs ∧ s.anyHeat = false then ((s.clock.now : Int) - off).toNat % 2 ^ 64 else s.clock.now)
        ∧ SameMemory s t)
    ∧ (∀ sec, s.entry 0x2010 1 = 2 → s.clock.pinBase = some sec →
      ∃ t, exec .ppsInEdge s = .next t ∧ t.clock.now = sec * 1000000000 % 2 ^ 64 ∧ t.clock.pinBase = none)
    ∧ (∀ (domain : BitVec 8) (p1 class_ acc var p2 gm steps source : Nat), s.entry 0x2010 1 = 0 → domain.toNat = s.entry 0x2010 3 →
      (s.master = [] ∨ s.master.getLast? = some source
        ∨ betterSet [p1, class_, acc, var, p2, gm, steps, source] s.master = true) →
      exec (.ptpAnnounce domain p1 class_ acc var p2 gm steps source) s
        = .next { s with clock := { s.clock with master := [p1, class_, acc, var, p2, gm, steps, source], masterAt := s.clock.now } })
    ∧ (s.log.queues[0].waiting.length < 256 → s.entry 0x2010 0xB = 1 →
      ∃ t, exec .tickInEdge s = .next t ∧ RaisedLast 0 0x2040 [(s.stamp : Int)] s t ∧ t = { s with log := t.log })
    ∧ (s.entry 0x2010 0xB = 2 → s.entry 0xA000 0xA = 1 →
      ∃ t, exec .tickInEdge s = .next t ∧ t.capture = s.ergs.toList.map (fun e => (s.stamp, e)))
    ∧ (s.entry 0x2010 0xB ≠ 1 → s.entry 0x2010 0xB ≠ 2 → exec .tickInEdge s = .next s)
    ∧ (s.clock.state = .locked → s.log.queues[0].waiting.length < 256 →
      ∃ t, exec .referenceLossTimeout s = .next t ∧ t.clock.state = .holdover ∧ t.clock.adjust = s.clock.estimate
        ∧ t.clock.now = (s.advanceTo (s.clock.lastSample + s.entry 0x2010 6 * 1000000)).clock.now
        ∧ t.entry 0x2010 9 = ofSigned 32 s.clock.estimate
        ∧ RaisedLast 0 0x2001 [(TimeState.locked.code : Int), (TimeState.holdover.code : Int), s.clock.offset] s t)
    ∧ (40000000 ≤ s.clock.now → s.clock.now % 1000000000 ≠ 0 →
      ∃ t, exec .ppsOutSecond s = .next t ∧ t.clock.now = (s.clock.now / 1000000000 + 1) * 1000000000 % 2 ^ 64
        ∧ t.out = s.out ++ [{ kind := .pin, unit := 0, fields := [1, 100000000] }] ∧ t = { s with clock := t.clock, out := t.out })
    ∧ (40000000 ≤ s.clock.now → s.clock.now % 1000000000 = 0 → s.clock.ppsHigh ≠ some s.clock.now →
      ∃ t, exec .ppsOutSecond s = .next t ∧ t.clock = { s.clock with ppsHigh := some s.clock.now }
        ∧ t.out = s.out ++ [{ kind := .pin, unit := 0, fields := [1, 100000000] }])

/-- The Logbook (R465 to R470): a die inserts its oldest waiting event as the next entry, 10 ns after the one before; after a loss the
next entry is EV-A001. A mirror datagram carries at most 22 entries under its header. Erg (R473, R474): a window that is complete is
copied and cleared; a snapshot copies the live values of every monitor with one timestamp. -/
def Obligations.EventsAreRecordedAndCaptured : Prop :=
  (∀ s : State,
    (∀ (d : Fin 2) (e : Event) (now : Nat), now = (match s.log.queues[d].lastInsert with
        | some at_ => (s.advanceTo (at_ + 10)).clock.now
        | none => s.clock.now) →
      (s.log.queues[d].lost = 0 ∧ s.log.queues[d].waiting.head? = some e)
        ∨ (0 < s.log.queues[d].lost
          ∧ e = { ts := s.stampAt now, code := 0xA001, payload := [s.log.queues[d].lost, s.log.queues[d].firstLost] }) →
      ∃ t, exec (.eventRecord d) s = .next t ∧ t.log.next = s.log.next + 1 ∧ t.entry 0xA000 2 = s.log.next + 1
        ∧ (0 < s.logCapacity → t.log.held.getLast? = some (s.log.next, e))
        ∧ t.log.queues[d].lost = 0
        ∧ t.log.queues[d].waiting = (if s.log.queues[d].lost = 0 then s.log.queues[d].waiting.tail else s.log.queues[d].waiting)
        ∧ t.log.queues[d].lastInsert = some t.clock.now ∧ (∀ c, c ≠ d → t.log.queues[c] = s.log.queues[c])
        ∧ t.clock.now = now)
    ∧ ∀ (p : Nat × Event) (rest : List (Nat × Event)), s.log.mirror = p :: rest →
      ∃ t, exec .mirrorDatagram s = .next t ∧ t.log.mirror = s.log.mirror.drop 22
        ∧ t.clock.now = (if s.log.mirror.length < 22 then (s.advanceTo (s.log.mirrorSince + 100000)).clock.now else s.clock.now)
        ∧ t.out = s.out ++ [{ kind := .mirror, fields := [(s.entry 0xA000 5 : Int), (s.entry 0xA000 6 : Int)]
                              bytes := beBytes 4 0x4B4C4F47 ++ beBytes 3 s.moduleId ++ beBytes 1 (s.log.mirror.take 22).length
                                ++ beBytes 8 p.1 ++ (s.log.mirror.take 22).flatMap fun q => q.2.wire q.1 }]
        ∧ EntriesKept [] s t)
  ∧ (∀ s : State,
    (∀ m : Fin 64, s.entry (0xA100 + m.val) 6 ≤ s.ergs[m].strokes →
      ∃ t, exec (.ergWindowClose m) s = .next t ∧ t.ergs[m].lastMin = s.ergs[m].min ∧ t.ergs[m].lastMax = s.ergs[m].max
        ∧ t.ergs[m].lastCount = s.ergs[m].count ∧ t.ergs[m].lastSum = s.ergs[m].sum ∧ t.ergs[m].lastBins = s.ergs[m].bins
        ∧ t.ergs[m].lastClose = s.stamp ∧ t.ergs[m].count = 0 ∧ t.ergs[m].sum = 0 ∧ t.ergs[m].bins = [] ∧ t.ergs[m].strokes = 0
        ∧ (∀ k, k ≠ m → t.ergs[k] = s.ergs[k]) ∧ t = { s with ergs := t.ergs })
    ∧ (s.entry 0xA000 0xA = 1 → ∃ t, exec .ergSnapshot s = .next t ∧ t.capture = s.ergs.toList.map (fun e => (s.stamp, e))
      ∧ t.sigDump = [] ∧ t.out = (if s.entry 0x2010 0xA = 2 then s.out ++ [{ kind := .pin, unit := 1, fields := [1, 1000] }] else s.out)
      ∧ t = { s with capture := t.capture, sigDump := t.sigDump, out := t.out }))

/-- The Pacer's power (R551, R558 to R562): P is the greater of estimate and measurement; above the cap less the guard band every
enabled Blade steps down by 100 MHz, to no less than 1,000 MHz, and the Pacer is CAPPED; 10 ms above the cap at the lowest clock stop
every job; ten averages that disagree bring HOLD, a thousand that agree end it. -/
def Obligations.PacerLimitsPower : Prop :=
∀ s : State,
    (∀ (e0 e1 e2 e3 rest m : Nat), s.inReset = false → m = (s.mappedRails.map (s.railPower [e0, e1, e2, e3])).sum →
      ∃ t, exec (.pacerEval e0 e1 e2 e3 rest) s = .next t
        ∧ t.pacer.window = s.pacer.window ++ [max (e0 + e1 + e2 + e3 + rest) m]
        ∧ (s.pacer.msCount + 1 ≠ 1000 → t.pacer.msCount = s.pacer.msCount + 1 ∧ t = { s with pacer := t.pacer })
        ∧ (s.pacer.msCount + 1 = 1000 → t.pacer.msCount = 0 ∧ t.entry 0x9000 2 = (s.pacer.msMeas + m) / 1000 / 1000
          ∧ t.entry 0x9000 3 = (s.pacer.msEst + (e0 + e1 + e2 + e3 + rest)) / 1000 / 1000))
    ∧ (∀ avg, 10 ≤ s.pacer.window.length → avg = (s.pacer.window.drop (s.pacer.window.length - 10)).sum / 10 →
      ∃ t, exec .powerCapStep s = .next t ∧ t.pacer.window = [] ∧ t.entry 0x9000 5 = t.pacerState ∧ SameMemory s t
        ∧ (s.effectiveCap < avg → t.pacer.capped = true ∧ t.entry 0x9000 0x13 = wrap64 (s.entry 0x9000 0x13 + 1)
          ∧ ∀ n ∈ s.enabledBlades, t.mhz n = min (s.mhz n) (max 1000 (s.mhz n - 100)))
        ∧ (avg ≤ s.effectiveCap → avg + 100000 ≤ s.effectiveCap → t.pacer.capped = s.pacer.capped ∧ ∀ n, t.mhz n = s.mhz n)
        ∧ (avg ≤ s.effectiveCap → s.effectiveCap < avg + 100000 →
          ∀ n ∈ s.enabledBlades, t.mhz n = min (s.mhz n) (max 3300 (s.mhz n - 25))))
    ∧ (∀ at_, s.pacer.floorSince = some at_ →
      ∃ t, exec .capFloorTimeout s = .next t ∧ t.pacer.floorSince = none ∧ t.clock.now = (s.advanceTo (at_ + 10000000)).clock.now
        ∧ (∀ c : Fin 4, s.crews[c].state = .normal → JobStopped c t)
        ∧ (s.log.queues[0].waiting.length < 256 → ∃ e ∈ t.log.queues[0].waiting, e.code = 0x9004))
    ∧ (s.pacer.hold = false → 10 ≤ s.pacer.apart →
      ∃ t, exec .disagreementTimeout s = .next t ∧ t.pacer.hold = true ∧ t.entry 0x9000 4 = 80 ∧ t.entry 0x9000 5 = 2
        ∧ t.entry 0x9000 0x14 = wrap64 (s.entry 0x9000 0x14 + 1) ∧ (∀ n : Fin 4, t.pacer.blades[n].rising = none)
        ∧ ∀ n ∈ s.enabledBlades, t.mhz n = min (s.mhz n) s.pacer.blades[n].agreed)
    ∧ (s.pacer.hold = true → 1000 ≤ s.pacer.agree →
      ∃ t, exec .holdEnd s = .next t ∧ t.pacer.hold = false ∧ t.entry 0x9000 4 = 0 ∧ t.entry 0x9000 5 = t.pacerState
        ∧ (∀ n, t.mhz n = s.mhz n) ∧ (s.log.queues[0].waiting.length < 256 → RaisedLast 0 0x9012 [] s t))
    ∧ ∀ (n : Fin 4) (f : Nat), s.pacer.blades[n].rising = some f →
      ∃ t, exec (.railSettled n) s = .next t ∧ t.mhz n = f ∧ t.pacer.blades[n] = { s.pacer.blades[n] with rising := none }
        ∧ EntriesKept [(0x9100 + n.val, 2)] s t ∧ t = { s with dict := t.dict, pacer := t.pacer }

/-- Temperature, regulators and droop (R563 to R569): step-down starts at 100 °C and ends below 97 °C; it takes 100 MHz every 100 µs
down to 1,000 MHz; the third failed transaction in a row sets the Blade to 1,000 MHz with EV-9030, of another rail it raises EV-9031; a
droop trip stretches the clocks of its die until its end. -/
def Obligations.TemperatureAndRailsAct : Prop :=
∀ s : State, s.inReset = false →
    (∀ (d : Fin 2) (x : Fin 32) (mc : BitVec 32),
      ∃ t, exec (.junctionTemperature d x mc) s = .next t
        ∧ sparseGet 0 t.pacer.sensors (32 * d.val + x.val) = mc.toInt
        ∧ t.entry (0x9120 + d.val) 1 = ofSigned 32 (t.pacer.hottest d 0 32)
        ∧ (∀ n : Fin 4, dieOf 2 n.val = d → t.entry (0x9100 + n.val) 6 = ofSigned 32 (t.pacer.bladeTemp n)
          ∧ t.pacer.blades[n].thermal = (decide (100000 ≤ t.pacer.bladeTemp n)
              || (s.pacer.blades[n].thermal && decide (97000 ≤ t.pacer.bladeTemp n))))
        ∧ t.pacer.dieThermal[d] = (decide (100000 ≤ t.pacer.coreTemp d) || (s.pacer.dieThermal[d] && decide (97000 ≤ t.pacer.coreTemp d)))
        ∧ t.entry 0x9000 5 = t.pacerState ∧ SameMemory s t)
    ∧ (∀ n : Fin 4, bitOf s.bladeMap n.val = true → (100000 ≤ s.pacer.bladeTemp n ∨ 100000 ≤ s.pacer.coreTemp (dieOf 2 n.val)) →
      ∃ t, exec (.thermalStepDown n) s = .next t ∧ t.mhz n = min (s.mhz n) (max 1000 (s.mhz n - 100))
        ∧ t.clock.now = (s.advanceTo (s.pacer.blades[n].stepAt + 100000)).clock.now ∧ t.pacer.blades[n].stepAt = t.clock.now
        ∧ t.entry (0x9100 + n.val) 0xA = wrap64 (s.entry (0x9100 + n.val) 0xA + 1)
        ∧ EntriesKept [(0x9100 + n.val, 2), (0x9100 + n.val, 0xA)] s t)
    ∧ (∀ (r : Fin 10) (mv ma mw : Nat),
      (∃ t, exec (.railRead r true mv ma mw) s = .next t ∧ t.pacer.rails[r].mv = mv ∧ t.pacer.rails[r].fails = 0
        ∧ t.pacer.rails[r].mw = (if r.val < 4 then mv * ma / 1000 else mw)
        ∧ (r.val < 4 → t.entry (0x9100 + r.val) 4 = mv) ∧ (∀ q, q ≠ r → t.pacer.rails[q] = s.pacer.rails[q]))
      ∧ (s.pacer.rails[r].fails ≠ 2 →
        ∃ t, exec (.railRead r false mv ma mw) s = .next t
          ∧ t.pacer.rails[r] = { s.pacer.rails[r] with fails := s.pacer.rails[r].fails + 1, goodSince := none }
          ∧ t = { s with pacer := t.pacer })
      ∧ (s.pacer.rails[r].fails = 2 → s.log.queues[0].waiting.length < 256 →
        ∃ t, exec (.railRead r false mv ma mw) s = .next t ∧ t.pacer.rails[r].down = true ∧ t.pacer.rails[r].fails = 3
          ∧ RaisedLast 0 (if r.val < 4 then 0x9030 else 0x9031) [(r.val : Int)] s t
          ∧ ∀ n : Fin 4, t.mhz n = if n.val = r.val then min (s.mhz n) 1000 else s.mhz n))
    ∧ (∀ (d : Fin 2) (rail : Fin 3), (s.dies[d]).stretch = none →
      ∃ t, exec (.droopTrip d rail) s = .next t ∧ (t.dies[d]).stretch = some s.clock.now
        ∧ (∀ u : Fin 36, (t.seat[u]).run.isSome = (s.seat[u]).run.isSome)
        ∧ (rail.val < 2 → t.entry (0x9100 + 2 * d.val + rail.val) 7 = wrap64 (s.entry (0x9100 + 2 * d.val + rail.val) 7 + 1))
        ∧ (rail = 2 → t.entry (0x9120 + d.val) 2 = wrap64 (s.entry (0x9120 + d.val) 2 + 1)))
    ∧ ∀ (d : Fin 2) (cycles : Nat), (s.dies[d]).stretch.isSome = true → 256 ≤ cycles →
      ∃ t, exec (.stretchEnd d cycles) s = .next t ∧ (t.dies[d]).stretch = none ∧ (∀ e, e ≠ d → t.dies[e] = s.dies[e])
        ∧ EntriesKept [(0x9100 + 2 * d.val, 8), (0x9100 + 2 * d.val + 1, 8)] s t ∧ t = { s with dies := t.dies, dict := t.dict }

/-- Boot (R512 to R514): the boot ROM that rebuilds the device secret and verifies CAL and STAGE1 brings STAGE1, erases the secret, and
enables every Blade but the one that the CAL image disables; a device secret that cannot be rebuilt, or no image of one of them, is
recovery mode; COXFW brings RUNNING, and the Blades of a module with PACERFW stand at 3,300 MHz; the slots that boot did not verify are
verified in the background. -/
def Obligations.BootVerifiesItsImages : Prop :=
∀ (s : State) (codes : List (BitVec 3)), s.inReset = false →
    (s.boot = .rom → ∀ disabled : Option (Fin 4),
      disabled = Config.disabledBlade ((s.parts[(4 : Fin 9)]).slots[(s.parts[(4 : Fin 9)]).preferred]).body →
      ∀ stage1 cal : BitVec 3 × BitVec 3, codes = stage1Codes stage1 cal →
      (∃ t, exec (.stage1Start false stage1 cal) s = .next t ∧ t.boot = .failed ∧ t.bladeMap = 0 ∧ t.entry 0xD000 1 = 3 ∧ t.keys = {})
      ∧ ((∀ c : Fin 9, (c = 4 ∨ c = 1) → (s.parts[c]).slots[(s.parts[c]).preferred].image ≠ []
            ∧ s.imageCheck c.val (s.parts[c]).slots[(s.parts[c]).preferred] (bootCode codes c.val (s.parts[c]).preferred) true = 0) →
        ∃ t, exec (.stage1Start true stage1 cal) s = .next t ∧ t.boot = .stage1 ∧ t.keys.deviceSecret = none
          ∧ (t.parts[(4 : Fin 9)]).running = some (s.parts[(4 : Fin 9)]).preferred
          ∧ (t.parts[(1 : Fin 9)]).running = some (s.parts[(1 : Fin 9)]).preferred
          ∧ t.pacer.cal = ((s.parts[(4 : Fin 9)]).slots[(s.parts[(4 : Fin 9)]).preferred]).body
          ∧ (∀ n : Fin 4, bitOf t.bladeMap n.val = decide (disabled ≠ some n))
          ∧ ∀ ch : Fin 384, (t.channels[ch]).present = decide (∀ d, disabled = some d → d.val ≠ ch.val / 96))
      ∧ (∀ c : Fin 9, (c = 4 ∨ c = 1) → (∀ i : Fin 2, (s.parts[c]).slots[i].image = []) →
        ∃ t, exec (.stage1Start true stage1 cal) s = .next t ∧ t.boot = .recovery ∧ t.bladeMap = 0 ∧ t.entry 0xD000 1 = 3))
    ∧ (s.boot = .stage1 →
      (∀ u i, u = s.bootPart codes 7 → i = (s.parts[(2 : Fin 9)]).preferred → (s.parts[(2 : Fin 9)]).slots[i].image ≠ [] →
        u.imageCheck 2 (s.parts[(2 : Fin 9)]).slots[i] (bootCode codes 2 i) true = 0 →
        ∃ t, exec (.bootRunning codes) s = .next t ∧ t.boot = .running ∧ (t.parts[(2 : Fin 9)]).running = some i
          ∧ t.power.tripRecord = false
          ∧ ((t.parts[(3 : Fin 9)]).running.isSome = true → ∀ n ∈ s.enabledBlades, t.mhz n = 3300 ∧ t.entry (0x9100 + n.val) 3 = 3300)
          ∧ (t.power.incomplete = false ↔ ∀ c : Fin 9, (c = 3 ∨ c = 5 ∨ c = 6) → (t.parts[c]).running.isSome = true))
      ∧ ((∀ i : Fin 2, (s.parts[(2 : Fin 9)]).slots[i].image = []) →
        ∃ t, exec (.bootRunning codes) s = .next t ∧ t.boot = .recovery ∧ t.bladeMap = 0 ∧ t.entry 0xD000 1 = 3))
    ∧ (s.boot = .running → s.power.bootSlots = false →
      ∃ t, exec (.backgroundVerifyDone codes) s = .next t ∧ t.power.bootSlots = true
        ∧ ∀ (c : Fin 9) (i : Fin 2), 1 ≤ c.val → c.val ≤ 7 → (s.parts[c]).running = some (s.parts[c]).preferred →
          i = otherSlot (s.parts[c]).preferred → (s.parts[c]).slots[i].image ≠ [] →
          ((t.parts[c]).slots[i].state = .valid ↔ s.imageCheck c.val (s.parts[c]).slots[i] (bootCode codes c.val i) true = 0))

/-- The timeline of power-up (R606, R622 to R626): phase 1 at 100 ms once boot has ended, phase 2 at 150 ms, when the module is BRINGUP,
or DEGRADED where an image is missing, the mailbox 150 ms after PERST_N rose, link training at 300 ms, READY when the conditions of R625
hold. -/
def Obligations.PowerUpFollowsItsTimeline : Prop :=
∀ s : State, s.inReset = false →
    (s.xefin.phase = 0 → s.boot ≠ .rom → s.boot ≠ .stage1 →
      ∃ t, exec .xefinPhase1 s = .next t ∧ t.xefin.phase = 1 ∧ t.clock.now = (s.advanceTo 100000000).clock.now
        ∧ ((s.dies[(0 : Fin 2)]).trngBad = false → (s.blobs.all fun b => b.1 != entryKey 0xC010 1) = true →
          ∀ n, (t.blob 0xC010 1 n).length = 1184)
        ∧ t = { s with clock := t.clock, xefin := t.xefin, blobs := t.blobs, draws := t.draws, keys := t.keys })
    ∧ (∀ failed : BitVec 36, s.xefin.phase = 1 → s.recovering = false →
      ∃ t, exec (.xefinPhase2 failed) s = .next t ∧ t.xefin.phase = 2 ∧ t.clock.now = (s.advanceTo 150000000).clock.now
        ∧ t.entry 0xD000 1 = (if s.power.incomplete then 4 else 1)
        ∧ ∀ u : Fin 36, (t.seat[u]).doneAt = 140000000
          ∧ (failed.getLsbD u.val = true → (∀ n, seatBlade u = some n → bitOf s.bladeMap n.val = true) → (t.seat[u]).suspect = true)
          ∧ (failed.getLsbD u.val = false → (t.seat[u]).suspect = (s.seat[u]).suspect))
    ∧ (∀ passed : BitVec 384, s.xefin.phase = 2 → s.power.hbmTrained = false → s.recovering = false →
      ∃ t, exec (.hbmTrainingEnd passed) s = .next t ∧ t.power.hbmTrained = true
        ∧ (∀ ch : Fin 384, (t.channels[ch]).healthy = (passed.getLsbD ch.val && bitOf s.bladeMap (ch.val / 96)))
        ∧ (∀ k : Fin 12, (t.hbmStacks[k]).ready = bitOf s.bladeMap (k.val / 3))
        ∧ (∀ ch : Fin 384, bitOf s.bladeMap (ch.val / 96) = true →
          ({ kind := .hbmCommand, unit := ch.val, fields := [2] } : Output) ∈ t.out)
        ∧ t = { s with power := t.power, channels := t.channels, hbmStacks := t.hbmStacks, out := t.out })
    ∧ (s.linkTraining = false → s.boot = .running →
      ∃ t, exec .linkTrainingBegin s = .next t ∧ t.linkTraining = true ∧ t.clock.now = (s.advanceTo 300000000).clock.now
        ∧ t = { s with clock := t.clock, linkTraining := t.linkTraining })
    ∧ (s.entry 0xD000 1 = 1 → s.readyNow = true → s.log.queues[0].waiting.length < 256 →
      ∃ t, exec .moduleReady s = .next t ∧ t.entry 0xD000 1 = 2 ∧ t.entry 0xD000 4 = s.clock.now / 1000 % 2 ^ 32
        ∧ RaisedLast 0 0xD020 [1, 2] s t ∧ EntriesKept [(0xD000, 1), (0xD000, 4)] s t ∧ t = { s with dict := t.dict, log := t.log })
    ∧ (s.power.perstLow = false → s.power.mailboxOpen = false →
      ∃ t, exec .mailboxOpen s = .next t ∧ t.power = { s.power with mailboxOpen := true }
        ∧ t.clock.now = (s.advanceTo (s.power.perstRose + 150000000)).clock.now ∧ t = { s with power := t.power, clock := t.clock })

/-- A reset of the whole module (R617, R618) and a thermal trip (R564) keep the flash alone: the images, the slot selection, the
rollback counters and the attestation counter; everything else stands as after power-up. The pins (R504, R617 to R619, R622, R659 to
R661): at the later rise of PWR_OK and SYS_RST_N the timeline starts and the boot ROM rebuilds the device secret; PERST_N closes the
mailbox and starts it anew; boundary scan drives pins only while SYS_RST_N is low and PWR_OK is high. Short pulses do nothing. -/
def Obligations.ResetsAndPinsAct : Prop :=
  (∀ (s : State) (c : Instr) (cause : Nat),
    (∃ ns, c = .pwrOk true ns ∧ 100 ≤ ns ∧ s.power.pwrOkLow = false ∧ cause = 1)
      ∨ (∃ ns, c = .sysRstN true ns ∧ 1000 ≤ ns ∧ s.power.sysRstLow = false ∧ s.power.tripped = false ∧ s.power.pwrOkLow = false ∧ cause = 2)
      ∨ (c = .reset ∧ s.power.resetAt.isSome = true ∧ s.inReset = false ∧ cause = 3)
      ∨ (∃ mc : BitVec 32, c = .thermalTrip mc ∧ 115000 ≤ mc.toInt ∧ s.inReset = false ∧ cause = s.entry 0xD000 3) →
    ∃ t, exec c s = .next t ∧ t.mem = [] ∧ t.entry 0xD000 3 = cause ∧ EntriesKept [(0xD000, 3)] State.reset t
      ∧ t.heats = State.reset.heats ∧ t.crews = State.reset.crews ∧ t.log = State.reset.log ∧ t.oarlocks = State.reset.oarlocks
      ∧ t.signer.blocks = s.signer.blocks ∧ t.pending = s.pending
      ∧ (∀ k : Fin 9, (t.parts[k]).slots = (s.parts[k]).slots ∧ (t.parts[k]).preferred = (s.parts[k]).preferred
        ∧ (t.parts[k]).rollback = (s.parts[k]).rollback ∧ (t.parts[k]).running = none ∧ (t.parts[k]).state = .idle)
      ∧ (t.power.tripped = true ↔ ∃ mc, c = .thermalTrip mc))
  ∧ (∀ s : State,
    (∀ ns, s.power.pwrOkLow = true → s.power.sysRstLow = false →
      ∃ t, exec (.pwrOk false ns) s = .next t ∧ t.power.pwrOkLow = false ∧ t.clock = {} ∧ t.keys = s.readPuf.keys
        ∧ t = { s with power := t.power, clock := t.clock, keys := t.keys })
    ∧ (∀ ns, s.power.sysRstLow = true → s.power.pwrOkLow = false → s.power.tripped = false →
      ∃ t, exec (.sysRstN false ns) s = .next t ∧ t.power.sysRstLow = false ∧ t.clock = {} ∧ t.keys = s.readPuf.keys
        ∧ t = { s with power := t.power, clock := t.clock, keys := t.keys })
    ∧ (∀ ns, ns < 100 → exec (.pwrOk true ns) s = .next s) ∧ (∀ ns, ns < 1000 → exec (.sysRstN true ns) s = .next s)
    ∧ (s.inReset = false → ∃ t, exec (.perstN true) s = .next t ∧ t.power = { s.power with perstLow := true, mailboxOpen := false }
      ∧ t.xefin.mailbox = { id := 0xFFFFFFFF, port := .mailbox } ∧ t.xefin.sessions = s.xefin.sessions
      ∧ t.xefin.staged = s.xefin.staged ∧ (∀ a ∈ t.xefin.assemblies, a.port ≠ .mailbox) ∧ t = { s with power := t.power, xefin := t.xefin })
    ∧ (s.inReset = false → exec (.perstN false) s
      = .next { s with power := { s.power with perstLow := false, perstRose := s.clock.now } })
    ∧ (∀ cells : BitVec 430, exec (.boundaryScan .samplePreload cells) s
      = .next { s with power := { s.power with tap := .samplePreload, scanCells := cells } })
    ∧ ∀ (i : JtagInstr) (cells : BitVec 430), onlyInReset i = true →
      (s.power.pwrOkLow = false → s.power.sysRstLow = true → ∃ t, exec (.boundaryScan i cells) s = .next t ∧ t.power.tap = i
        ∧ t.out = s.out ++ [{ kind := .pin, unit := 4, fields := [s.power.scanCells.toNat] }])
      ∧ (s.power.sysRstLow = false → ∃ t, exec (.boundaryScan i cells) s = .next t ∧ t.power.tap = .bypass ∧ t.out = s.out))

/-- Seat test (R573 to R579): a slice that a droop met is repeated; a signature that matches advances the campaign, whose last slice
ends it; one that does not marks the unit SUSPECT, with EV-B010, and stops the job of its Crew. A Blade rotates out with its campaign
from the first slice, its state cleared; RETURN brings it back after the slice in progress. -/
def Obligations.UnitsAreSeatTested : Prop :=
∀ s : State,
    (∀ (u : Fin 36) (sig : BitVec 64) (dropped : Bool), (s.seat[u]).run = some dropped →
      ∃ e, exec (.seatSliceEnd u sig) s = .next (e.afterSlice u)
        ∧ (dropped = true → (e.seat[u]).next = (s.seat[u]).next ∧ e.entry 0xB000 7 = wrap64 (s.entry 0xB000 7 + 1))
        ∧ (dropped = false → e.entry 0xB000 6 = wrap64 (s.entry 0xB000 6 + 1)
          ∧ (sig = Config.expectedSignature s.pacer.cal u.val (s.seat[u]).next → (s.seat[u]).next + 1 < campaign u →
            (e.seat[u]).next = (s.seat[u]).next + 1)
          ∧ (sig = Config.expectedSignature s.pacer.cal u.val (s.seat[u]).next → campaign u ≤ (s.seat[u]).next + 1 →
            (e.seat[u]).next = 0 ∧ (e.seat[u]).doneAt = s.clock.now ∧ e.entry 0xB000 0xB = wrap64 (s.entry 0xB000 0xB + 1)
            ∧ ∀ n, seatBlade u = some n → e.blades[n].seatTest = false)
          ∧ (sig ≠ Config.expectedSignature s.pacer.cal u.val (s.seat[u]).next →
            (e.seat[u]).suspect = true ∧ e.entry 0xB000 9 = wrap64 (s.entry 0xB000 9 + 1)
            ∧ ∀ c, s.holder (seatKind u).1 (seatKind u).2 = some c → s.crews[c].state = .normal → JobStopped c e)))
    ∧ (∀ (n : Fin 4) (c : Instr), bitOf s.bladeMap n.val = true → s.bladeInUse n = false → s.blades[n].seatTest = false →
      (c = .rotateOut n ∨ (c = .automaticRotation n ∧ s.entry 0xB000 3 = 1 ∧ ∀ m : Fin 4, s.blades[m].seatTest = false)) →
      ∃ t, exec c s = .next t ∧ t.blades[n].seatTest = true ∧ t.blades[n].active = {} ∧ t.blades[n].shadow = {}
        ∧ (∀ i : Fin 4, t.blades[n].slots[i] = {})
        ∧ t.mhz n = min (s.mhz n) 3300 ∧ (t.seat[bladeUnit n]).next = 0 ∧ (t.seat[bladeUnit n]).run = some false
        ∧ (∀ k, finishKey n.val 0 ≤ k → k < finishKey n.val (2 ^ 22) → t.cell k = 0)
        ∧ (∀ k, (k < finishKey n.val 0 ∨ finishKey n.val (2 ^ 22) ≤ k) → t.cell k = s.cell k)
        ∧ (∀ m, m ≠ n → t.blades[m] = s.blades[m])
        ∧ (c = .automaticRotation n →
          t.clock.now = (s.advanceTo ((s.seat[bladeUnit n]).doneAt + s.entry 0xB000 4 * 1000000000)).clock.now))
    ∧ (∀ n : Fin 4, s.bladeInUse n = true → exec (.rotateOut n) s = .next s)
    ∧ ∀ n : Fin 4, s.blades[n].seatTest = true →
      ∃ t, exec (.seatReturn n) s = .next t ∧ t = { s with seat := t.seat, blades := t.blades }
        ∧ (s.slicing (bladeUnit n) = true → (t.seat[bladeUnit n]).returning = true ∧ t.blades = s.blades)
        ∧ (s.slicing (bladeUnit n) = false → t.blades[n].seatTest = false)

/-- The keys of a Crew (R505, R529 to R536): ROTATE makes E + 1 the current epoch and E the previous one; the pass that has rewritten
the pages leaves none of the previous epoch; an UNSEAL writes its segments in turn until DONE, or FAILED at a tag that fails; a segment
whose destination may not be written stops it too, and one bound for a FAILED channel is not delivered; a die whose TRNG fails its
health test draws no keys, and the module root that power-up could not draw comes when the last die recovers. -/
def Obligations.EpochsAndWeightKeysAct : Prop :=
∀ (s : State) (c : Fin 4),
    (∀ e, e = s.entry (0x8200 + c.val) 2 → e ≠ 0 → s.rotateStatus c = 0 → s.log.queues[0].waiting.length < 256 →
      ∃ t, exec (.rotate c) s = .next t ∧ t.entry (0x8200 + c.val) 2 = (if (e + 1) % 256 = 0 then 1 else (e + 1) % 256)
        ∧ t.entry (0x8200 + c.val) 3 = e ∧ t.entry (0x8200 + c.val) 5 = wrap64 (s.entry (0x8200 + c.val) 5 + 1)
        ∧ EntriesKept [(0x8200 + c.val, 2), (0x8200 + c.val, 3), (0x8200 + c.val, 5)] s t ∧ (t.trust[c]).root.isSome = true
        ∧ (t.trust[c]).oldRoot = (s.trust[c]).root ∧ (∀ d, d ≠ c → t.trust[d] = s.trust[d])
        ∧ t = { s with dict := t.dict, log := t.log, trust := t.trust, draws := t.draws })
    ∧ (s.rotateStatus c ≠ 0 → exec (.rotate c) s = .next s)
    ∧ (∀ e, e = s.entry (0x8200 + c.val) 3 → e ≠ 0 → s.log.queues[0].waiting.length < 256 →
      (∀ r : Fin 64, s.regions[r].state = .active → s.regions[r].owner = c.val → s.oldOnFailed s.regions[r] e = false) →
      ∃ t, exec (.rekeyPassDone c) s = .next t ∧ t.entry (0x8200 + c.val) 3 = 0
        ∧ (∀ r : Fin 64, s.regions[r].state = .active → s.regions[r].owner = c.val →
          s.regions[r].fillEpoch = e → t.regions[r].fillEpoch = s.entry (0x8200 + c.val) 2)
        ∧ (∀ r : Fin 64, s.regions[r].owner ≠ c.val → t.regions[r] = s.regions[r])
        ∧ RaisedLast 0 0x8041 [(c.val : Int), (s.entry (0x8200 + c.val) 2 : Nat)] s t
        ∧ (t.trust[c]).oldRoot = none ∧ (t.trust[c]).root = (s.trust[c]).root
        ∧ t = { s with regions := t.regions, dict := t.dict, log := t.log, trust := t.trust })
    ∧ (∀ req : BitVec 256, s.unsealStatus c req.toNat = 0 →
      ∃ t, exec (.unseal c req) s = .next t ∧ (t.trust[c]).unsealing = some (req.toNat, 0) ∧ t.entry (0x8400 + c.val) 6 = 1
        ∧ t.entry (0x8400 + c.val) 7 = 0 ∧ t = { s with trust := t.trust, dict := t.dict, blobs := t.blobs })
    ∧ (∀ req : BitVec 256, s.unsealStatus c req.toNat ≠ 0 → exec (.unseal c req) s = .next s)
    ∧ (∀ (hdr : BitVec 512) (plain bytes : List (BitVec 8)) (tagOk : Bool) (req k total dest : Nat) (a : Acc),
      (s.trust[c]).unsealing = some (req, k) → total = bitsOf hdr.toNat 96 64 → bytes = plain.take (min 65536 (total - 65536 * k)) →
      a = { crew := c.val, mask := none, launch := false } → dest = bitsOf req 64 40 + 65536 * k →
      (tagOk = true → bitsOf hdr.toNat 0 32 = 0x554C5745 → s.writable a dest bytes.length = true →
        (s.delivers [{ at_ := dest, len := bytes.length, write := true }] = false →
          exec (.unsealSegmentDone c hdr plain tagOk) s = .next s)
        ∧ (s.delivers [{ at_ := dest, len := bytes.length, write := true }] = true →
          ∃ t, exec (.unsealSegmentDone c hdr plain tagOk) s = .next t ∧ t.mem = (s.store a dest bytes).mem
            ∧ t.entry (0x8400 + c.val) 7 = wrap64 (s.entry (0x8400 + c.val) 7 + bytes.length)
            ∧ (total ≤ 65536 * (k + 1) → (t.trust[c]).unsealing = none ∧ t.entry (0x8400 + c.val) 6 = 2)
            ∧ (65536 * (k + 1) < total → (t.trust[c]).unsealing = some (req, k + 1)
              ∧ t.entry (0x8400 + c.val) 6 = s.entry (0x8400 + c.val) 6)))
      ∧ ((tagOk = false ∨ bitsOf hdr.toNat 0 32 ≠ 0x554C5745 ∨ s.writable a dest bytes.length = false) →
        s.log.queues[0].waiting.length < 256 →
        ∃ t, exec (.unsealSegmentDone c hdr plain tagOk) s = .next t ∧ t.mem = s.mem ∧ (t.trust[c]).unsealing = none
          ∧ t.entry (0x8400 + c.val) 6 = 3 ∧ RaisedLast 0 0x8051 [(c.val : Int), (k : Int)] s t))
    ∧ ∀ d : Fin 2, (s.inReset = false → s.log.queues[d].waiting.length < 256 →
        ∃ t, exec (.trngHealthFailure d) s = .next t ∧ t.dies[d] = { s.dies[d] with trngBad := true }
          ∧ RaisedLast d 0x8060 [(d.val : Int)] s t ∧ t = { s with dies := t.dies, log := t.log })
      ∧ ∃ t, exec (.trngHealthRecovery d) s = .next t ∧ t.dies[d] = { s.dies[d] with trngBad := false }
        ∧ t = { s with dies := t.dies, keys := t.keys, blobs := t.blobs, draws := t.draws }
        ∧ (s.boot = .running → (∀ e : Fin 2, e ≠ d → s.dies[e].trngBad = false) → t.keys.moduleRoot.isSome = true)
        ∧ (s.keys.moduleRoot ≠ none → t.keys = s.keys)

/-- The scrub of a Crew (R544, R545): it starts where no Heat of the Crew is RUNNING or PREEMPTED; its keys, its regions, its semaphores
and its units' contents go; it ends with new keys at epoch 1, the Crew NORMAL. The signing engine builds its trees (R521). -/
def Obligations.ScrubsClearACrew : Prop :=
∀ (s : State) (c : Fin 4),
    (s.scrubStatus c = 0 →
      ∃ t, exec (.scrub c) s = .next t ∧ t.crews[c].state = .scrub ∧ t.crews[c].sems = []
        ∧ t.entry (0x8200 + c.val) 2 = 0 ∧ t.entry (0x8200 + c.val) 3 = 0 ∧ t.entry (0x8400 + c.val) 4 = 0
        ∧ (t.trust[c]).root = none ∧ (t.trust[c]).oldRoot = none ∧ (t.trust[c]).weights = []
        ∧ (t.trust[c]).receipt = none ∧ (t.trust[c]).unsealing = none ∧ t.slipways[c] = {}
        ∧ t.entry (0x8200 + c.val) 6 = wrap64 (s.entry (0x8200 + c.val) 6 + 1)
        ∧ (∀ h, crewOf h = c → t.heats[h].status = .idle ∧ t.heats[h].save = none)
        ∧ (∀ n : Fin 4, bitOf (s.crewBlades c) n.val = true → t.blades[n].scrubbing = true ∧ t.blades[n].active = {}))
    ∧ (s.scrubStatus c ≠ 0 → exec (.scrub c) s = .next s)
    ∧ (s.crews[c].state = .scrub → s.trngOk = true →
      ∃ t, exec (.scrubEnd c) s = .next t ∧ t.crews[c].state = .normal ∧ t.entry (0x8200 + c.val) 2 = 1
        ∧ t.entry (0x8200 + c.val) 3 = 0 ∧ (t.trust[c]).receipt.isSome = true ∧ (t.trust[c]).root.isSome = true
        ∧ (t.trust[c]).generation = ((s.trust[c]).generation + 1) % 2 ^ 32 ∧ t.entry (0x8200 + c.val) 8 = t.stamp
        ∧ t.clock.now = (s.advanceTo (s.edgeAfter (s.crews[c].scrubFrom + 999999))).clock.now
        ∧ ∀ d, d ≠ c → t.crews[d] = s.crews[d] ∧ t.trust[d] = s.trust[d])
    ∧ (s.inReset = false → ∃ t, exec .signingTreeBuilt s = .next t ∧ t = { s with signer := t.signer }
      ∧ (s.signer.tree = none → t.signer.tree = some s.signer.reserve.treeOf)
      ∧ (s.signer.tree ≠ none → t.signer = { s.signer with nextBuilt := true }))

/-- The SPDM responder (R523, R524): versions 1.2 and 1.3, the capabilities of Table 12-6, SHA-256 with the vendor-defined algorithm of
0x8100.01 where both are offered, the digest and the chain of slot 0, a signed CHALLENGE, the measurement blocks; every request is
counted in 0x8100.02, an ERROR in 0x8100.03 as well. The bytes of the messages are the model's reading of DSP0274 (log entry 54). -/
def Obligations.SpdmAnswers : Prop :=
∀ (s u : State) (via : SpdmVia) (c : SpdmState) (b : List Byte), Asked s u via c b →
    (spdmCode b = 0x84 → spdmVersion b = 0x10 → ∃ t, exec (.getVersion via) s = .next t
      ∧ Replied u via .version [0x10, 0x04, 0, 0, 0, 2, 0x00, 0x12, 0x00, 0x13] t)
    ∧ (spdmCode b = 0xE1 → c ≠ .fresh → (spdmVersion b = 0x12 ∨ spdmVersion b = 0x13) → 20 ≤ b.length →
      ∃ t r, exec (.getCapabilities via) s = .next t ∧ Replied u via (.capabilities (spdmVersion b)) r t
        ∧ r.length = 20 ∧ r.take 2 = beBytes 1 (spdmVersion b) ++ [0x61] ∧ (r.drop 8).take 4 = leBytes 4 0x16)
    ∧ (spdmCode b = 0xE3 → c = .capabilities (spdmVersion b) → 32 ≤ b.length → bitOf (spdmField b 12 4) 0 = true →
      (∃ i, i < (b.getD 28 0).toNat ∧ (b.drop (32 + 4 * i)).take 4 = leBytes 4 (u.viewNat 0x8100 1)) →
      ∃ t r, exec (.negotiateAlgorithms via) s = .next t ∧ Replied u via (.negotiated (spdmVersion b)) r t
        ∧ r.take 2 = beBytes 1 (spdmVersion b) ++ [0x63])
    ∧ (c = .negotiated (spdmVersion b) →
      (spdmCode b = 0x81 → 4 ≤ b.length → ∃ t, exec (.getDigests via) s = .next t
        ∧ Replied u via c (spdmMessage (spdmVersion b) 0x01 (if spdmVersion b = 0x13 then 1 else 0) 1 (digest u.chain)) t)
      ∧ (∀ off part, spdmCode b = 0x82 → 8 ≤ b.length → spdmParam b 1 % 16 = 0 → off = spdmField b 4 2 →
        part = (u.chain.drop off).take (spdmField b 6 2) → ∃ t, exec (.getCertificate via) s = .next t
          ∧ Replied u via c (if u.chain.length ≤ off then spdmMessage (spdmVersion b) 0x7F 0x01 0 []
              else spdmMessage (spdmVersion b) 0x02 0 0
                (leBytes 2 part.length ++ leBytes 2 (u.chain.length - off - part.length) ++ part)) t)
      ∧ (spdmCode b = 0x83 → 44 ≤ b.length → spdmParam b 1 = 0 → (spdmParam b 2 = 0 ∨ spdmParam b 2 = 1 ∨ spdmParam b 2 = 0xFF) →
        (u.signer.ready = true → ∃ t r, exec (.challenge via) s = .next t ∧ Replied u via c r t
          ∧ r.take 4 = beBytes 1 (spdmVersion b) ++ [0x03, 0, 1] ∧ (r.drop 4).take 32 = digest u.chain ∧ 5396 + 36 ≤ r.length
          ∧ t.entry 0x8000 8 = wrap64 (u.entry 0x8000 8 + 1))
        ∧ (u.signer.ready = false → ∃ t r, exec (.challenge via) s = .next t ∧ Replied u via c r t
          ∧ r = beBytes 1 (spdmVersion b) ++ [0x7F, 0x05, 0] ∧ t.entry 0x8100 3 = wrap64 (u.entry 0x8100 3 + 1)))
      ∧ (∀ op, spdmCode b = 0xE0 → 12 ≤ b.length → bitOf (spdmParam b 1) 0 = false → op = spdmParam b 2 → op ≤ 15 →
        ∃ t r, exec (.getMeasurements via) s = .next t ∧ Replied u via c r t
          ∧ r.take 5 = beBytes 1 (spdmVersion b) ++ [0x60, if op = 0 then 15 else 0, 0, if op = 0 then 0 else 1]
          ∧ (1 ≤ op → (r.drop 8).take (u.measurementBlock op).length = u.measurementBlock op)))
    ∧ (spdmSupported.contains (spdmCode b) = false → ∃ t, exec (.spdmUnsupportedRequest via) s = .next t
      ∧ Replied u via c (beBytes 1 c.versionOf ++ [0x7F, 0x07] ++ beBytes 1 (spdmCode b)) t
      ∧ t.entry 0x8100 3 = wrap64 (u.entry 0x8100 3 + 1))

/-- Reading the dictionary (R584, R585, R596, R597): READ answers each item with its status, type, length and value, clears an RC entry
in a session, and changes nothing else; READ_BLOB answers the bytes asked for, and READ_BLOB of 0xA010.01 the Logbook entries from a
sequence number on. -/
def Obligations.ReadsAnswerTheDictionary : Prop :=
∀ (s u : State) (q : XefinFrame) (m : Message),
    (Served s u q m 1 → m.payload.length % 4 = 0 → (∀ i ∈ readItems m.payload, i.2.2 < 2) →
      (∃ t, exec (.read q) s = .next t
        ∧ AnsweredFrom m 0 (u.readAll m.session (readItems m.payload)).1 (u.readAll m.session (readItems m.payload)).2 t)
      ∧ ∀ idx sub flags, readItems m.payload = [(idx, sub, flags)] →
        (dictRow idx sub = none →
          ∃ t, exec (.read q) s = .next t ∧ AnsweredFrom m 0 (entryBytes idx sub ++ [4, 0, 0, 0, 0]) (u.settleTimer idx sub) t)
        ∧ (∀ r, dictRow idx sub = some r → r.access = .wo →
          ∃ t, exec (.read q) s = .next t ∧ AnsweredFrom m 0 (entryBytes idx sub ++ [5, 0, 0, 0, 0]) (u.settleTimer idx sub) t)
        ∧ ∀ r v, dictRow idx sub = some r → ¬ (idx = 0xA010 ∧ sub = 1) → v = (u.settleTimer idx sub).valueBytes r idx sub →
          v.length < 65536 → ¬ (0x3100 ≤ idx ∧ idx < 0x3104 ∧ sub = 0xE) →
          (r.access = .ro → ∃ t, exec (.read q) s = .next t
            ∧ AnsweredFrom m 0 (entryBytes idx sub ++ beBytes 1 0 ++ beBytes 1 r.type.code ++ [0] ++ beBytes 2 v.length ++ v)
                (u.settleTimer idx sub) t)
          ∧ (r.access = .rc → m.session ≠ 0 → ∃ t, exec (.read q) s = .next t
            ∧ AnsweredFrom m 0 (entryBytes idx sub ++ beBytes 1 0 ++ beBytes 1 r.type.code ++ [0] ++ beBytes 2 v.length ++ v)
                ((u.settleTimer idx sub).setEntry idx sub 0) t))
    ∧ ∀ idx sub off n, blobOperands m.payload = some (idx, sub, off, n) → m.payload.length = 16 → Served s u q m 2 →
      (namesBlob 2 2 m.payload 0xA010 1 = false → ∀ r, dictRow idx sub = some r → r.access ≠ .wo → r.type = .blob →
        (off + n ≤ (u.viewBytes idx sub).length →
          ∃ t, exec (.readBlob q) s = .next t
            ∧ AnsweredFrom m 0 (blobAnswer idx sub 0 off n (((u.viewBytes idx sub).drop off).take n)) u t)
        ∧ ((u.viewBytes idx sub).length < off + n →
          ∃ t, exec (.readBlob q) s = .next t ∧ AnsweredFrom m 0x0E (blobAnswer idx sub 0x0E off 0 []) u t))
      ∧ (namesBlob 2 2 m.payload 0xA010 1 = true → 1 ≤ n → n ≤ 1024 →
        ∃ t es, exec (.logbookRead q) s = .next t ∧ es = (u.log.held.filter fun (e : Nat × Event) => off ≤ e.1).take n
          ∧ AnsweredFrom m 0 (blobAnswer idx sub 0 ((es.head?.map (·.1)).getD off) es.length
              (es.flatMap fun (e : Nat × Event) => e.2.wire e.1)) u t)

/-- Writing (R584, R596, R597, R609, R534): every item of a WRITE is checked before any takes effect; no BLOB is written through WRITE,
and a WRITE_BLOB of any entry but an image or a key delivery is refused; image bytes follow one another into the inactive slot of their
part; a key that unwraps is loaded into its slot. -/
def Obligations.WritesActAtOnce : Prop :=
∀ (s u : State) (q : XefinFrame) (m : Message),
    (∀ is, Served s u q m 3 → writeItems m.payload.length m.payload = some is → (∀ i ∈ is, i.type ≠ 10) →
      (firstFailure writeOk 1 is = none → ∃ t, exec (.write q) s = .next t
        ∧ AnsweredFrom m 0 [0, 0] ((itemsOf writeOk is).foldl State.writeEntry u) t)
      ∧ ∀ n st, firstFailure writeOk 1 is = some (n, st) → ∃ t, exec (.write q) s = .next t ∧ AnsweredFrom m st (beBytes 2 n) u t)
    ∧ (∀ idx sub off n, blobOperands m.payload = some (idx, sub, off, n) → (m.payload.drop 16).length = n → Served s u q m 4 →
      (blobWindow 4 m.payload 0x8400 4 = false → blobWindow 4 m.payload 0xC301 7 = false →
        ∃ t st, exec (.writeBlob q) s = .next t ∧ AnsweredFrom m st [0, 0, 0, 0] u t
          ∧ (dictRow idx sub = none → st = 4) ∧ ∀ r, dictRow idx sub = some r → st = if writeOk r.access then 6 else 5)
      ∧ (∀ (c : Fin 9) (i : Fin 2) (outside : BitVec 3) (f : FlashSlot), blobWindow 4 m.payload 0xC301 7 = true → c.val = idx - 0xC300 →
        i = (u.parts[c]).inactive → f.image.length ≤ slotSize c.val → (128 ≤ f.image.length → f.image.length ≤ f.total) →
        f.state = .empty →
        (((u.parts[c]).state = .idle ∨ (u.parts[c]).state = .armed) ∧ off = 0 ∧ f.image = m.payload.drop 16
          ∨ (u.parts[c]).state = .staging ∧ (u.parts[c]).owner = m.session ∧ off = (u.parts[c]).slots[i].image.length
            ∧ f.image = (u.parts[c]).slots[i].image ++ m.payload.drop 16) →
        (¬ (128 ≤ f.image.length ∧ f.image.length = f.total) →
          ∃ t e, exec (.imageWrite q outside) s = .next t ∧ AnsweredFrom m 0 (beBytes 4 n) e t
            ∧ (e.parts[c]).state = .staging ∧ (e.parts[c]).owner = m.session ∧ (e.parts[c]).slots[i] = f)
        ∧ ((128 ≤ f.image.length ∧ f.image.length = f.total) → u.imageCheck c.val f outside.toNat false = 0 →
          ∃ t e, exec (.imageWrite q outside) s = .next t ∧ AnsweredFrom m 0 (beBytes 4 n) e t
            ∧ (e.parts[c]).state = .armed ∧ (e.parts[c]).slots[i] = { f with state := .valid }))
      ∧ ∀ (c : Fin 4) (slot : Nat), blobWindow 4 m.payload 0x8400 4 = true → c.val = idx - 0x8400 → off = 0 → n = 1129 →
        slot = ((m.payload.drop 16).getD 0 0).toNat → slot < 8 →
        ((u.trust[c]).receipt.isSome = true → ∃ t e, exec (.keyDelivery q true) s = .next t ∧ AnsweredFrom m 0 (beBytes 4 1129) e t
          ∧ bitOf (e.entry (0x8400 + c.val) 4) slot = true
          ∧ (slot, weightKey ((u.trust[c]).receipt.getD []) c.val slot (u.trust[c]).generation (m.payload.drop 16)) ∈ (e.trust[c]).weights ∧ EntriesKept [(0x8400 + c.val, 4), (0xA000, 3)] u e)
        ∧ ∃ t, exec (.keyDelivery q false) s = .next t ∧ AnsweredFrom m 0x86 [0, 0, 0, 0] u t)
    ∧ (s.inReset = false →
      (s.entry 0xA000 0xA = 1 → ∃ t, exec (.registerWrite 0xA000 0xB 1) s = .next t
        ∧ t.capture = s.ergs.toList.map (fun e => (s.stamp, e)) ∧ t.sigDump = []
        ∧ t = { s with capture := t.capture, sigDump := t.sigDump, out := t.out })
      ∧ exec (.registerWrite 0xA000 0xB 0) s = .next { s with out := s.out ++ [{ kind := .response, fields := [0xA000, 0xB, 0] }] }
      ∧ (s.power.resetAt = none → ∃ t, exec (.registerWrite 0xD000 2 1) s = .next t
        ∧ t.power = { s.power with resetAt := some (s.clock.now + 1000000) } ∧ t = { s with power := t.power, out := t.out })
      ∧ ∀ (idx : BitVec 16) (sub : BitVec 8) (v : BitVec 64) (r : DictRow), dictRow idx.toNat sub.toNat = some r → writeOk r.access = false →
        exec (.registerWrite idx sub v) s = .next { s with out := s.out ++ [{ kind := .response, fields := [idx.toNat, sub.toNat, 5] }] })

/-- Staging and commits (R598 to R603): a STAGE is checked whole before its items replace earlier ones; DISCARD empties the area; a
COMMIT that passes is pending at its stroke under a new id, one that fails is counted; CANCEL takes a pending commit back before its
lead. -/
def Obligations.CommitsAreStagedAndAccepted : Prop :=
∀ (s u : State) (q : XefinFrame) (m : Message),
    (∀ is l, (u.xefin.stager = 0 ∨ u.xefin.stager = m.session) →
      Served s u q m 5 → writeItems m.payload.length m.payload = some is → l = (itemsOf stageOk is).foldl stageItem u.xefin.staged →
      (firstFailure stageOk 1 is = none → l.length ≤ 4096 → (l.map Item.size).sum ≤ 65536 →
        ∃ t, exec (.stage q) s = .next t
          ∧ AnsweredFrom m 0 [0, 0] { u with xefin := { u.xefin with staged := l, stager := if l = [] then 0 else m.session } } t)
      ∧ ∀ n st, firstFailure stageOk 1 is = some (n, st) → ∃ t, exec (.stage q) s = .next t ∧ AnsweredFrom m st (beBytes 2 n) u t)
    ∧ (Served s u q m 6 → m.payload = [] → (u.xefin.stager = 0 ∨ u.xefin.stager = m.session) → ∃ t, exec (.discard q) s = .next t
      ∧ AnsweredFrom m 0 [] { u with xefin := { u.xefin with staged := [], stager := 0 } } t)
    ∧ (∀ flags stroke, Served s u q m 7 → (u.xefin.stager = 0 ∨ u.xefin.stager = m.session) → m.payload.length = 16 → flags = (m.payload.getD 8 0).toNat →
      (∀ b ∈ m.payload.drop 9, b = 0) →
      stroke = (if ofBeBytes (m.payload.take 8) % 2 ^ 40 = 0 then u.earliest else u.namedStroke (ofBeBytes (m.payload.take 8) % 2 ^ 40)) →
      (flags = 0 → u.receiptFailure stroke = none → u.recovering = false → ∀ id, id = u.entry 0xC000 5 + 1 →
        ∃ t e, exec (.commit q) s = .next t ∧ AnsweredFrom m 0 (beBytes 8 id ++ beBytes 8 (stroke % 2 ^ 40)) e t
          ∧ e.xefin.commits = u.xefin.commits ++ [{ id := id, stroke := stroke, items := u.xefin.staged, session := m.session, port := m.port }]
          ∧ e.xefin.staged = [] ∧ e.xefin.stager = 0 ∧ e.entry 0xC000 5 = id ∧ EntriesKept [(0xC000, 5)] u e
          ∧ e = { u with xefin := e.xefin, dict := e.dict })
      ∧ (flags = 1 → u.receiptFailure stroke = none →
        ∃ t, exec (.commit q) s = .next t ∧ AnsweredFrom m 0 (beBytes 8 0 ++ beBytes 8 (stroke % 2 ^ 40)) u t)
      ∧ ∀ step f, flags = 0 → u.receiptFailure stroke = some (step, f) →
        ∃ t e, exec (.commit q) s = .next t ∧ AnsweredFrom m f.status (beBytes 8 0 ++ beBytes 8 (stroke % 2 ^ 40) ++ refusal 0 1 step f) e t
          ∧ e.entry 0xC000 8 = wrap64 (u.entry 0xC000 8 + 1) ∧ e.xefin = u.xefin)
    ∧ ∀ k, Served s u q m 8 → m.payload.length = 8 →
      u.xefin.commits.find? (fun k => k.id == ofBeBytes m.payload && k.session == m.session) = some k →
      (u.clock.now + u.lead : Nat) ≤ u.edgeTime k.stroke →
      ∃ t e, exec (.cancel q) s = .next t ∧ AnsweredFrom m 0 [] e t
        ∧ e.xefin.commits = u.xefin.commits.filter (fun j => j.id != k.id)
        ∧ e.entry 0xC000 0xA = wrap64 (u.entry 0xC000 0xA + 1) ∧ EntriesKept [(0xC000, 0xA)] u e

/-- Sessions (R588, R591, R594): SESS_OPEN signs and opens the next session id, with EV-C020; SESS_CLOSE and the idle limit end a
session, whose staging area is discarded; an incomplete request is dropped 100 ms after its first fragment. Parts (R609 to R611):
ACTIVATE changes the slot selection and the rollback counter together and runs the new slot; ABANDON returns the part to IDLE with its
slot EMPTY; an activation that is complete leaves the part IDLE. A part command that is refused changes nothing. The management port
beside Xefin (R586): ARP and ICMP echo are answered for the module's own address; the DHCP client asks, takes the address that is
acknowledged, and asks again when it is refused. -/
def Obligations.SessionsPartsAndPort : Prop :=
  (∀ s : State,
    (∀ (u : State) (q : XefinFrame) (m : Message) (sigOk : Bool), Served s u q m 9 → m.payload.length = 1124 →
      m.payload.getD 0 0 = 0 → m.payload.getD 2 0 = 0 → m.payload.getD 3 0 = 0 → u.xefin.sessions.length < 4 →
      u.ownerSet = none → u.signer.remaining ≠ 0 →
      (u.signer.ready = true → ∃ t e id sig key, exec (.sessOpen q sigOk) s = .next t ∧ AnsweredFrom m 0 (beBytes 4 id ++ sig) e t
        ∧ sig.length = 5396 ∧ id = (if u.xefin.lastSession + 1 < 0xFFFFFFFF then u.xefin.lastSession + 1 else 1)
        ∧ e.xefin.lastSession = id
        ∧ e.xefin.sessions = u.xefin.sessions ++ [{ id := id, key := key, port := m.port, lastAt := u.clock.now }]
        ∧ key = kdf (beBytes 32 (Config.kemSecret (u.blob 0xC010 1 1184) ((m.payload.drop 36).take 1088)).toNat) "ULXS"
          (beBytes 4 id ++ (m.payload.drop 4).take 32)
        ∧ (s.log.queues[0].waiting.length < 200 → ∃ y, e.log.queues[0].waiting.getLast? = some y ∧ y.code = 0xC020)
        ∧ e.entry 0x8000 8 = wrap64 (u.entry 0x8000 8 + 1))
      ∧ (u.signer.ready = false → ∃ t, exec (.sessOpen q sigOk) s = .next t ∧ AnsweredFrom m 0x0D [] u t))
    ∧ (∀ (u : State) (q : XefinFrame) (m : Message), Served s u q m 0x0A → m.payload = [] →
      ∃ t e, exec (.sessClose q) s = .next t ∧ AnsweredFrom m 0 [] e t ∧ e.xefin.sessions = u.xefin.sessions.filter (·.id != m.session))
    ∧ (∀ (id : BitVec 32) (x : Session), s.xefin.sessions.find? (·.id == id.toNat) = some x →
      x.lastAt + s.entry 0xC010 5 * 1000000000 ≤ s.clock.now →
      ∃ t, exec (.sessionIdleTimeout id) s = .next t ∧ t.xefin.sessions = s.xefin.sessions.filter (·.id != id.toNat)
        ∧ (s.xefin.stager = id.toNat → s.xefin.staged ≠ [] → t.xefin.staged = [] ∧ t.xefin.stager = 0)
        ∧ (s.log.queues[0].waiting.length < 200 → ∃ e, t.log.queues[0].waiting.getLast? = some e ∧ e.code = 0xC021))
    ∧ exec .fragmentTimeout s = .next { s with xefin := { s.xefin with
        assemblies := s.xefin.assemblies.filter fun a => s.clock.now < a.since + 100000000 } })
  ∧ (∀ (s : State) (part : Fin 7) (c : Fin 9), c.val = part.val + 1 →
    (s.partStatus c 1 [] = 0 → ∃ t, exec (.activate part) s = .next t
      ∧ (t.parts[c]).preferred = (s.parts[c]).inactive ∧ (t.parts[c]).running = some (s.parts[c]).inactive
      ∧ (t.parts[c]).rollback = max (s.parts[c]).rollback ((s.parts[c]).slots[(s.parts[c]).inactive]).svn
      ∧ (t.parts[c]).state = (if c = 1 ∨ c = 4 ∨ c = 7 then .idle else .active)
      ∧ t.pacer = s.pacer ∧ t.bladeMap = s.bladeMap ∧ (∀ d, d ≠ c → t.parts[d] = s.parts[d]) ∧ SameMemory s t)
    ∧ (s.partStatus c 1 [] ≠ 0 → exec (.activate part) s = .next s)
    ∧ ((s.parts[c]).state = .staging ∨ (s.parts[c]).state = .armed → s.log.queues[0].waiting.length < 256 →
      ∃ t, exec (.abandon part) s = .next t ∧ (t.parts[c]).state = .idle ∧ (t.parts[c]).slots[(s.parts[c]).inactive] = {}
        ∧ (t.parts[c]).running = (s.parts[c]).running ∧ (∀ d, d ≠ c → t.parts[d] = s.parts[d])
        ∧ RaisedLast 0 0xC010 [(c.val : Int), ((s.parts[c]).state.code : Int), (PartState.idle.code : Int),
            ((s.parts[c]).inactive.val : Int)] s t ∧ t = { s with parts := t.parts, log := t.log })
    ∧ ((s.parts[c]).state ≠ .staging → (s.parts[c]).state ≠ .armed → exec (.abandon part) s = .next s)
    ∧ ((s.parts[c]).state = .active → (c ≠ 5 ∨ s.unitsLeft c = 0) →
      ∃ t, exec (.partActiveEnd part) s = .next t ∧ (t.parts[c]).state = .idle ∧ (t.parts[c]).left = 0
        ∧ (t.parts[c]).running = (s.parts[c]).running ∧ ∀ d, d ≠ c → t.parts[d] = s.parts[d]))
  ∧ (∀ s : State, s.inReset = false → s.xefin.phase ≠ 0 →
    (∀ (target ip : BitVec 32) (mac : BitVec 48) (data : List (BitVec 8)), target ≠ 0 → s.entry 0x1030 5 = target.toNat →
      exec (.arpRequest target ip mac) s = .next { s with out := s.out ++
        [{ kind := .arp, fields := [ip.toNat, mac.toNat, target.toNat, s.viewNat 0x1030 6] }] }
      ∧ exec (.icmpEcho target ip data) s = .next { s with out := s.out ++ [{ kind := .icmp, fields := [ip.toNat], bytes := data }] })
    ∧ (∀ (target ip : BitVec 32) (mac : BitVec 48) (data : List (BitVec 8)), s.entry 0x1030 5 ≠ target.toNat →
      exec (.arpRequest target ip mac) s = .next s ∧ exec (.icmpEcho target ip data) s = .next s)
    ∧ (s.entry 0x1030 1 = 0 →
      (s.xefin.dhcp = .init → ∃ t, exec (.dhcpClient .start) s = .next t ∧ t.xefin = { s.xefin with dhcp := .selecting }
        ∧ t.out = s.out ++ [{ kind := .dhcp, fields := [1], bytes := dhcpClientId }] ∧ t = { s with xefin := t.xefin, out := t.out })
      ∧ (∀ a server, s.xefin.dhcp = .selecting → ∃ t, exec (.dhcpClient (.offer a server)) s = .next t
        ∧ t.xefin = { s.xefin with dhcp := .requesting a.toNat }
        ∧ t.out = s.out ++ [{ kind := .dhcp, fields := [3, a.toNat, server.toNat], bytes := dhcpClientId }])
      ∧ (∀ a : BitVec 32, s.xefin.dhcp = .requesting a.toNat → ∃ t, exec (.dhcpClient (.ack a)) s = .next t
        ∧ t.xefin = { s.xefin with dhcp := .bound a.toNat } ∧ t.entry 0x1030 5 = a.toNat ∧ EntriesKept [(0x1030, 5)] s t)
      ∧ ∀ a, (s.xefin.dhcp = .requesting a ∨ s.xefin.dhcp = .bound a) → ∃ t, exec (.dhcpClient .nak) s = .next t
        ∧ t.xefin = { s.xefin with dhcp := .selecting } ∧ (s.xefin.dhcp = .bound a → t.entry 0x1030 5 = 0)))
end

