-- ==== Sys2Proof/Laws/Sparse.lean ====
section
/-! SUPPORT. Laws of sparse data: reading after writing, and that every operation keeps the canonical form. -/
namespace Sys2Proof.Machine

theorem sparseGet_filter_same {β : Type} (d : β) (m : List (Nat × β)) (a : Nat) :
    sparseGet d (m.filter (·.1 != a)) a = d := by
  induction m with
  | nil => rfl
  | cons p m ih =>
    by_cases h : p.1 = a
    · simp [h, ih]
    · simp [h, sparseGet, ih]

theorem sparseGet_filter_ne {β : Type} (d : β) (m : List (Nat × β)) {a b : Nat} (h : b ≠ a) :
    sparseGet d (m.filter (·.1 != a)) b = sparseGet d m b := by
  induction m with
  | nil => rfl
  | cons p m ih =>
    by_cases hp : p.1 = a
    · have : p.1 ≠ b := fun e => h (e ▸ hp)
      simp [hp, sparseGet, ih, Ne.symm h]
    · simp [hp, sparseGet, ih]

variable {β : Type} [DecidableEq β]

/-- A read of the key that was written gives the value written. -/
@[simp] theorem sparseGet_set_same (d : β) (m : List (Nat × β)) (a : Nat) (v : β) :
    sparseGet d (sparseSet d m a v) a = v := by
  induction m with
  | nil => by_cases h : v = d <;> simp [sparseSet, sparseGet, h]
  | cons p m ih =>
    obtain ⟨k, w⟩ := p
    by_cases hk : k = a
    · by_cases hv : v = d <;> simp [sparseSet, sparseGet, hk, hv, sparseGet_filter_same]
    · by_cases ha : a < k
      · by_cases hv : v = d <;> simp [sparseSet, sparseGet, hk, ha, hv, sparseGet_filter_same]
      · simp [sparseSet, sparseGet, hk, ha, ih]

/-- A write leaves every other key alone, whatever the default of the reader. -/
theorem sparseGet_set_ne (d e : β) (m : List (Nat × β)) {a b : Nat} (v : β) (h : b ≠ a) :
    sparseGet e (sparseSet d m a v) b = sparseGet e m b := by
  induction m with
  | nil => by_cases hv : v = d <;> simp [sparseSet, sparseGet, hv, Ne.symm h]
  | cons p m ih =>
    obtain ⟨k, w⟩ := p
    by_cases hk : k = a
    · by_cases hv : v = d <;> simp [sparseSet, sparseGet, hk, hv, sparseGet_filter_ne, h, Ne.symm h]
    · by_cases ha : a < k
      · by_cases hv : v = d <;> simp [sparseSet, sparseGet, hk, ha, hv, sparseGet_filter_ne, h, Ne.symm h]
      · simp [sparseSet, sparseGet, hk, ha, ih]

/-- Reading after writing, both cases. -/
theorem sparseGet_set (d : β) (m : List (Nat × β)) (a b : Nat) (v : β) :
    sparseGet d (sparseSet d m a v) b = if b = a then v else sparseGet d m b := by
  by_cases h : b = a
  · subst h; simp
  · simp [h, sparseGet_set_ne d d m v h]

theorem sparseWfFrom_mono {d : Nat → β} {m : List (Nat × β)} {lo lo' : Nat} (h : sparseWfFrom d lo m = true) (hl : lo' ≤ lo) :
    sparseWfFrom d lo' m = true := by
  cases m with
  | nil => rfl
  | cons p m =>
    simp only [sparseWfFrom, Bool.and_eq_true, decide_eq_true_eq] at h ⊢
    exact ⟨⟨Nat.le_trans hl h.1.1, h.1.2⟩, h.2⟩

/-- Leaving entries out keeps the canonical form. -/
theorem sparseWfFrom_filter {d : Nat → β} (p : Nat × β → Bool) {m : List (Nat × β)} {lo : Nat} (h : sparseWfFrom d lo m = true) :
    sparseWfFrom d lo (m.filter p) = true := by
  induction m generalizing lo with
  | nil => rfl
  | cons q m ih =>
    simp only [sparseWfFrom, Bool.and_eq_true, decide_eq_true_eq] at h
    have t := ih h.2
    by_cases hq : p q
    · simpa [hq, sparseWfFrom, h.1.1, h.1.2] using t
    · simpa [hq] using sparseWfFrom_mono t (by omega)

/-- A write keeps the canonical form, where the default written is the default of the key. -/
theorem sparseWfFrom_set {d : Nat → β} {m : List (Nat × β)} {lo a : Nat} (v : β) (hl : lo ≤ a) (h : sparseWfFrom d lo m = true) :
    sparseWfFrom d lo (sparseSet (d a) m a v) = true := by
  induction m generalizing lo with
  | nil => by_cases hv : v = d a <;> simp [sparseSet, sparseWfFrom, hv, hl]
  | cons p m ih =>
    obtain ⟨k, w⟩ := p
    simp only [sparseWfFrom, Bool.and_eq_true, decide_eq_true_eq] at h
    by_cases hk : k = a
    · subst hk
      by_cases hv : v = d k
      · simpa [sparseSet, hv] using sparseWfFrom_filter _ (sparseWfFrom_mono h.2 (by omega))
      · simp [sparseSet, hv, sparseWfFrom, hl, h.2]
    · by_cases ha : a < k
      · by_cases hv : v = d a
        · simpa [sparseSet, hk, ha, hv, sparseWfFrom, h.1.1, h.1.2] using sparseWfFrom_filter _ h.2
        · simp only [sparseSet, hk, ha, hv, sparseWfFrom, if_true, if_false, Bool.and_eq_true, decide_eq_true_eq]
          exact ⟨⟨hl, by simpa using hv⟩, ⟨by omega, h.1.2⟩, h.2⟩
      · have t := ih (lo := k + 1) (by omega) h.2
        simp only [sparseSet, hk, ha, sparseWfFrom, if_false, Bool.and_eq_true, decide_eq_true_eq]
        exact ⟨h.1, t⟩

/-- `sparseWf` under filtering and under a write. -/
theorem sparseWf_filter {d : Nat → β} (p : Nat × β → Bool) {m : List (Nat × β)} (h : sparseWf d m = true) :
    sparseWf d (m.filter p) = true := sparseWfFrom_filter p h
@[inherit_doc sparseWf_filter] theorem sparseWf_set {d : Nat → β} {m : List (Nat × β)} (a : Nat) (v : β) (h : sparseWf d m = true) :
    sparseWf d (sparseSet (d a) m a v) = true := sparseWfFrom_set v (Nat.zero_le a) h

end Sys2Proof.Machine
end

