-- ==== Sys2Proof/Laws/Keeps.lean ====
section
/-! SUPPORT. The frame that every operation has: the queue of waiting commands, and the canonical form of the memory. The operations of Ops.lean. -/
namespace Sys2Proof.Machine

/-- What no command touches: the queue of the commands that wait; and the canonical form of the memory. -/
structure Keeps (s t : State) : Prop where
  pending : t.pending = s.pending
  canon : s.memCanonical → t.memCanonical

namespace Keeps
variable {s t u : State} {α β γ : Type}

theorem refl (s : State) : Keeps s s := ⟨rfl, id⟩
theorem trans (h : Keeps s t) (k : Keeps t u) : Keeps s u := ⟨k.pending.trans h.pending, fun c => k.canon (h.canon c)⟩

/-- An update of any other field. -/
theorem upd (h : Keeps s t) (a1) (a2) (a4) (a5) (a6) (a7) (a8) (a9) (a10) (a11) (a12) (a13) (a14) (a15) (a16) (a17) (a18) (a19)
    (a20) (a21) (a22) (a23) (a24) (a25) (a26) (a27) (a28) (a29) (a30) (a31) (a32) (a33) (a34) (a35)
    (a36) (a37) (a38) (a39) (a40) (a41) (a42) (a43) (a44) (a45) (a46) (a47) (a48) (a49) (a50) :
    Keeps s (State.mk t.pending a1 a2 t.mem a4 a5 a6 a7 a8 a9 a10 a11 a12 a13 a14 a15 a16 a17 a18 a19 a20 a21 a22 a23 a24
      a25 a26 a27 a28 a29 a30 a31 a32 a33 a34 a35 a36 a37 a38 a39 a40 a41 a42 a43 a44 a45 a46 a47 a48 a49
      a50) := ⟨h.pending, h.canon⟩

theorem foldl {g : State → α → State} (h : Keeps s t) (l : List α) (hg : ∀ u x, Keeps s u → Keeps s (g u x)) :
    Keeps s (l.foldl g t) := by
  induction l generalizing t with
  | nil => exact h
  | cons x l ih => exact ih (hg t x h)

theorem foldl_fst {g : State × β → α → State × β} {p : State × β} (h : Keeps s p.1) (l : List α)
    (hg : ∀ p x, Keeps s p.1 → Keeps s (g p x).1) : Keeps s (l.foldl g p).1 := by
  induction l generalizing p with
  | nil => exact h
  | cons x l ih => exact ih (hg p x h)

theorem of_fst {p : State × β} {b : β} (e : p = (u, b)) (h : Keeps s p.1) : Keeps s u := by rw [e] at h; exact h
theorem of_snd {p : β × State} {b : β} (e : p = (b, u)) (h : Keeps s p.2) : Keeps s u := by rw [e] at h; exact h
theorem of_third {p : α × β × State} {a : α} {b : β} (e : p = (a, b, u)) (h : Keeps s p.2.2) : Keeps s u := by
  rw [e] at h; exact h

end Keeps

theorem State.setEntry_keeps {s t : State} (h : Keeps s t) (idx sub v : Nat) :
    Keeps s (t.setEntry idx sub v) := by
  unfold State.setEntry
  with_reducible
    repeat' first
      | exact h
      | assumption
      | intro _
      | dsimp only
      | apply Keeps.upd

theorem State.bump_keeps {s t : State} (h : Keeps s t) (idx sub n : Nat) :
    Keeps s (t.bump idx sub n) := by
  unfold State.bump
  with_reducible
    repeat' first
      | exact h
      | assumption
      | intro _
      | apply State.setEntry_keeps
      | split
      | dsimp only
      | apply Keeps.upd

theorem State.setBlob_keeps {s t : State} (h : Keeps s t) (idx sub : Nat) (bs : List Byte) :
    Keeps s (t.setBlob idx sub bs) := by
  unfold State.setBlob
  with_reducible
    repeat' first
      | exact h
      | assumption
      | intro _
      | dsimp only
      | apply Keeps.upd

theorem State.draw_keeps {s t : State} (h : Keeps s t)  :
    Keeps s (t.draw).2 := by
  unfold State.draw
  with_reducible
    repeat' first
      | exact h
      | assumption
      | intro _
      | dsimp only
      | apply Keeps.upd

theorem State.drawBytes_keeps {s t : State} (h : Keeps s t) (n : Nat) :
    Keeps s (t.drawBytes n).2 := by
  unfold State.drawBytes
  with_reducible
    repeat' first
      | exact h
      | assumption
      | intro _
      | dsimp only
      | apply Keeps.upd

theorem State.emit_keeps {s t : State} (h : Keeps s t) (o : Output) :
    Keeps s (t.emit o) := by
  unfold State.emit
  with_reducible
    repeat' first
      | exact h
      | assumption
      | intro _
      | dsimp only
      | apply Keeps.upd

theorem State.advanceTo_keeps {s t : State} (h : Keeps s t) (t0 : Nat) :
    Keeps s (t.advanceTo t0) := by
  unfold State.advanceTo
  with_reducible
    repeat' first
      | exact h
      | assumption
      | intro _
      | split
      | dsimp only
      | apply Keeps.upd

theorem State.raiseOn_keeps {s t : State} (h : Keeps s t) (d : Fin 2) (e : Event) :
    Keeps s (t.raiseOn d e) := by
  unfold State.raiseOn
  with_reducible
    repeat' first
      | exact h
      | assumption
      | intro _
      | apply State.bump_keeps
      | split
      | dsimp only
      | apply Keeps.upd

theorem State.raise_keeps {s t : State} (h : Keeps s t) (code : Nat) (payload : List Int) :
    Keeps s (t.raise code payload) := by
  unfold State.raise
  with_reducible
    repeat' first
      | exact h
      | assumption
      | intro _
      | apply State.raiseOn_keeps
      | dsimp only
      | apply Keeps.upd

theorem State.raiseUnit_keeps {s t : State} (h : Keeps s t) (d : Fin 2) (code unit index : Nat) (payload : List Int) :
    Keeps s (t.raiseUnit d code unit index payload) := by
  unfold State.raiseUnit
  with_reducible
    repeat' first
      | exact h
      | assumption
      | intro _
      | apply State.raiseOn_keeps
      | dsimp only
      | apply Keeps.upd

theorem State.raiseRegion_keeps {s t : State} (h : Keeps s t) (r : Fin 64) (code : Nat) (payload : List Int) :
    Keeps s (t.raiseRegion r code payload) := by
  unfold State.raiseRegion
  with_reducible
    repeat' first
      | exact h
      | assumption
      | intro _
      | apply State.raiseOn_keeps
      | dsimp only
      | apply Keeps.upd

theorem State.raiseHeat_keeps {s t : State} (h : Keeps s t) (h0 : Fin 64) (code : Nat) (payload : List Int) :
    Keeps s (t.raiseHeat h0 code payload) := by
  unfold State.raiseHeat
  with_reducible
    repeat' first
      | exact h
      | assumption
      | intro _
      | apply State.raiseOn_keeps
      | dsimp only
      | apply Keeps.upd

theorem State.raiseTimes_keeps {s t : State} (n : Nat) (h : Keeps s t) (f : State → State) (hf : ∀ u, Keeps s u → Keeps s (f u)) :
    Keeps s (State.raiseTimes n t f) := by
  induction n generalizing t with
  | zero => exact h
  | succ n ih => exact ih (hf t h)

theorem State.setCell_keeps {s t : State} (h : Keeps s t) (key : Nat) (b : Byte) : Keeps s (t.setCell key b) :=
  ⟨h.pending, fun c => sparseWf_set (d := fun _ => (0 : Byte)) key b (h.canon c)⟩

theorem memWrite_wf {m : List Host.Cell} (key : Nat) (bs : List Byte) (h : sparseWf (fun _ => (0 : Byte)) m = true) :
    sparseWf (fun _ => (0 : Byte)) (memWrite m key bs) = true := by
  induction bs generalizing m key with
  | nil => exact h
  | cons b bs ih => exact ih _ (sparseWf_set (d := fun _ => (0 : Byte)) key b h)

theorem State.setCells_keeps {s t : State} (h : Keeps s t) (key : Nat) (bs : List Byte) : Keeps s (t.setCells key bs) :=
  ⟨h.pending, fun c => memWrite_wf key bs (h.canon c)⟩

theorem State.writePage_keeps {s t : State} (h : Keeps s t) (g : Region) (p : Nat) (page : List Byte) :
    Keeps s (t.writePage g p page) := by
  unfold State.writePage
  with_reducible
    repeat' first
      | exact h
      | assumption
      | intro _
      | apply State.setCell_keeps
      | apply State.setCells_keeps
      | refine Keeps.of_fst (by assumption) ?_
      | refine Keeps.of_snd (by assumption) ?_
      | refine Keeps.of_third (by assumption) ?_
      | split
      | dsimp only
      | apply Keeps.upd

theorem State.convertPageNo_keeps {s t : State} (h : Keeps s t) (r : Fin 64) (p : Nat) :
    Keeps s (t.convertPageNo r p) := by
  unfold State.convertPageNo
  with_reducible
    repeat' first
      | exact h
      | assumption
      | intro _
      | apply State.bump_keeps
      | split
      | dsimp only
      | apply Keeps.upd

theorem State.convertPage_keeps {s t : State} (h : Keeps s t) (r : Fin 64) (off : Nat) :
    Keeps s (t.convertPage r off) := by
  unfold State.convertPage
  with_reducible
    repeat' first
      | exact h
      | assumption
      | intro _
      | apply State.convertPageNo_keeps
      | refine Keeps.of_fst (by assumption) ?_
      | refine Keeps.of_snd (by assumption) ?_
      | refine Keeps.of_third (by assumption) ?_
      | split
      | dsimp only
      | apply Keeps.upd

theorem State.store1_keeps {s t : State} (h : Keeps s t) (a : Acc) (addr : Nat) (b : Byte) :
    Keeps s (t.store1 a addr b) := by
  unfold State.store1
  with_reducible
    repeat' first
      | exact h
      | assumption
      | intro _
      | apply State.setCell_keeps
      | apply State.writePage_keeps
      | apply State.convertPage_keeps
      | refine Keeps.of_fst (by assumption) ?_
      | refine Keeps.of_snd (by assumption) ?_
      | refine Keeps.of_third (by assumption) ?_
      | split
      | dsimp only
      | apply Keeps.upd

theorem State.store_keeps {s t : State} (h : Keeps s t) (a : Acc) (addr : Nat) (bs : List Byte) :
    Keeps s (t.store a addr bs) := by
  induction bs generalizing t addr with
  | nil => exact h
  | cons b bs ih => exact ih (State.store1_keeps h a addr b) _

theorem State.storeNat_keeps {s t : State} (h : Keeps s t) (a : Acc) (addr n v : Nat) :
    Keeps s (t.storeNat a addr n v) := by
  unfold State.storeNat
  with_reducible
    repeat' first
      | exact h
      | assumption
      | intro _
      | apply State.store_keeps
      | dsimp only
      | apply Keeps.upd

theorem State.noteWin_keeps {s t : State} (h : Keeps s t) (key now r : Nat) (rs : List Nat) (len : Nat) :
    Keeps s (t.noteWin key now r rs len) := by
  unfold State.noteWin
  with_reducible
    repeat' first
      | exact h
      | assumption
      | intro _
      | dsimp only
      | apply Keeps.upd

theorem State.onHeat_keeps {s t : State} (h : Keeps s t) (h0 : Fin 64) (f : Heat → Heat) :
    Keeps s (t.onHeat h0 f) := by
  unfold State.onHeat
  with_reducible
    repeat' first
      | exact h
      | assumption
      | intro _
      | dsimp only
      | apply Keeps.upd

theorem State.onLane_keeps {s t : State} (h : Keeps s t) (h0 : Fin 64) (l : Fin 4) (f : Lane → Lane) :
    Keeps s (t.onLane h0 l f) := by
  unfold State.onLane
  with_reducible
    repeat' first
      | exact h
      | assumption
      | intro _
      | apply State.onHeat_keeps
      | dsimp only
      | apply Keeps.upd

theorem State.onBlade_keeps {s t : State} (h : Keeps s t) (n : Fin 4) (f : Blade → Blade) :
    Keeps s (t.onBlade n f) := by
  unfold State.onBlade
  with_reducible
    repeat' first
      | exact h
      | assumption
      | intro _
      | apply State.onHeat_keeps
      | dsimp only
      | apply Keeps.upd

theorem State.onCrew_keeps {s t : State} (h : Keeps s t) (c : Fin 4) (f : Crew → Crew) :
    Keeps s (t.onCrew c f) := by
  unfold State.onCrew
  with_reducible
    repeat' first
      | exact h
      | assumption
      | intro _
      | apply State.onHeat_keeps
      | dsimp only
      | apply Keeps.upd

theorem State.onDie_keeps {s t : State} (h : Keeps s t) (d : Fin 2) (f : Die → Die) :
    Keeps s (t.onDie d f) := by
  unfold State.onDie
  with_reducible
    repeat' first
      | exact h
      | assumption
      | intro _
      | apply State.onHeat_keeps
      | dsimp only
      | apply Keeps.upd

theorem State.onRegion_keeps {s t : State} (h : Keeps s t) (r : Fin 64) (f : Region → Region) :
    Keeps s (t.onRegion r f) := by
  unfold State.onRegion
  with_reducible
    repeat' first
      | exact h
      | assumption
      | intro _
      | apply State.onHeat_keeps
      | dsimp only
      | apply Keeps.upd

theorem State.onChannel_keeps {s t : State} (h : Keeps s t) (c : Fin 384) (f : Channel → Channel) :
    Keeps s (t.onChannel c f) := by
  unfold State.onChannel
  with_reducible
    repeat' first
      | exact h
      | assumption
      | intro _
      | apply State.onHeat_keeps
      | dsimp only
      | apply Keeps.upd

theorem State.onEngine_keeps {s t : State} (h : Keeps s t) (e : Fin 16) (f : Engine → Engine) :
    Keeps s (t.onEngine e f) := by
  unfold State.onEngine
  with_reducible
    repeat' first
      | exact h
      | assumption
      | intro _
      | apply State.onHeat_keeps
      | dsimp only
      | apply Keeps.upd

theorem State.awaitSlice_keeps {s t : State} (h : Keeps s t) (u : Fin 36) :
    Keeps s (t.awaitSlice u) := by
  unfold State.awaitSlice
  with_reducible
    repeat' first
      | exact h
      | assumption
      | intro _
      | refine Keeps.of_fst (by assumption) ?_
      | refine Keeps.of_snd (by assumption) ?_
      | refine Keeps.of_third (by assumption) ?_
      | dsimp only
      | apply Keeps.upd

theorem State.setQueue_keeps {s t : State} (h : Keeps s t) (u : UnitId) (q : UnitQueue) :
    Keeps s (t.setQueue u q) := by
  unfold State.setQueue
  with_reducible
    repeat' first
      | exact h
      | assumption
      | intro _
      | apply State.onBlade_keeps
      | apply State.onEngine_keeps
      | refine Keeps.of_fst (by assumption) ?_
      | refine Keeps.of_snd (by assumption) ?_
      | refine Keeps.of_third (by assumption) ?_
      | split
      | dsimp only
      | apply Keeps.upd

theorem State.discardQueued_keeps {s t : State} (h : Keeps s t) (h0 : Fin 64) :
    Keeps s (t.discardQueued h0) := by
  unfold State.discardQueued
  with_reducible
    repeat' first
      | exact h
      | assumption
      | intro _
      | dsimp only
      | apply Keeps.upd

end Sys2Proof.Machine
end

