-- ==== Sys2Proof/Laws/KeepsCore.lean ====
section
/-! SUPPORT. The frame of the operations on Heats, events, Oarlock wires, the job, the cache and HBM. -/
namespace Sys2Proof.Machine

theorem State.sign_keeps {s t : State} (h : Keeps s t) : ∀ b u, t.sign = some (b, u) → Keeps s u := by
  intro b u e
  unfold State.sign at e
  split at e
  · refine Keeps.of_snd (Option.some.inj e) ?_
    with_reducible repeat' first
      | exact h
      | apply State.bump_keeps
      | apply State.raise_keeps
      | apply State.drawBytes_keeps
      | split
      | dsimp only
      | apply Keeps.upd
  · exact nomatch e

theorem State.feed_keeps {s t : State} (h : Keeps s t) (source index : Nat) (v : Int) :
    Keeps s (t.feed source index v) := by
  unfold State.feed
  with_reducible
    repeat' first
      | exact h
      | assumption
      | intro _
      | split
      | dsimp only
      | apply Keeps.upd

theorem State.snapshot_keeps {s t : State} (h : Keeps s t)  :
    Keeps s (t.snapshot) := by
  unfold State.snapshot
  with_reducible
    repeat' first
      | exact h
      | assumption
      | intro _
      | apply State.emit_keeps
      | split
      | dsimp only
      | apply Keeps.upd

theorem State.setRingIndex_keeps {s t : State} (h : Keeps s t) (ring off v : Nat) :
    Keeps s (t.setRingIndex ring off v) := by
  unfold State.setRingIndex
  with_reducible
    repeat' first
      | exact h
      | assumption
      | intro _
      | apply State.emit_keeps
      | dsimp only
      | apply Keeps.upd

theorem State.complete_keeps {s t : State} (h : Keeps s t) (a : AdmitArg) (rid : Nat) (k : AdmitKind) (status slot ageUs : Nat) :
    Keeps s (t.complete a rid k status slot ageUs) := by
  unfold State.complete
  with_reducible
    repeat' first
      | exact h
      | assumption
      | intro _
      | apply State.emit_keeps
      | apply State.setRingIndex_keeps
      | dsimp only
      | apply Keeps.upd

theorem State.endSequences_keeps {s t : State} (h : Keeps s t) (h0 : Fin 64) :
    Keeps s (t.endSequences h0) := by
  unfold State.endSequences
  with_reducible
    repeat' first
      | exact h
      | assumption
      | intro _
      | apply State.store1_keeps
      | apply State.onHeat_keeps
      | apply State.complete_keeps
      | refine Keeps.foldl ?_ _ ?_
      | refine Keeps.foldl_fst ?_ _ ?_
      | refine Keeps.of_fst (by assumption) ?_
      | refine Keeps.of_snd (by assumption) ?_
      | refine Keeps.of_third (by assumption) ?_
      | split
      | dsimp only
      | apply Keeps.upd

theorem State.releaseShared_keeps {s t : State} (h : Keeps s t) (h0 : Fin 64) :
    Keeps s (t.releaseShared h0) := by
  unfold State.releaseShared
  with_reducible
    repeat' first
      | exact h
      | assumption
      | intro _
      | apply State.raiseHeat_keeps
      | apply State.onCrew_keeps
      | refine Keeps.foldl ?_ _ ?_
      | refine Keeps.foldl_fst ?_ _ ?_
      | split
      | dsimp only
      | apply Keeps.upd

theorem State.schedule_keeps {s t : State} (h : Keeps s t) (c : Fin 4) :
    Keeps s (t.schedule c) := by
  unfold State.schedule
  with_reducible
    repeat' first
      | exact h
      | assumption
      | intro _
      | apply State.onHeat_keeps
      | refine Keeps.of_fst (by assumption) ?_
      | refine Keeps.of_snd (by assumption) ?_
      | refine Keeps.of_third (by assumption) ?_
      | split
      | dsimp only
      | apply Keeps.upd

theorem State.lateExchange_keeps {s t : State} (h : Keeps s t) (h0 : Fin 64) (l : Fin 4) (sem since w : Nat) :
    Keeps s (t.lateExchange h0 l sem since w) := by
  unfold State.lateExchange
  with_reducible
    repeat' first
      | exact h
      | assumption
      | intro _
      | apply State.raiseHeat_keeps
      | split
      | dsimp only
      | apply Keeps.upd

theorem State.countExchange_keeps {s t : State} (h : Keeps s t) (h0 : Fin 64) (l : Fin 4) (sem since w : Nat) :
    Keeps s (t.countExchange h0 l sem since w) := by
  unfold State.countExchange
  with_reducible
    repeat' first
      | exact h
      | assumption
      | intro _
      | apply State.bump_keeps
      | apply State.feed_keeps
      | apply State.lateExchange_keeps
      | dsimp only
      | apply Keeps.upd

theorem State.countStop_keeps {s t : State} (h : Keeps s t) (h0 : Fin 64) (l : Fin 4) (w : Nat) :
    Keeps s (t.countStop h0 l w) := by
  unfold State.countStop
  with_reducible
    repeat' first
      | exact h
      | assumption
      | intro _
      | apply State.bump_keeps
      | apply State.countExchange_keeps
      | refine Keeps.of_fst (by assumption) ?_
      | refine Keeps.of_snd (by assumption) ?_
      | refine Keeps.of_third (by assumption) ?_
      | split
      | dsimp only
      | apply Keeps.upd

theorem State.settleLanes_keeps {s t : State} (h : Keeps s t) (h0 : Fin 64) :
    Keeps s (t.settleLanes h0) := by
  unfold State.settleLanes
  with_reducible
    repeat' first
      | exact h
      | assumption
      | intro _
      | apply State.countStop_keeps
      | refine Keeps.foldl ?_ _ ?_
      | refine Keeps.foldl_fst ?_ _ ?_
      | dsimp only
      | apply Keeps.upd

theorem State.endHeat_keeps {s t : State} (h : Keeps s t) (h0 : Fin 64) (st : HeatStatus) :
    Keeps s (t.endHeat h0 st) := by
  unfold State.endHeat
  with_reducible
    repeat' first
      | exact h
      | assumption
      | intro _
      | apply State.onHeat_keeps
      | apply State.discardQueued_keeps
      | apply State.endSequences_keeps
      | apply State.releaseShared_keeps
      | apply State.schedule_keeps
      | apply State.settleLanes_keeps
      | refine Keeps.of_fst (by assumption) ?_
      | refine Keeps.of_snd (by assumption) ?_
      | refine Keeps.of_third (by assumption) ?_
      | split
      | dsimp only
      | apply Keeps.upd

theorem State.raiseBlade_keeps {s t : State} (h : Keeps s t) (n : Fin 4) (h0 : Fin 64) (code : Nat) (payload : List Int) :
    Keeps s (t.raiseBlade n h0 code payload) := by
  unfold State.raiseBlade
  with_reducible
    repeat' first
      | exact h
      | assumption
      | intro _
      | apply State.raiseOn_keeps
      | dsimp only
      | apply Keeps.upd

theorem State.faultFrom_keeps {s t : State} (h : Keeps s t) (n : Option (Fin 4)) (h0 : Fin 64) (l : Fin 4) (pc : Nat) (p : Plan) :
    Keeps s (t.faultFrom n h0 l pc p) := by
  unfold State.faultFrom
  with_reducible
    repeat' first
      | exact h
      | assumption
      | intro _
      | apply State.raiseHeat_keeps
      | apply State.onHeat_keeps
      | apply State.endHeat_keeps
      | apply State.raiseBlade_keeps
      | refine Keeps.of_fst (by assumption) ?_
      | refine Keeps.of_snd (by assumption) ?_
      | refine Keeps.of_third (by assumption) ?_
      | split
      | dsimp only
      | apply Keeps.upd

theorem State.faultHeat_keeps {s t : State} (h : Keeps s t) (h0 : Fin 64) (l : Fin 4) (pc : Nat) (p : Plan) :
    Keeps s (t.faultHeat h0 l pc p) := by
  unfold State.faultHeat
  with_reducible
    repeat' first
      | exact h
      | assumption
      | intro _
      | apply State.faultFrom_keeps
      | dsimp only
      | apply Keeps.upd

theorem State.setSem_keeps {s t : State} (h : Keeps s t) (h0 : Fin 64) (sem v : Nat) :
    Keeps s (t.setSem h0 sem v) := by
  unfold State.setSem
  with_reducible
    repeat' first
      | exact h
      | assumption
      | intro _
      | apply State.onHeat_keeps
      | apply State.onCrew_keeps
      | refine Keeps.of_fst (by assumption) ?_
      | refine Keeps.of_snd (by assumption) ?_
      | refine Keeps.of_third (by assumption) ?_
      | split
      | dsimp only
      | apply Keeps.upd

theorem State.post_keeps {s t : State} (h : Keeps s t) (h0 : Fin 64) (l : Fin 4) (pc sem n : Nat) :
    Keeps s (t.post h0 l pc sem n) := by
  unfold State.post
  with_reducible
    repeat' first
      | exact h
      | assumption
      | intro _
      | apply State.faultHeat_keeps
      | apply State.setSem_keeps
      | split
      | dsimp only
      | apply Keeps.upd

theorem State.postItem_keeps {s t : State} (h : Keeps s t) (q : QItem) :
    Keeps s (t.postItem q) := by
  unfold State.postItem
  with_reducible
    repeat' first
      | exact h
      | assumption
      | intro _
      | apply State.post_keeps
      | split
      | dsimp only
      | apply Keeps.upd

theorem State.stopLane_keeps {s t : State} (h : Keeps s t) (h0 : Fin 64) (l : Fin 4) (f : Lane → Lane) :
    Keeps s (t.stopLane h0 l f) := by
  unfold State.stopLane
  with_reducible
    repeat' first
      | exact h
      | assumption
      | intro _
      | apply State.onHeat_keeps
      | apply State.onLane_keeps
      | dsimp only
      | apply Keeps.upd

theorem State.setHolder_keeps {s t : State} (h : Keeps s t) (h0 : Fin 64) (sem : Nat) :
    Keeps s (t.setHolder h0 sem) := by
  unfold State.setHolder
  with_reducible
    repeat' first
      | exact h
      | assumption
      | intro _
      | apply State.onCrew_keeps
      | refine Keeps.of_fst (by assumption) ?_
      | refine Keeps.of_snd (by assumption) ?_
      | refine Keeps.of_third (by assumption) ?_
      | split
      | dsimp only
      | apply Keeps.upd

theorem State.grant_keeps {s t : State} (h : Keeps s t) (h0 : Fin 64) (l : Fin 4) :
    Keeps s (t.grant h0 l) := by
  unfold State.grant
  with_reducible
    repeat' first
      | exact h
      | assumption
      | intro _
      | apply State.bump_keeps
      | apply State.noteWin_keeps
      | apply State.onLane_keeps
      | apply State.countExchange_keeps
      | apply State.setSem_keeps
      | apply State.setHolder_keeps
      | refine Keeps.of_fst (by assumption) ?_
      | refine Keeps.of_snd (by assumption) ?_
      | refine Keeps.of_third (by assumption) ?_
      | split
      | dsimp only
      | apply Keeps.upd

theorem State.nextPc_keeps {s t : State} (h : Keeps s t) (h0 : Fin 64) (l : Fin 4) :
    Keeps s (t.nextPc h0 l) := by
  unfold State.nextPc
  with_reducible
    repeat' first
      | exact h
      | assumption
      | intro _
      | apply State.onLane_keeps
      | dsimp only
      | apply Keeps.upd

theorem State.enqueue_keeps {s t : State} (h : Keeps s t) (h0 : Fin 64) (l : Fin 4) (u : UnitId) (op : QOp) (csem : Nat) :
    Keeps s (t.enqueue h0 l u op csem) := by
  unfold State.enqueue
  with_reducible
    repeat' first
      | exact h
      | assumption
      | intro _
      | apply State.onLane_keeps
      | apply State.setQueue_keeps
      | apply State.nextPc_keeps
      | split
      | dsimp only
      | apply Keeps.upd

theorem State.writeBlock_keeps {s t : State} (h : Keeps s t) (a : Acc) (t0 : Tensor) (p q : Nat) (b : Block) :
    Keeps s (t.writeBlock a t0 p q b) := by
  unfold State.writeBlock
  with_reducible
    repeat' first
      | exact h
      | assumption
      | intro _
      | apply State.store1_keeps
      | apply State.store_keeps
      | refine Keeps.of_fst (by assumption) ?_
      | refine Keeps.of_snd (by assumption) ?_
      | refine Keeps.of_third (by assumption) ?_
      | split
      | dsimp only
      | apply Keeps.upd

theorem State.countEntryBy_keeps {s t : State} (h : Keeps s t) (t0 : Tensor) (read : Nat → Nat → Block) (ceil : Int) (r0 nr c0 nc : Nat) (ev : State → State) (hev : ∀ u, Keeps s u → Keeps s (ev u)) :
    Keeps s (t.countEntryBy t0 read ceil r0 nr c0 nc ev) := by
  unfold State.countEntryBy
  with_reducible
    repeat' first
      | exact h
      | assumption
      | intro _
      | apply State.bump_keeps
      | apply State.raiseTimes_keeps
      | dsimp only
      | apply Keeps.upd

theorem State.countEntry_keeps {s t : State} (h : Keeps s t) (a : Acc) (t0 : Tensor) (ceil : Int) (r0 nr c0 nc : Nat) (ev : State → State) (hev : ∀ u, Keeps s u → Keeps s (ev u)) :
    Keeps s (t.countEntry a t0 ceil r0 nr c0 nc ev) := by
  unfold State.countEntry
  with_reducible
    repeat' first
      | exact h
      | assumption
      | intro _
      | apply State.countEntryBy_keeps
      | dsimp only
      | apply Keeps.upd

theorem State.putWlElem_keeps {s t : State} (h : Keeps s t) (a : Acc) (t0 : Tensor) (r c : Nat) (x : Elem) :
    Keeps s (t.putWlElem a t0 r c x) := by
  unfold State.putWlElem
  with_reducible
    repeat' first
      | exact h
      | assumption
      | intro _
      | apply State.storeNat_keeps
      | dsimp only
      | apply Keeps.upd

theorem State.putWlExp_keeps {s t : State} (h : Keeps s t) (a : Acc) (t0 : Tensor) (r c : Nat) (e : Int) :
    Keeps s (t.putWlExp a t0 r c e) := by
  unfold State.putWlExp
  with_reducible
    repeat' first
      | exact h
      | assumption
      | intro _
      | apply State.storeNat_keeps
      | dsimp only
      | apply Keeps.upd

theorem State.putFlat_keeps {s t : State} (h : Keeps s t) (a : Acc) (t0 : Tensor) (r c : Nat) (x : Elem) :
    Keeps s (t.putFlat a t0 r c x) := by
  unfold State.putFlat
  with_reducible
    repeat' first
      | exact h
      | assumption
      | intro _
      | apply State.storeNat_keeps
      | dsimp only
      | apply Keeps.upd

theorem State.putStatus_keeps {s t : State} (h : Keeps s t) (a : Acc) (t0 : Tensor) (w : StatusWord) :
    Keeps s (t.putStatus a t0 w) := by
  unfold State.putStatus
  with_reducible
    repeat' first
      | exact h
      | assumption
      | intro _
      | apply State.storeNat_keeps
      | dsimp only
      | apply Keeps.upd

theorem State.updateStatus_keeps {s t : State} (h : Keeps s t) (a : Acc) (t0 : Tensor) (u : StatusWord) :
    Keeps s (t.updateStatus a t0 u) := by
  unfold State.updateStatus
  with_reducible
    repeat' first
      | exact h
      | assumption
      | intro _
      | apply State.putStatus_keeps
      | split
      | dsimp only
      | apply Keeps.upd

theorem State.putLedgerState_keeps {s t : State} (h : Keeps s t) (a : Acc) (addr contrib state owner : Nat) :
    Keeps s (t.putLedgerState a addr contrib state owner) := by
  unfold State.putLedgerState
  with_reducible
    repeat' first
      | exact h
      | assumption
      | intro _
      | apply State.storeNat_keeps
      | dsimp only
      | apply Keeps.upd

theorem State.putSmaxRow_keeps {s t : State} (h : Keeps s t) (a : Acc) (addr : Nat) (led : Ledger) (r k : Nat) (x : SmaxRow) (strip : Int) :
    Keeps s (t.putSmaxRow a addr led r k x strip) := by
  unfold State.putSmaxRow
  with_reducible
    repeat' first
      | exact h
      | assumption
      | intro _
      | apply State.storeNat_keeps
      | split
      | dsimp only
      | apply Keeps.upd

theorem State.addStatRows_keeps {s t : State} (h : Keeps s t) (a : Acc) (addr : Nat) (lam : Int)
    (rows : List (Nat × List (Elem × Int))) : Keeps s (t.addStatRows a addr lam rows).1 := by
  induction rows generalizing t with
  | nil => exact h
  | cons x rows ih =>
    unfold State.addStatRows
    with_reducible repeat' first
      | exact h
      | exact ih (by assumption)
      | apply ih
      | apply State.storeNat_keeps
      | apply State.store_keeps
      | apply State.putStatRow_keeps
      | split
      | dsimp only

theorem State.contribute_keeps {s t : State} (h : Keeps s t) (a : Acc) (addr groups owner : Nat) :
    Keeps s (t.contribute a addr groups owner) := by
  unfold State.contribute
  with_reducible
    repeat' first
      | exact h
      | assumption
      | intro _
      | apply State.putLedgerState_keeps
      | split
      | dsimp only
      | apply Keeps.upd

theorem State.mergeFlags_keeps {s t : State} (h : Keeps s t) (a : Acc) (addr : Nat) (u : CarryFlags) :
    Keeps s (t.mergeFlags a addr u) := by
  unfold State.mergeFlags
  with_reducible
    repeat' first
      | exact h
      | assumption
      | intro _
      | apply State.storeNat_keeps
      | dsimp only
      | apply Keeps.upd

theorem State.putRetained_keeps {s t : State} (h : Keeps s t) (n : Fin 4) (region ncol i j : Nat) (x : Elem) :
    Keeps s (t.putRetained n region ncol i j x) := by
  unfold State.putRetained
  with_reducible
    repeat' first
      | exact h
      | assumption
      | intro _
      | apply State.setCells_keeps
      | dsimp only
      | apply Keeps.upd

theorem State.putSums_keeps {s t : State} (h : Keeps s t) (n : Fin 4) (region ncol : Nat) (sums : List (List Elem)) :
    Keeps s (t.putSums n region ncol sums) := by
  unfold State.putSums
  with_reducible
    repeat' first
      | exact h
      | assumption
      | intro _
      | apply State.putRetained_keeps
      | refine Keeps.foldl ?_ _ ?_
      | refine Keeps.foldl_fst ?_ _ ?_
      | dsimp only
      | apply Keeps.upd

theorem State.putRegionRow_keeps {s t : State} (h : Keeps s t) (b : Fin 4) (p : Product) (i : Nat) (row : WorkRow) :
    Keeps s (t.putRegionRow b p i row) := by
  unfold State.putRegionRow
  with_reducible
    repeat' first
      | exact h
      | assumption
      | intro _
      | apply State.setCells_keeps
      | refine Keeps.foldl ?_ _ ?_
      | refine Keeps.foldl_fst ?_ _ ?_
      | dsimp only
      | apply Keeps.upd

theorem State.putWlRow_keeps {s t : State} (h : Keeps s t) (a : Acc) (o : Tensor) (p : Product) (i : Nat) (row : WorkRow) :
    Keeps s (t.putWlRow a o p i row) := by
  unfold State.putWlRow
  with_reducible
    repeat' first
      | exact h
      | assumption
      | intro _
      | apply State.putWlElem_keeps
      | apply State.putWlExp_keeps
      | refine Keeps.foldl ?_ _ ?_
      | refine Keeps.foldl_fst ?_ _ ?_
      | dsimp only
      | apply Keeps.upd

theorem State.onOar_keeps {s t : State} (h : Keeps s t) (o : Fin 24) (f : Oarlock → Oarlock) :
    Keeps s (t.onOar o f) := by
  unfold State.onOar
  with_reducible
    repeat' first
      | exact h
      | assumption
      | intro _
      | dsimp only
      | apply Keeps.upd

theorem State.onSweep_keeps {s t : State} (h : Keeps s t) (w : Fin 12) (f : Sweep → Sweep) :
    Keeps s (t.onSweep w f) := by
  unfold State.onSweep
  with_reducible
    repeat' first
      | exact h
      | assumption
      | intro _
      | apply State.onOar_keeps
      | dsimp only
      | apply Keeps.upd

theorem State.raiseOar_keeps {s t : State} (h : Keeps s t) (o : Fin 24) (code : Nat) (payload : List Int) :
    Keeps s (t.raiseOar o code payload) := by
  unfold State.raiseOar
  with_reducible
    repeat' first
      | exact h
      | assumption
      | intro _
      | apply State.raiseUnit_keeps
      | dsimp only
      | apply Keeps.upd

theorem State.raiseSweep_keeps {s t : State} (h : Keeps s t) (w : Nat) (code : Nat) (payload : List Int) :
    Keeps s (t.raiseSweep w code payload) := by
  unfold State.raiseSweep
  with_reducible
    repeat' first
      | exact h
      | assumption
      | intro _
      | apply State.raiseUnit_keeps
      | apply State.raiseOar_keeps
      | refine Keeps.of_fst (by assumption) ?_
      | refine Keeps.of_snd (by assumption) ?_
      | refine Keeps.of_third (by assumption) ?_
      | split
      | dsimp only
      | apply Keeps.upd

theorem State.sendWord_keeps {s t : State} (h : Keeps s t) (o : Fin 24) (w : CtlWord) :
    Keeps s (t.sendWord o w) := by
  unfold State.sendWord
  with_reducible
    repeat' first
      | exact h
      | assumption
      | intro _
      | apply State.emit_keeps
      | dsimp only
      | apply Keeps.upd

theorem State.fillIdle_keeps {s t : State} (h : Keeps s t) (o : Fin 24) :
    Keeps s (t.fillIdle o) := by
  unfold State.fillIdle
  with_reducible
    repeat' first
      | exact h
      | assumption
      | intro _
      | apply State.onOar_keeps
      | apply State.sendWord_keeps
      | apply State.idle_keeps
      | refine Keeps.of_fst (by assumption) ?_
      | refine Keeps.of_snd (by assumption) ?_
      | refine Keeps.of_third (by assumption) ?_
      | split
      | dsimp only
      | apply Keeps.upd

theorem State.repeatIdle_keeps {s t : State} (h : Keeps s t) (o : Fin 24) (us : Nat) :
    Keeps s (t.repeatIdle o us) := by
  unfold State.repeatIdle
  with_reducible
    repeat' first
      | exact h
      | assumption
      | intro _
      | apply State.emit_keeps
      | apply State.idle_keeps
      | refine Keeps.of_fst (by assumption) ?_
      | refine Keeps.of_snd (by assumption) ?_
      | refine Keeps.of_third (by assumption) ?_
      | split
      | dsimp only
      | apply Keeps.upd

theorem State.sendAck_keeps {s t : State} (h : Keeps s t) (o : Fin 24) (nak : Bool) :
    Keeps s (t.sendAck o nak) := by
  unfold State.sendAck
  with_reducible
    repeat' first
      | exact h
      | assumption
      | intro _
      | apply State.onOar_keeps
      | apply State.sendWord_keeps
      | split
      | dsimp only
      | apply Keeps.upd

theorem State.topUp_keeps {s t : State} (h : Keeps s t) (w : Fin 12) :
    Keeps s (t.topUp w) := by
  unfold State.topUp
  with_reducible
    repeat' first
      | exact h
      | assumption
      | intro _
      | apply State.onSweep_keeps
      | apply State.sendWord_keeps
      | refine Keeps.foldl ?_ _ ?_
      | refine Keeps.foldl_fst ?_ _ ?_
      | refine Keeps.of_fst (by assumption) ?_
      | refine Keeps.of_snd (by assumption) ?_
      | refine Keeps.of_third (by assumption) ?_
      | split
      | dsimp only
      | apply Keeps.upd

theorem State.freeCredit_keeps {s t : State} (h : Keeps s t) (w : Fin 12) (crew vc : Nat) :
    Keeps s (t.freeCredit w crew vc) := by
  unfold State.freeCredit
  with_reducible
    repeat' first
      | exact h
      | assumption
      | intro _
      | apply State.onSweep_keeps
      | apply State.topUp_keeps
      | dsimp only
      | apply Keeps.upd

theorem State.transmit_keeps {s t : State} (h : Keeps s t) (o : Fin 24) (f : WaitFrame) :
    Keeps s (t.transmit o f) := by
  unfold State.transmit
  with_reducible
    repeat' first
      | exact h
      | assumption
      | intro _
      | apply State.setEntry_keeps
      | apply State.bump_keeps
      | apply State.emit_keeps
      | apply State.onOar_keeps
      | apply State.freeCredit_keeps
      | refine Keeps.of_fst (by assumption) ?_
      | refine Keeps.of_snd (by assumption) ?_
      | refine Keeps.of_third (by assumption) ?_
      | split
      | dsimp only
      | apply Keeps.upd

theorem State.noteEgress_keeps {s t : State} (h : Keeps s t) (w : Fin 12) (o : Fin 24) (f : WaitFrame) :
    Keeps s (t.noteEgress w o f) := by
  unfold State.noteEgress
  with_reducible
    repeat' first
      | exact h
      | assumption
      | intro _
      | apply State.noteWin_keeps
      | split
      | dsimp only
      | apply Keeps.upd

theorem State.pumpN_keeps {s t : State} (w : Fin 12) (fuel : Nat) (h : Keeps s t) : Keeps s (State.pumpN w fuel t) := by
  induction fuel generalizing t with
  | zero => exact h
  | succ fuel ih =>
    unfold State.pumpN
    with_reducible
    repeat' first
      | exact h
      | exact ih
      | assumption
      | intro _
      | apply ih
      | apply State.onSweep_keeps
      | apply State.transmit_keeps
      | apply State.noteEgress_keeps
      | refine Keeps.of_fst (by assumption) ?_
      | refine Keeps.of_snd (by assumption) ?_
      | refine Keeps.of_third (by assumption) ?_
      | split
      | dsimp only
      | apply Keeps.upd

theorem State.settleCredit_keeps {s t : State} (h : Keeps s t) (w : Fin 12) :
    Keeps s (t.settleCredit w) := by
  unfold State.settleCredit
  with_reducible
    repeat' first
      | exact h
      | assumption
      | intro _
      | apply State.bump_keeps
      | apply State.onSweep_keeps
      | refine Keeps.of_fst (by assumption) ?_
      | refine Keeps.of_snd (by assumption) ?_
      | refine Keeps.of_third (by assumption) ?_
      | split
      | dsimp only
      | apply Keeps.upd

theorem State.pump_keeps {s t : State} (h : Keeps s t) (w : Fin 12) :
    Keeps s (t.pump w) := by
  unfold State.pump
  with_reducible
    repeat' first
      | exact h
      | assumption
      | intro _
      | apply State.pumpN_keeps
      | apply State.settleCredit_keeps
      | dsimp only
      | apply Keeps.upd

theorem State.sendFrame_keeps {s t : State} (h : Keeps s t) (w : Nat) (f : WaitFrame) :
    Keeps s (t.sendFrame w f) := by
  unfold State.sendFrame
  with_reducible
    repeat' first
      | exact h
      | assumption
      | intro _
      | apply State.onSweep_keeps
      | apply State.pump_keeps
      | split
      | dsimp only
      | apply Keeps.upd

theorem State.openWindows_keeps {s t : State} (h : Keeps s t)  :
    Keeps s (t.openWindows) := by
  unfold State.openWindows
  with_reducible
    repeat' first
      | exact h
      | assumption
      | intro _
      | apply State.bump_keeps
      | apply State.sendFrame_keeps
      | refine Keeps.foldl ?_ _ ?_
      | refine Keeps.foldl_fst ?_ _ ?_
      | split
      | dsimp only
      | apply Keeps.upd

theorem State.sendSegment_keeps {s t : State} (h : Keeps s t) (w : Nat) (f : WaitFrame) :
    Keeps s (t.sendSegment w f) := by
  unfold State.sendSegment
  with_reducible
    repeat' first
      | exact h
      | assumption
      | intro _
      | apply State.openWindows_keeps
      | split
      | dsimp only
      | apply Keeps.upd

theorem State.freeSlotCredits_keeps {s t : State} (h : Keeps s t) (crew : Nat) (sweeps : List Nat) :
    Keeps s (t.freeSlotCredits crew sweeps) := by
  unfold State.freeSlotCredits
  with_reducible
    repeat' first
      | exact h
      | assumption
      | intro _
      | apply State.freeCredit_keeps
      | refine Keeps.foldl ?_ _ ?_
      | refine Keeps.foldl_fst ?_ _ ?_
      | dsimp only
      | apply Keeps.upd

theorem State.beginWait_keeps {s t : State} (h : Keeps s t) (h0 : Fin 64) (l : Fin 4) (sem n : Nat) (consume xwin acquire : Bool) :
    Keeps s (t.beginWait h0 l sem n consume xwin acquire) := by
  unfold State.beginWait
  with_reducible
    repeat' first
      | exact h
      | assumption
      | intro _
      | apply State.onLane_keeps
      | apply State.faultHeat_keeps
      | apply State.grant_keeps
      | split
      | dsimp only
      | apply Keeps.upd

theorem State.wakeFences_keeps {s t : State} (h : Keeps s t) (h0 : Fin 64) :
    Keeps s (t.wakeFences h0) := by
  unfold State.wakeFences
  with_reducible
    repeat' first
      | exact h
      | assumption
      | intro _
      | apply State.bump_keeps
      | apply State.onLane_keeps
      | refine Keeps.foldl ?_ _ ?_
      | refine Keeps.foldl_fst ?_ _ ?_
      | refine Keeps.of_fst (by assumption) ?_
      | refine Keeps.of_snd (by assumption) ?_
      | refine Keeps.of_third (by assumption) ?_
      | split
      | dsimp only
      | apply Keeps.upd

theorem State.noteSlack_keeps {s t : State} (h : Keeps s t) (slack : Int) (overrun : Bool) :
    Keeps s (t.noteSlack slack overrun) := by
  unfold State.noteSlack
  with_reducible
    repeat' first
      | exact h
      | assumption
      | intro _
      | split
      | dsimp only
      | apply Keeps.upd

theorem State.closeFrame_keeps {s t : State} (h : Keeps s t) (h0 : Fin 64) (l : Fin 4) :
    Keeps s (t.closeFrame h0 l) := by
  unfold State.closeFrame
  with_reducible
    repeat' first
      | exact h
      | assumption
      | intro _
      | apply State.setEntry_keeps
      | apply State.bump_keeps
      | apply State.raiseHeat_keeps
      | apply State.feed_keeps
      | apply State.noteSlack_keeps
      | split
      | dsimp only
      | apply Keeps.upd

theorem State.onSlip_keeps {s t : State} (h : Keeps s t) (c : Fin 4) (f : Slipway → Slipway) :
    Keeps s (t.onSlip c f) := by
  unfold State.onSlip
  with_reducible
    repeat' first
      | exact h
      | assumption
      | intro _
      | dsimp only
      | apply Keeps.upd

theorem State.loseSlots_keeps {s t : State} (h : Keeps s t) (r : Fin 64) :
    Keeps s (t.loseSlots r) := by
  unfold State.loseSlots
  with_reducible
    repeat' first
      | exact h
      | assumption
      | intro _
      | apply State.onSlip_keeps
      | refine Keeps.foldl ?_ _ ?_
      | refine Keeps.foldl_fst ?_ _ ?_
      | split
      | dsimp only
      | apply Keeps.upd

theorem State.closeTag_keeps {s t : State} (h : Keeps s t) (tag : Nat) :
    Keeps s (t.closeTag tag) := by
  unfold State.closeTag
  with_reducible
    repeat' first
      | exact h
      | assumption
      | intro _
      | split
      | dsimp only
      | apply Keeps.upd

theorem State.settlePeerWait_keeps {s t : State} (h : Keeps s t) (c : Fin 4) :
    Keeps s (t.settlePeerWait c) := by
  unfold State.settlePeerWait
  with_reducible
    repeat' first
      | exact h
      | assumption
      | intro _
      | apply State.bump_keeps
      | apply State.onCrew_keeps
      | refine Keeps.of_fst (by assumption) ?_
      | refine Keeps.of_snd (by assumption) ?_
      | refine Keeps.of_third (by assumption) ?_
      | split
      | dsimp only
      | apply Keeps.upd

theorem State.dropCollectives_keeps {s t : State} (h : Keeps s t) (c : Fin 4) :
    Keeps s (t.dropCollectives c) := by
  unfold State.dropCollectives
  with_reducible
    repeat' first
      | exact h
      | assumption
      | intro _
      | apply State.closeTag_keeps
      | apply State.settlePeerWait_keeps
      | refine Keeps.foldl ?_ _ ?_
      | refine Keeps.foldl_fst ?_ _ ?_
      | split
      | dsimp only
      | apply Keeps.upd

theorem State.abandonSlipway_keeps {s t : State} (h : Keeps s t) (c : Fin 4) :
    Keeps s (t.abandonSlipway c) := by
  unfold State.abandonSlipway
  with_reducible
    repeat' first
      | exact h
      | assumption
      | intro _
      | apply State.raise_keeps
      | apply State.settleCredit_keeps
      | apply State.onSlip_keeps
      | apply State.receive_keeps
      | refine Keeps.foldl ?_ _ ?_
      | refine Keeps.foldl_fst ?_ _ ?_
      | refine Keeps.of_fst (by assumption) ?_
      | refine Keeps.of_snd (by assumption) ?_
      | refine Keeps.of_third (by assumption) ?_
      | split
      | dsimp only
      | apply Keeps.upd

theorem State.sendStops_keeps {s t : State} (h : Keeps s t) (c : Fin 4) (i : StopInfo) (from_ : Option Nat) :
    Keeps s (t.sendStops c i from_) := by
  unfold State.sendStops
  with_reducible
    repeat' first
      | exact h
      | assumption
      | intro _
      | apply State.bump_keeps
      | apply State.sendFrame_keeps
      | refine Keeps.foldl ?_ _ ?_
      | refine Keeps.foldl_fst ?_ _ ?_
      | split
      | dsimp only
      | apply Keeps.upd

theorem State.endHeats_keeps {s t : State} (h : Keeps s t) (c : Fin 4) :
    Keeps s (t.endHeats c) := by
  unfold State.endHeats
  with_reducible
    repeat' first
      | exact h
      | assumption
      | intro _
      | apply State.onHeat_keeps
      | apply State.endHeat_keeps
      | apply State.idle_keeps
      | refine Keeps.foldl ?_ _ ?_
      | refine Keeps.foldl_fst ?_ _ ?_
      | split
      | dsimp only
      | apply Keeps.upd

theorem State.stopWith_keeps {s t : State} (h : Keeps s t) (c : Fin 4) (i : StopInfo) (from_ : Option Nat) :
    Keeps s (t.stopWith c i from_) := by
  unfold State.stopWith
  with_reducible
    repeat' first
      | exact h
      | assumption
      | intro _
      | apply State.setBlob_keeps
      | apply State.raiseOn_keeps
      | apply State.onCrew_keeps
      | apply State.dropCollectives_keeps
      | apply State.abandonSlipway_keeps
      | apply State.sendStops_keeps
      | apply State.endHeats_keeps
      | refine Keeps.of_fst (by assumption) ?_
      | refine Keeps.of_snd (by assumption) ?_
      | refine Keeps.of_third (by assumption) ?_
      | split
      | dsimp only
      | apply Keeps.upd

theorem State.stopJob_keeps {s t : State} (h : Keeps s t) (c : Fin 4) (cause : StopCause) (oar : Nat) :
    Keeps s (t.stopJob c cause oar) := by
  unfold State.stopJob
  with_reducible
    repeat' first
      | exact h
      | assumption
      | intro _
      | apply State.stopWith_keeps
      | dsimp only
      | apply Keeps.upd

theorem State.bringIn_keeps {s t : State} (h : Keeps s t) (d : Fin 2) (crew domain line : Nat) (pre : Bool) :
    Keeps s (t.bringIn d crew domain line pre) := by
  unfold State.bringIn
  with_reducible
    repeat' first
      | exact h
      | assumption
      | intro _
      | apply State.bump_keeps
      | refine Keeps.of_fst (by assumption) ?_
      | refine Keeps.of_snd (by assumption) ?_
      | refine Keeps.of_third (by assumption) ?_
      | split
      | dsimp only
      | apply Keeps.upd

theorem State.track_keeps {s t : State} (h : Keeps s t) (d : Fin 2) (crew domain line : Nat) (miss : Bool) :
    Keeps s (t.track d crew domain line miss) := by
  unfold State.track
  with_reducible
    repeat' first
      | exact h
      | assumption
      | intro _
      | apply State.onDie_keeps
      | apply State.bringIn_keeps
      | refine Keeps.foldl ?_ _ ?_
      | refine Keeps.foldl_fst ?_ _ ?_
      | refine Keeps.of_fst (by assumption) ?_
      | refine Keeps.of_snd (by assumption) ?_
      | refine Keeps.of_third (by assumption) ?_
      | split
      | dsimp only
      | apply Keeps.upd

theorem State.lookUp_keeps {s t : State} (h : Keeps s t) (crew domain line : Nat) :
    Keeps s (t.lookUp crew domain line).2 := by
  unfold State.lookUp
  with_reducible
    repeat' first
      | exact h
      | assumption
      | intro _
      | apply State.bump_keeps
      | apply State.onDie_keeps
      | apply State.bringIn_keeps
      | apply State.track_keeps
      | refine Keeps.of_fst (by assumption) ?_
      | refine Keeps.of_snd (by assumption) ?_
      | refine Keeps.of_third (by assumption) ?_
      | split
      | dsimp only
      | apply Keeps.upd

theorem State.dropLostWays_keeps {s t : State} (h : Keeps s t)  :
    Keeps s (t.dropLostWays) := by
  unfold State.dropLostWays
  with_reducible
    repeat' first
      | exact h
      | assumption
      | intro _
      | dsimp only
      | apply Keeps.upd

theorem State.invalidateRegion_keeps {s t : State} (h : Keeps s t) (r : Fin 64) :
    Keeps s (t.invalidateRegion r) := by
  unfold State.invalidateRegion
  with_reducible
    repeat' first
      | exact h
      | assumption
      | intro _
      | dsimp only
      | apply Keeps.upd

theorem State.promote_keeps {s t : State} (h : Keeps s t) (d : Fin 2) (p : PinEntry) :
    Keeps s (t.promote d p) := by
  unfold State.promote
  with_reducible
    repeat' first
      | exact h
      | assumption
      | intro _
      | apply State.bump_keeps
      | apply State.onDie_keeps
      | refine Keeps.foldl ?_ _ ?_
      | refine Keeps.foldl_fst ?_ _ ?_
      | refine Keeps.of_fst (by assumption) ?_
      | refine Keeps.of_snd (by assumption) ?_
      | refine Keeps.of_third (by assumption) ?_
      | split
      | dsimp only
      | apply Keeps.upd

theorem State.pinOn_keeps {s t : State} (h : Keeps s t) (d : Fin 2) (h0 : Fin 64) (line lines : Nat) (shared : Bool) :
    Keeps s (t.pinOn d h0 line lines shared) := by
  unfold State.pinOn
  with_reducible
    repeat' first
      | exact h
      | assumption
      | intro _
      | apply State.bump_keeps
      | apply State.onDie_keeps
      | apply State.promote_keeps
      | refine Keeps.of_fst (by assumption) ?_
      | refine Keeps.of_snd (by assumption) ?_
      | refine Keeps.of_third (by assumption) ?_
      | split
      | dsimp only
      | apply Keeps.upd

theorem State.unpinOn_keeps {s t : State} (h : Keeps s t) (d : Fin 2) (h0 : Fin 64) (line lines : Nat) :
    Keeps s (t.unpinOn d h0 line lines) := by
  unfold State.unpinOn
  with_reducible
    repeat' first
      | exact h
      | assumption
      | intro _
      | apply State.onDie_keeps
      | split
      | dsimp only
      | apply Keeps.upd

theorem State.touchPack_keeps {s t : State} (h : Keeps s t) (crew : Nat) (r : Fin 64) (p : Nat) :
    Keeps s (t.touchPack crew r p) := by
  unfold State.touchPack
  with_reducible
    repeat' first
      | exact h
      | assumption
      | intro _
      | apply State.bump_keeps
      | apply State.draw_keeps
      | apply State.onDie_keeps
      | refine Keeps.of_fst (by assumption) ?_
      | refine Keeps.of_snd (by assumption) ?_
      | refine Keeps.of_third (by assumption) ?_
      | split
      | dsimp only
      | apply Keeps.upd

theorem State.startRetrain_keeps {s t : State} (h : Keeps s t)  :
    Keeps s (t.startRetrain) := by
  unfold State.startRetrain
  with_reducible
    repeat' first
      | exact h
      | assumption
      | intro _
      | apply State.onChannel_keeps
      | refine Keeps.of_fst (by assumption) ?_
      | refine Keeps.of_snd (by assumption) ?_
      | refine Keeps.of_third (by assumption) ?_
      | split
      | dsimp only
      | apply Keeps.upd

theorem State.failChannel_keeps {s t : State} (h : Keeps s t) (ch : Fin 384) :
    Keeps s (t.failChannel ch) := by
  unfold State.failChannel
  with_reducible
    repeat' first
      | exact h
      | assumption
      | intro _
      | apply State.raiseUnit_keeps
      | apply State.onChannel_keeps
      | apply State.stopJob_keeps
      | apply State.startRetrain_keeps
      | refine Keeps.foldl ?_ _ ?_
      | refine Keeps.foldl_fst ?_ _ ?_
      | split
      | dsimp only
      | apply Keeps.upd

theorem State.integrityFailure_keeps {s t : State} (h : Keeps s t) (ch : Fin 384) (addr crew : Nat) :
    Keeps s (t.integrityFailure ch addr crew) := by
  unfold State.integrityFailure
  with_reducible
    repeat' first
      | exact h
      | assumption
      | intro _
      | apply State.bump_keeps
      | apply State.raiseOn_keeps
      | apply State.onChannel_keeps
      | apply State.stopJob_keeps
      | apply State.failChannel_keeps
      | split
      | dsimp only
      | apply Keeps.upd

theorem State.chargeWaits_keeps {s t : State} (h : Keeps s t) (crew : Nat) (waits : List (BitVec 12)) :
    Keeps s (t.chargeWaits crew waits) := by
  unfold State.chargeWaits
  with_reducible
    repeat' first
      | exact h
      | assumption
      | intro _
      | apply State.bump_keeps
      | refine Keeps.foldl ?_ _ ?_
      | refine Keeps.foldl_fst ?_ _ ?_
      | refine Keeps.of_fst (by assumption) ?_
      | refine Keeps.of_snd (by assumption) ?_
      | refine Keeps.of_third (by assumption) ?_
      | split
      | dsimp only
      | apply Keeps.upd

theorem State.chargeRetries_keeps {s t : State} (h : Keeps s t) (crew n : Nat) :
    Keeps s (t.chargeRetries crew n) := by
  unfold State.chargeRetries
  with_reducible
    repeat' first
      | exact h
      | assumption
      | intro _
      | apply State.bump_keeps
      | apply State.draw_keeps
      | refine Keeps.of_fst (by assumption) ?_
      | refine Keeps.of_snd (by assumption) ?_
      | refine Keeps.of_third (by assumption) ?_
      | split
      | dsimp only
      | apply Keeps.upd

theorem State.requestWaits_keeps {s t : State} (h : Keeps s t) (crew : Nat) (ch : Fin 384) (waits : List (BitVec 12)) :
    Keeps s (t.requestWaits crew ch waits) := by
  unfold State.requestWaits
  with_reducible
    repeat' first
      | exact h
      | assumption
      | intro _
      | apply State.bump_keeps
      | apply State.chargeWaits_keeps
      | refine Keeps.of_fst (by assumption) ?_
      | refine Keeps.of_snd (by assumption) ?_
      | refine Keeps.of_third (by assumption) ?_
      | split
      | dsimp only
      | apply Keeps.upd

theorem State.bufferUnit_keeps {s t : State} (h : Keeps s t) (ch : Fin 384) (unit : Nat) :
    Keeps s (t.bufferUnit ch unit) := by
  unfold State.bufferUnit
  with_reducible
    repeat' first
      | exact h
      | assumption
      | intro _
      | apply State.onChannel_keeps
      | dsimp only
      | apply Keeps.upd

theorem State.readUnitP_keeps {s t : State} (h : Keeps s t) (ch : Fin 384) (unit addr crew mism ecc : Nat) :
    Keeps s (t.readUnit' ch unit addr crew mism ecc).2 := by
  unfold State.readUnit'
  with_reducible
    repeat' first
      | exact h
      | assumption
      | intro _
      | apply State.bump_keeps
      | apply State.integrityFailure_keeps
      | apply State.chargeRetries_keeps
      | apply State.bufferUnit_keeps
      | split
      | dsimp only
      | apply Keeps.upd

theorem State.readUnits_keeps {s t : State} (h : Keeps s t) (ch : Fin 384) (units : List Nat) (addr crew mism ecc : Nat) :
    Keeps s (t.readUnits ch units addr crew mism ecc).2 := by
  unfold State.readUnits
  with_reducible
    repeat' first
      | exact h
      | assumption
      | intro _
      | apply State.bufferUnit_keeps
      | apply State.readUnitP_keeps
      | refine Keeps.foldl ?_ _ ?_
      | refine Keeps.foldl_fst ?_ _ ?_
      | refine Keeps.of_fst (by assumption) ?_
      | refine Keeps.of_snd (by assumption) ?_
      | refine Keeps.of_third (by assumption) ?_
      | split
      | dsimp only
      | apply Keeps.upd

theorem State.emitUnit_keeps {s t : State} (h : Keeps s t) (ch unit : Nat) :
    Keeps s (t.emitUnit ch unit) := by
  unfold State.emitUnit
  with_reducible
    repeat' first
      | exact h
      | assumption
      | intro _
      | apply State.emit_keeps
      | refine Keeps.of_fst (by assumption) ?_
      | refine Keeps.of_snd (by assumption) ?_
      | refine Keeps.of_third (by assumption) ?_
      | split
      | dsimp only
      | apply Keeps.upd

theorem State.holdPart_keeps {s t : State} (h : Keeps s t) (crew : Nat) (ch : Fin 384) (dev n addr : Nat) :
    Keeps s (t.holdPart crew ch dev n addr) := by
  unfold State.holdPart
  with_reducible
    repeat' first
      | exact h
      | assumption
      | intro _
      | apply State.bump_keeps
      | apply State.onChannel_keeps
      | apply State.emitUnit_keeps
      | split
      | dsimp only
      | apply Keeps.upd

theorem State.writeParts_keeps {s t : State} (h : Keeps s t) (a : Acc) (addr : Nat) (bytes : List Byte) (waits : List (BitVec 12)) :
    Keeps s (t.writeParts a addr bytes waits) := by
  unfold State.writeParts
  with_reducible
    repeat' first
      | exact h
      | assumption
      | intro _
      | apply State.store_keeps
      | apply State.requestWaits_keeps
      | apply State.holdPart_keeps
      | refine Keeps.foldl ?_ _ ?_
      | refine Keeps.foldl_fst ?_ _ ?_
      | refine Keeps.of_fst (by assumption) ?_
      | refine Keeps.of_snd (by assumption) ?_
      | refine Keeps.of_third (by assumption) ?_
      | split
      | dsimp only
      | apply Keeps.upd

theorem State.memReport_keeps {s t : State} (h : Keeps s t) (crew : Nat) (r : MemReport) :
    Keeps s (t.memReport crew r).2 := by
  unfold State.memReport
  with_reducible
    repeat' first
      | exact h
      | assumption
      | intro _
      | apply State.bump_keeps
      | apply State.integrityFailure_keeps
      | apply State.chargeWaits_keeps
      | apply State.chargeRetries_keeps
      | refine Keeps.foldl ?_ _ ?_
      | refine Keeps.foldl_fst ?_ _ ?_
      | refine Keeps.of_fst (by assumption) ?_
      | refine Keeps.of_snd (by assumption) ?_
      | refine Keeps.of_third (by assumption) ?_
      | split
      | dsimp only
      | apply Keeps.upd

theorem State.readLine_keeps {s t : State} (h : Keeps s t) (crew dom : Nat) (look : Bool) (line : Nat) :
    Keeps s (t.readLine crew dom look line) := by
  unfold State.readLine
  with_reducible
    repeat' first
      | exact h
      | assumption
      | intro _
      | apply State.lookUp_keeps
      | apply State.bufferUnit_keeps
      | refine Keeps.of_fst (by assumption) ?_
      | refine Keeps.of_snd (by assumption) ?_
      | refine Keeps.of_third (by assumption) ?_
      | split
      | dsimp only
      | apply Keeps.upd

theorem State.readSpans_keeps {s t : State} (h : Keeps s t) (crew dom : Nat) (look : Bool) (xs : List Span) :
    Keeps s (t.readSpans crew dom look xs) := by
  unfold State.readSpans
  with_reducible
    repeat' first
      | exact h
      | assumption
      | intro _
      | apply State.readLine_keeps
      | refine Keeps.foldl ?_ _ ?_
      | refine Keeps.foldl_fst ?_ _ ?_
      | dsimp only
      | apply Keeps.upd

theorem State.holdSpans_keeps {s t : State} (h : Keeps s t) (crew : Nat) (xs : List Span) :
    Keeps s (t.holdSpans crew xs) := by
  unfold State.holdSpans
  with_reducible
    repeat' first
      | exact h
      | assumption
      | intro _
      | apply State.holdPart_keeps
      | refine Keeps.foldl ?_ _ ?_
      | refine Keeps.foldl_fst ?_ _ ?_
      | refine Keeps.of_fst (by assumption) ?_
      | refine Keeps.of_snd (by assumption) ?_
      | refine Keeps.of_third (by assumption) ?_
      | split
      | dsimp only
      | apply Keeps.upd

theorem State.openRetrain_keeps {s t : State} (h : Keeps s t)  :
    Keeps s (t.openRetrain) := by
  unfold State.openRetrain
  with_reducible
    repeat' first
      | exact h
      | assumption
      | intro _
      | apply State.startRetrain_keeps
      | split
      | dsimp only
      | apply Keeps.upd

theorem State.zeroRegion_keeps {s t : State} (h : Keeps s t) (g : Region) : Keeps s (t.zeroRegion g) :=
  ⟨h.pending, fun k => sparseWf_filter _ (h.canon k)⟩

theorem State.invalidate_keeps {s t : State} (h : Keeps s t) (r : Fin 64) :
    Keeps s (t.invalidate r) := by
  unfold State.invalidate
  with_reducible
    repeat' first
      | exact h
      | assumption
      | intro _
      | apply State.raiseRegion_keeps
      | apply State.onRegion_keeps
      | apply State.loseSlots_keeps
      | apply State.invalidateRegion_keeps
      | dsimp only
      | apply Keeps.upd

theorem State.mapOut_keeps {s t : State} (h : Keeps s t)  :
    Keeps s (t.mapOut) := by
  unfold State.mapOut
  with_reducible
    repeat' first
      | exact h
      | assumption
      | intro _
      | apply State.raiseUnit_keeps
      | apply State.onChannel_keeps
      | apply State.invalidate_keeps
      | refine Keeps.foldl ?_ _ ?_
      | refine Keeps.foldl_fst ?_ _ ?_
      | split
      | dsimp only
      | apply Keeps.upd

end Sys2Proof.Machine
end

