-- ==== Sys2Proof/Laws/KeepsUnits.lean ====
section
/-! SUPPORT. The frame of the operations of Blades, Sculls and control flow. -/
namespace Sys2Proof.Machine

theorem State.countStream_keeps {s t : State} (h : Keeps s t) (n : Fin 4) (j : BladeJob) (pro : List RStage) :
    Keeps s (t.countStream n j pro) := by
  unfold State.countStream
  with_reducible
    repeat' first
      | exact h
      | assumption
      | intro _
      | apply State.raiseBlade_keeps
      | apply State.countEntryBy_keeps
      | refine Keeps.foldl ?_ _ ?_
      | refine Keeps.foldl_fst ?_ _ ?_
      | refine Keeps.of_fst (by assumption) ?_
      | refine Keeps.of_snd (by assumption) ?_
      | refine Keeps.of_third (by assumption) ?_
      | split
      | dsimp only
      | apply Keeps.upd

theorem State.writeRows_keeps {s t : State} (h : Keeps s t) (n : Fin 4) (r : BladeRun) :
    Keeps s (t.writeRows n r) := by
  unfold State.writeRows
  with_reducible
    repeat' first
      | exact h
      | assumption
      | intro _
      | apply State.bump_keeps
      | apply State.putRegionRow_keeps
      | apply State.putWlRow_keeps
      | refine Keeps.foldl ?_ _ ?_
      | refine Keeps.foldl_fst ?_ _ ?_
      | split
      | dsimp only
      | apply Keeps.upd

theorem State.stream_keeps {s t : State} (h : Keeps s t) (n : Fin 4) (j : BladeJob) :
    Keeps s (t.stream n j) := by
  unfold State.stream
  with_reducible
    repeat' first
      | exact h
      | assumption
      | intro _
      | apply State.bump_keeps
      | apply State.onBlade_keeps
      | apply State.raiseBlade_keeps
      | apply State.countEntry_keeps
      | apply State.putSums_keeps
      | apply State.countStream_keeps
      | apply State.writeRows_keeps
      | refine Keeps.foldl ?_ _ ?_
      | refine Keeps.foldl_fst ?_ _ ?_
      | refine Keeps.of_fst (by assumption) ?_
      | refine Keeps.of_snd (by assumption) ?_
      | refine Keeps.of_third (by assumption) ?_
      | split
      | dsimp only
      | apply Keeps.upd

theorem State.countArrivals_keeps {s t : State} (h : Keeps s t) (n : Fin 4) (j : BladeJob) :
    Keeps s (t.countArrivals n j) := by
  unfold State.countArrivals
  with_reducible
    repeat' first
      | exact h
      | assumption
      | intro _
      | apply State.onBlade_keeps
      | apply State.post_keeps
      | refine Keeps.of_fst (by assumption) ?_
      | refine Keeps.of_snd (by assumption) ?_
      | refine Keeps.of_third (by assumption) ?_
      | split
      | dsimp only
      | apply Keeps.upd

theorem State.countLanded_keeps {s t : State} (h : Keeps s t) (n : Fin 4) (r : Fin 64) :
    Keeps s (t.countLanded n r) := by
  unfold State.countLanded
  with_reducible
    repeat' first
      | exact h
      | assumption
      | intro _
      | apply State.countArrivals_keeps
      | refine Keeps.of_fst (by assumption) ?_
      | refine Keeps.of_snd (by assumption) ?_
      | refine Keeps.of_third (by assumption) ?_
      | split
      | dsimp only
      | apply Keeps.upd

theorem State.tryStream_keeps {s t : State} (h : Keeps s t) (n : Fin 4) :
    Keeps s (t.tryStream n) := by
  unfold State.tryStream
  with_reducible
    repeat' first
      | exact h
      | assumption
      | intro _
      | apply State.onBlade_keeps
      | apply State.integrityFailure_keeps
      | apply State.readSpans_keeps
      | apply State.stream_keeps
      | apply State.countArrivals_keeps
      | refine Keeps.of_fst (by assumption) ?_
      | refine Keeps.of_snd (by assumption) ?_
      | refine Keeps.of_third (by assumption) ?_
      | split
      | dsimp only
      | apply Keeps.upd

theorem State.openLedger_keeps {s t : State} (h : Keeps s t) (a : Acc) (addr : Nat) :
    Keeps s (t.openLedger a addr) := by
  unfold State.openLedger
  with_reducible
    repeat' first
      | exact h
      | assumption
      | intro _
      | apply State.store_keeps
      | apply State.storeNat_keeps
      | apply State.putLedgerState_keeps
      | refine Keeps.foldl ?_ _ ?_
      | refine Keeps.foldl_fst ?_ _ ?_
      | split
      | dsimp only
      | apply Keeps.upd

theorem State.chainOp_keeps {s t : State} (h : Keeps s t) (n : Fin 4) (q : QItem) :
    Keeps s (t.chainOp n q) := by
  unfold State.chainOp
  with_reducible
    repeat' first
      | exact h
      | assumption
      | intro _
      | apply State.onBlade_keeps
      | apply State.faultFrom_keeps
      | apply State.postItem_keeps
      | apply State.openLedger_keeps
      | refine Keeps.of_fst (by assumption) ?_
      | refine Keeps.of_snd (by assumption) ?_
      | refine Keeps.of_third (by assumption) ?_
      | split
      | dsimp only
      | apply Keeps.upd

theorem State.chainHead_keeps {s t : State} (n : Fin 4) (fuel : Nat) (h : Keeps s t) : Keeps s (State.chainHead n fuel t) := by
  induction fuel generalizing t with
  | zero => exact h
  | succ fuel ih =>
    unfold State.chainHead
    with_reducible
    repeat' first
      | exact h
      | exact ih
      | assumption
      | intro _
      | apply ih
      | apply State.onBlade_keeps
      | apply State.awaitSlice_keeps
      | apply State.chainOp_keeps
      | refine Keeps.of_fst (by assumption) ?_
      | refine Keeps.of_snd (by assumption) ?_
      | refine Keeps.of_third (by assumption) ?_
      | split
      | dsimp only
      | apply Keeps.upd

theorem State.bladeHead_keeps {s t : State} (h : Keeps s t) (n : Fin 4) :
    Keeps s (t.bladeHead n) := by
  unfold State.bladeHead
  with_reducible
    repeat' first
      | exact h
      | assumption
      | intro _
      | apply State.wakeFences_keeps
      | apply State.chainHead_keeps
      | refine Keeps.foldl ?_ _ ?_
      | refine Keeps.foldl_fst ?_ _ ?_
      | dsimp only
      | apply Keeps.upd

theorem State.checkBlade_keeps {s t : State} (h : Keeps s t) (n : Fin 4) (q : QItem) (pd : Nat) (ch : Option Nat) (acc : Nat) (ramp : Bool) :
    Keeps s (t.checkBlade n q pd ch acc ramp) := by
  unfold State.checkBlade
  with_reducible
    repeat' first
      | exact h
      | assumption
      | intro _
      | apply State.bump_keeps
      | apply State.onBlade_keeps
      | apply State.faultFrom_keeps
      | apply State.tryStream_keeps
      | refine Keeps.of_fst (by assumption) ?_
      | refine Keeps.of_snd (by assumption) ?_
      | refine Keeps.of_third (by assumption) ?_
      | split
      | dsimp only
      | apply Keeps.upd

theorem State.onRun_keeps {s t : State} (h : Keeps s t) (n : Fin 4) (k : Nat) (f : BladeRun → BladeRun) :
    Keeps s (t.onRun n k f) := by
  unfold State.onRun
  with_reducible
    repeat' first
      | exact h
      | assumption
      | intro _
      | apply State.onBlade_keeps
      | dsimp only
      | apply Keeps.upd

theorem State.stopLedger_keeps {s t : State} (h : Keeps s t) (n : Fin 4) (k : Nat) (q : QItem) (ledger : Nat) :
    Keeps s (t.stopLedger n k q ledger) := by
  unfold State.stopLedger
  with_reducible
    repeat' first
      | exact h
      | assumption
      | intro _
      | apply State.faultFrom_keeps
      | apply State.onRun_keeps
      | dsimp only
      | apply Keeps.upd

theorem State.statsTile_keeps {s t : State} (h : Keeps s t) (n : Fin 4) (k : Nat) (r : BladeRun) (g : RStage) (band grp : Nat) (qs : List ((Nat × Nat) × QuantResult)) :
    Keeps s (t.statsTile n k r g band grp qs) := by
  unfold State.statsTile
  with_reducible
    repeat' first
      | exact h
      | assumption
      | intro _
      | apply State.bump_keeps
      | apply State.raiseBlade_keeps
      | apply State.addStatRows_keeps
      | apply State.contribute_keeps
      | apply State.stopLedger_keeps
      | refine Keeps.foldl ?_ _ ?_
      | refine Keeps.foldl_fst ?_ _ ?_
      | refine Keeps.of_fst (by assumption) ?_
      | refine Keeps.of_snd (by assumption) ?_
      | refine Keeps.of_third (by assumption) ?_
      | split
      | dsimp only
      | apply Keeps.upd

theorem State.smaxTile_keeps {s t : State} (h : Keeps s t) (n : Fin 4) (k : Nat) (r : BladeRun) (g : RStage) (band grp : Nat) (done : Bool) :
    Keeps s (t.smaxTile n k r g band grp done) := by
  unfold State.smaxTile
  with_reducible
    repeat' first
      | exact h
      | assumption
      | intro _
      | apply State.bump_keeps
      | apply State.raiseBlade_keeps
      | apply State.putSmaxRow_keeps
      | apply State.contribute_keeps
      | apply State.stopLedger_keeps
      | refine Keeps.foldl ?_ _ ?_
      | refine Keeps.foldl_fst ?_ _ ?_
      | refine Keeps.of_fst (by assumption) ?_
      | refine Keeps.of_snd (by assumption) ?_
      | refine Keeps.of_third (by assumption) ?_
      | split
      | dsimp only
      | apply Keeps.upd

theorem State.markTile_keeps {s t : State} (h : Keeps s t) (n : Fin 4) (k : Nat) (r : BladeRun) (g : RStage) (band grp : Nat) (qs : List ((Nat × Nat) × QuantResult)) :
    Keeps s (t.markTile n k r g band grp qs) := by
  unfold State.markTile
  with_reducible
    repeat' first
      | exact h
      | assumption
      | intro _
      | apply State.bump_keeps
      | apply State.raiseBlade_keeps
      | apply State.onRun_keeps
      | refine Keeps.of_fst (by assumption) ?_
      | refine Keeps.of_snd (by assumption) ?_
      | refine Keeps.of_third (by assumption) ?_
      | split
      | dsimp only
      | apply Keeps.upd

theorem State.finalTile_keeps {s t : State} (h : Keeps s t) (n : Fin 4) (k : Nat) (r : BladeRun) (band grp t0 : Nat) (blocks : List ((Nat × Nat) × (List Elem × Int))) (qs : List ((Nat × Nat) × QuantResult)) :
    Keeps s (t.finalTile n k r band grp t0 blocks qs) := by
  unfold State.finalTile
  with_reducible
    repeat' first
      | exact h
      | assumption
      | intro _
      | apply State.bump_keeps
      | apply State.raiseBlade_keeps
      | apply State.writeBlock_keeps
      | apply State.onRun_keeps
      | apply State.statsTile_keeps
      | apply State.smaxTile_keeps
      | apply State.markTile_keeps
      | refine Keeps.foldl ?_ _ ?_
      | refine Keeps.foldl_fst ?_ _ ?_
      | refine Keeps.of_fst (by assumption) ?_
      | refine Keeps.of_snd (by assumption) ?_
      | refine Keeps.of_third (by assumption) ?_
      | split
      | dsimp only
      | apply Keeps.upd

theorem State.writeFitting_keeps {s t : State} (h : Keeps s t) (a : Acc) (t0 : Tensor) (c : Int) (blocks : List ((Nat × Nat) × (List Elem × Int))) :
    Keeps s (t.writeFitting a t0 c blocks) := by
  unfold State.writeFitting
  with_reducible
    repeat' first
      | exact h
      | assumption
      | intro _
      | apply State.writeBlock_keeps
      | refine Keeps.foldl ?_ _ ?_
      | refine Keeps.foldl_fst ?_ _ ?_
      | refine Keeps.of_fst (by assumption) ?_
      | refine Keeps.of_snd (by assumption) ?_
      | refine Keeps.of_third (by assumption) ?_
      | split
      | dsimp only
      | apply Keeps.upd

theorem State.decideTile_keeps {s t : State} (h : Keeps s t) (n : Fin 4) (k : Nat) (r : BladeRun) (band : Nat) (group : Fin 8) :
    Keeps s (t.decideTile n k r band group) := by
  unfold State.decideTile
  with_reducible
    repeat' first
      | exact h
      | assumption
      | intro _
      | apply State.bump_keeps
      | apply State.onRun_keeps
      | apply State.finalTile_keeps
      | apply State.writeFitting_keeps
      | refine Keeps.of_fst (by assumption) ?_
      | refine Keeps.of_snd (by assumption) ?_
      | refine Keeps.of_third (by assumption) ?_
      | split
      | dsimp only
      | apply Keeps.upd

theorem State.countCauses_keeps {s t : State} (h : Keeps s t) (n : Fin 4) (waits : List (BitVec 32)) :
    Keeps s (t.countCauses n waits) := by
  unfold State.countCauses
  with_reducible
    repeat' first
      | exact h
      | assumption
      | intro _
      | apply State.bump_keeps
      | refine Keeps.foldl ?_ _ ?_
      | refine Keeps.foldl_fst ?_ _ ?_
      | dsimp only
      | apply Keeps.upd

theorem State.sequencerStatus_keeps {s t : State} (h : Keeps s t) (h0 : Fin 64) (l : Fin 4) (d : Nat) (f : Tensor → StatusWord → StatusWord) :
    Keeps s (t.sequencerStatus h0 l d f) := by
  unfold State.sequencerStatus
  with_reducible
    repeat' first
      | exact h
      | assumption
      | intro _
      | apply State.faultHeat_keeps
      | apply State.nextPc_keeps
      | apply State.putStatus_keeps
      | refine Keeps.of_fst (by assumption) ?_
      | refine Keeps.of_snd (by assumption) ?_
      | refine Keeps.of_third (by assumption) ?_
      | split
      | dsimp only
      | apply Keeps.upd

theorem State.putRow_keeps {s t : State} (h : Keeps s t) (a : Acc) (t0 : Tensor) (r c0 : Nat) (vals : List (Elem × Int)) :
    Keeps s (t.putRow a t0 r c0 vals) := by
  unfold State.putRow
  with_reducible
    repeat' first
      | exact h
      | assumption
      | intro _
      | apply State.putWlElem_keeps
      | apply State.putWlExp_keeps
      | refine Keeps.foldl ?_ _ ?_
      | refine Keeps.foldl_fst ?_ _ ?_
      | dsimp only
      | apply Keeps.upd

theorem State.putFlatRow_keeps {s t : State} (h : Keeps s t) (a : Acc) (t0 : Tensor) (r c0 : Nat) (vals : List Elem) :
    Keeps s (t.putFlatRow a t0 r c0 vals) := by
  unfold State.putFlatRow
  with_reducible
    repeat' first
      | exact h
      | assumption
      | intro _
      | apply State.putFlat_keeps
      | refine Keeps.foldl ?_ _ ?_
      | refine Keeps.foldl_fst ?_ _ ?_
      | dsimp only
      | apply Keeps.upd

theorem State.eachRow_keeps {s t : State} (h : Keeps s t) (a : Acc) (d : Tensor) (sd : ScullDesc) (f : State → Nat → RowOut) :
    Keeps s (t.eachRow a d sd f) := by
  unfold State.eachRow
  with_reducible
    repeat' first
      | exact h
      | assumption
      | intro _
      | apply State.bump_keeps
      | apply State.putRow_keeps
      | refine Keeps.foldl ?_ _ ?_
      | refine Keeps.foldl_fst ?_ _ ?_
      | dsimp only
      | apply Keeps.upd

theorem State.raiseScull_keeps {s t : State} (h : Keeps s t) (k : Fin 16) (h0 : Fin 64) (code : Nat) (payload : List Int) :
    Keeps s (t.raiseScull k h0 code payload) := by
  unfold State.raiseScull
  with_reducible
    repeat' first
      | exact h
      | assumption
      | intro _
      | apply State.raiseOn_keeps
      | dsimp only
      | apply Keeps.upd

theorem State.scullEntry_keeps {s t : State} (h : Keeps s t) (k : Fin 16) (h0 : Fin 64) (t0 : Tensor) (r0 nr c0 nc : Nat) :
    Keeps s (t.scullEntry k h0 t0 r0 nr c0 nc) := by
  unfold State.scullEntry
  with_reducible
    repeat' first
      | exact h
      | assumption
      | intro _
      | apply State.countEntry_keeps
      | apply State.raiseScull_keeps
      | dsimp only
      | apply Keeps.upd

theorem State.scExpand_keeps {s t : State} (h : Keeps s t) (k : Fin 16) (h0 : Fin 64) (sd : ScullDesc) (a d : Tensor) :
    Keeps s (t.scExpand k h0 sd a d) := by
  unfold State.scExpand
  with_reducible
    repeat' first
      | exact h
      | assumption
      | intro _
      | apply State.eachRow_keeps
      | apply State.scullEntry_keeps
      | refine Keeps.of_fst (by assumption) ?_
      | refine Keeps.of_snd (by assumption) ?_
      | refine Keeps.of_third (by assumption) ?_
      | split
      | dsimp only
      | apply Keeps.upd

theorem State.scQuant_keeps {s t : State} (h : Keeps s t) (h0 : Fin 64) (sd : ScullDesc) (a d : Tensor) :
    Keeps s (t.scQuant h0 sd a d) := by
  unfold State.scQuant
  with_reducible
    repeat' first
      | exact h
      | assumption
      | intro _
      | apply State.bump_keeps
      | apply State.writeBlock_keeps
      | apply State.updateStatus_keeps
      | refine Keeps.foldl ?_ _ ?_
      | refine Keeps.foldl_fst ?_ _ ?_
      | dsimp only
      | apply Keeps.upd

theorem State.scBias_keeps {s t : State} (h : Keeps s t) (k : Fin 16) (h0 : Fin 64) (sd : ScullDesc) (a d x : Tensor) :
    Keeps s (t.scBias k h0 sd a d x) := by
  unfold State.scBias
  with_reducible
    repeat' first
      | exact h
      | assumption
      | intro _
      | apply State.eachRow_keeps
      | apply State.scullEntry_keeps
      | refine Keeps.of_fst (by assumption) ?_
      | refine Keeps.of_snd (by assumption) ?_
      | refine Keeps.of_third (by assumption) ?_
      | dsimp only
      | apply Keeps.upd

theorem State.scAct_keeps {s t : State} (h : Keeps s t) (h0 : Fin 64) (sd : ScullDesc) (a d : Tensor) :
    Keeps s (t.scAct h0 sd a d) := by
  unfold State.scAct
  with_reducible
    repeat' first
      | exact h
      | assumption
      | intro _
      | apply State.eachRow_keeps
      | dsimp only
      | apply Keeps.upd

theorem State.scGate_keeps {s t : State} (h : Keeps s t) (h0 : Fin 64) (sd : ScullDesc) (a b d : Tensor) :
    Keeps s (t.scGate h0 sd a b d) := by
  unfold State.scGate
  with_reducible
    repeat' first
      | exact h
      | assumption
      | intro _
      | apply State.eachRow_keeps
      | dsimp only
      | apply Keeps.upd

theorem State.scResid_keeps {s t : State} (h : Keeps s t) (k : Fin 16) (h0 : Fin 64) (sd : ScullDesc) (a b d : Tensor) :
    Keeps s (t.scResid k h0 sd a b d) := by
  unfold State.scResid
  with_reducible
    repeat' first
      | exact h
      | assumption
      | intro _
      | apply State.eachRow_keeps
      | apply State.scullEntry_keeps
      | refine Keeps.of_fst (by assumption) ?_
      | refine Keeps.of_snd (by assumption) ?_
      | refine Keeps.of_third (by assumption) ?_
      | split
      | dsimp only
      | apply Keeps.upd

theorem State.scAdd_keeps {s t : State} (h : Keeps s t) (h0 : Fin 64) (sd : ScullDesc) (a b d : Tensor) :
    Keeps s (t.scAdd h0 sd a b d) := by
  unfold State.scAdd
  with_reducible
    repeat' first
      | exact h
      | assumption
      | intro _
      | apply State.eachRow_keeps
      | dsimp only
      | apply Keeps.upd

theorem State.scSmax_keeps {s t : State} (h : Keeps s t) (k : Fin 16) (h0 : Fin 64) (sd : ScullDesc) (a d : Tensor) (addr : Nat) :
    Keeps s (t.scSmax k h0 sd a d addr) := by
  unfold State.scSmax
  with_reducible
    repeat' first
      | exact h
      | assumption
      | intro _
      | apply State.bump_keeps
      | apply State.putSmaxRow_keeps
      | apply State.contribute_keeps
      | apply State.putRow_keeps
      | apply State.raiseScull_keeps
      | refine Keeps.foldl ?_ _ ?_
      | refine Keeps.foldl_fst ?_ _ ?_
      | split
      | dsimp only
      | apply Keeps.upd

theorem State.scStats_keeps {s t : State} (h : Keeps s t) (k : Fin 16) (h0 : Fin 64) (sd : ScullDesc) (a : Tensor) (addr : Nat) :
    Keeps s (t.scStats k h0 sd a addr) := by
  unfold State.scStats
  with_reducible
    repeat' first
      | exact h
      | assumption
      | intro _
      | apply State.addStatRows_keeps
      | apply State.contribute_keeps
      | apply State.raiseScull_keeps
      | refine Keeps.foldl ?_ _ ?_
      | refine Keeps.foldl_fst ?_ _ ?_
      | refine Keeps.of_fst (by assumption) ?_
      | refine Keeps.of_snd (by assumption) ?_
      | refine Keeps.of_third (by assumption) ?_
      | dsimp only
      | apply Keeps.upd

theorem State.scMark_keeps {s t : State} (h : Keeps s t) (k : Fin 16) (h0 : Fin 64) (sd : ScullDesc) (a : Tensor) :
    Keeps s (t.scMark k h0 sd a) := by
  unfold State.scMark
  with_reducible
    repeat' first
      | exact h
      | assumption
      | intro _
      | apply State.updateStatus_keeps
      | apply State.raiseScull_keeps
      | apply State.scullEntry_keeps
      | refine Keeps.of_fst (by assumption) ?_
      | refine Keeps.of_snd (by assumption) ?_
      | refine Keeps.of_third (by assumption) ?_
      | split
      | dsimp only
      | apply Keeps.upd

theorem State.scLedger_keeps {s t : State} (h : Keeps s t) (k : Fin 16) (h0 : Fin 64) (sd : ScullDesc) (a d : Tensor) (addr : Nat) :
    Keeps s (t.scLedger k h0 sd a d addr) := by
  unfold State.scLedger
  with_reducible
    repeat' first
      | exact h
      | assumption
      | intro _
      | apply State.countEntryBy_keeps
      | apply State.countEntry_keeps
      | apply State.eachRow_keeps
      | apply State.raiseScull_keeps
      | refine Keeps.foldl ?_ _ ?_
      | refine Keeps.foldl_fst ?_ _ ?_
      | refine Keeps.of_fst (by assumption) ?_
      | refine Keeps.of_snd (by assumption) ?_
      | refine Keeps.of_third (by assumption) ?_
      | split
      | dsimp only
      | apply Keeps.upd

theorem State.scRsum_keeps {s t : State} (h : Keeps s t) (h0 : Fin 64) (sd : ScullDesc) (a d : Tensor) :
    Keeps s (t.scRsum h0 sd a d) := by
  unfold State.scRsum
  with_reducible
    repeat' first
      | exact h
      | assumption
      | intro _
      | apply State.bump_keeps
      | apply State.putRow_keeps
      | refine Keeps.foldl ?_ _ ?_
      | refine Keeps.foldl_fst ?_ _ ?_
      | split
      | dsimp only
      | apply Keeps.upd

theorem State.scCarry_keeps {s t : State} (h : Keeps s t) (h0 : Fin 64) (sd : ScullDesc) (a d : Tensor) (addr : Nat) :
    Keeps s (t.scCarry h0 sd a d addr).1 := by
  unfold State.scCarry
  with_reducible
    repeat' first
      | exact h
      | assumption
      | intro _
      | apply State.bump_keeps
      | apply State.putFlatRow_keeps
      | refine Keeps.foldl ?_ _ ?_
      | refine Keeps.foldl_fst ?_ _ ?_
      | refine Keeps.of_fst (by assumption) ?_
      | refine Keeps.of_snd (by assumption) ?_
      | refine Keeps.of_third (by assumption) ?_
      | dsimp only
      | apply Keeps.upd

theorem State.scCadd_keeps {s t : State} (h : Keeps s t) (h0 : Fin 64) (sd : ScullDesc) (a b d : Tensor) :
    Keeps s (t.scCadd h0 sd a b d).1 := by
  unfold State.scCadd
  with_reducible
    repeat' first
      | exact h
      | assumption
      | intro _
      | apply State.bump_keeps
      | apply State.putFlatRow_keeps
      | refine Keeps.foldl ?_ _ ?_
      | refine Keeps.foldl_fst ?_ _ ?_
      | dsimp only
      | apply Keeps.upd

theorem State.scUncarry_keeps {s t : State} (h : Keeps s t) (h0 : Fin 64) (sd : ScullDesc) (a d : Tensor) :
    Keeps s (t.scUncarry h0 sd a d) := by
  unfold State.scUncarry
  with_reducible
    repeat' first
      | exact h
      | assumption
      | intro _
      | apply State.eachRow_keeps
      | refine Keeps.of_fst (by assumption) ?_
      | refine Keeps.of_snd (by assumption) ?_
      | refine Keeps.of_third (by assumption) ?_
      | dsimp only
      | apply Keeps.upd

theorem State.scLoss_keeps {s t : State} (h : Keeps s t) (h0 : Fin 64) (sd : ScullDesc) (a : Tensor) :
    Keeps s (t.scLoss h0 sd a) := by
  unfold State.scLoss
  with_reducible
    repeat' first
      | exact h
      | assumption
      | intro _
      | apply State.bump_keeps
      | apply State.onHeat_keeps
      | refine Keeps.of_fst (by assumption) ?_
      | refine Keeps.of_snd (by assumption) ?_
      | refine Keeps.of_third (by assumption) ?_
      | dsimp only
      | apply Keeps.upd

theorem State.scullDo_keeps {s t : State} (h : Keeps s t) (k : Fin 16) (h0 : Fin 64) (op : Nat) (n : ScullNames) :
    Keeps s (t.scullDo k h0 op n) := by
  unfold State.scullDo
  with_reducible
    repeat' first
      | exact h
      | assumption
      | intro _
      | apply State.scExpand_keeps
      | apply State.scQuant_keeps
      | apply State.scBias_keeps
      | apply State.scAct_keeps
      | apply State.scGate_keeps
      | apply State.scResid_keeps
      | apply State.scAdd_keeps
      | apply State.scSmax_keeps
      | apply State.scStats_keeps
      | apply State.scMark_keeps
      | apply State.scLedger_keeps
      | apply State.scRsum_keeps
      | apply State.scCarry_keeps
      | apply State.scCadd_keeps
      | apply State.scUncarry_keeps
      | apply State.scLoss_keeps
      | refine Keeps.of_fst (by assumption) ?_
      | refine Keeps.of_snd (by assumption) ?_
      | refine Keeps.of_third (by assumption) ?_
      | split
      | dsimp only
      | apply Keeps.upd

theorem State.scullRun_keeps {s t : State} (h : Keeps s t) (k : Fin 16) (q : QItem) (op d : Nat) :
    Keeps s (t.scullRun k q op d).1 := by
  unfold State.scullRun
  with_reducible
    repeat' first
      | exact h
      | assumption
      | intro _
      | apply State.faultHeat_keeps
      | apply State.scullDo_keeps
      | refine Keeps.of_fst (by assumption) ?_
      | refine Keeps.of_snd (by assumption) ?_
      | refine Keeps.of_third (by assumption) ?_
      | split
      | dsimp only
      | apply Keeps.upd

theorem State.health_keeps {s t : State} (h : Keeps s t) (k : Fin 16) (h0 : Fin 64) (o : OptDesc) (tid groups zgroups marks : Nat) :
    Keeps s (t.health k h0 o tid groups zgroups marks) := by
  unfold State.health
  with_reducible
    repeat' first
      | exact h
      | assumption
      | intro _
      | apply State.bump_keeps
      | apply State.storeNat_keeps
      | apply State.raiseScull_keeps
      | split
      | dsimp only
      | apply Keeps.upd

theorem State.putMoment_keeps {s t : State} (h : Keeps s t) (acc : Acc) (t0 : Tensor) (r j0 : Nat) (st : StatusWord) (m : Option (Int × List Elem × List Elem × Int)) :
    Keeps s (t.putMoment acc t0 r j0 st m).1 := by
  unfold State.putMoment
  with_reducible
    repeat' first
      | exact h
      | assumption
      | intro _
      | apply State.writeBlock_keeps
      | refine Keeps.of_fst (by assumption) ?_
      | refine Keeps.of_snd (by assumption) ?_
      | refine Keeps.of_third (by assumption) ?_
      | split
      | dsimp only
      | apply Keeps.upd

theorem State.narrowCopy_keeps {s t : State} (h : Keeps s t) (acc : Acc) (x : OptNames) (t0 : Tensor) :
    Keeps s (t.narrowCopy acc x t0).1 := by
  unfold State.narrowCopy
  with_reducible
    repeat' first
      | exact h
      | assumption
      | intro _
      | apply State.writeBlock_keeps
      | apply State.updateStatus_keeps
      | refine Keeps.foldl ?_ _ ?_
      | refine Keeps.foldl_fst ?_ _ ?_
      | dsimp only
      | apply Keeps.upd

theorem State.freeBlock_keeps {s t : State} (h : Keeps s t) (acc : Acc) (t0 : Tensor) (b : Nat × Nat) (hit : Nat → Nat → Bool) :
    Keeps s (t.freeBlock acc t0 b hit) := by
  unfold State.freeBlock
  with_reducible
    repeat' first
      | exact h
      | assumption
      | intro _
      | apply State.drawBytes_keeps
      | apply State.writeBlock_keeps
      | refine Keeps.of_fst (by assumption) ?_
      | refine Keeps.of_snd (by assumption) ?_
      | refine Keeps.of_third (by assumption) ?_
      | split
      | dsimp only
      | apply Keeps.upd

theorem State.freeRegion_keeps {s t : State} (h : Keeps s t) (acc : Acc) (x : OptNames) (o : List Tensor × Nat × Nat × Nat × Nat) :
    Keeps s (t.freeRegion acc x o) := by
  unfold State.freeRegion
  with_reducible
    repeat' first
      | exact h
      | assumption
      | intro _
      | apply State.putFlat_keeps
      | apply State.freeBlock_keeps
      | refine Keeps.foldl ?_ _ ?_
      | refine Keeps.foldl_fst ?_ _ ?_
      | refine Keeps.of_fst (by assumption) ?_
      | refine Keeps.of_snd (by assumption) ?_
      | refine Keeps.of_third (by assumption) ?_
      | dsimp only
      | apply Keeps.upd

theorem OptAcc.group_keeps {s : State} {st : OptAcc} (h : Keeps s st.s) (acc : Acc) (x : OptNames) (seed lrm : Nat) (cg c1 c2 : Int)
    (r j0 : Nat) : Keeps s (st.group acc x seed lrm cg c1 c2 r j0).s := by
  unfold OptAcc.group
  with_reducible
    repeat' first
      | exact h
      | assumption
      | intro _
      | apply State.putFlat_keeps
      | apply State.putMoment_keeps
      | refine Keeps.foldl ?_ _ ?_
      | refine Keeps.foldl_fst ?_ _ ?_
      | refine Keeps.of_fst (by assumption) ?_
      | refine Keeps.of_snd (by assumption) ?_
      | refine Keeps.of_third (by assumption) ?_
      | split
      | dsimp only
      | apply Keeps.upd

theorem OptAcc.foldl_keeps {α : Type} {s : State} {g : OptAcc → α → OptAcc} {st : OptAcc} (h : Keeps s st.s) (l : List α)
    (hg : ∀ st x, Keeps s st.s → Keeps s (g st x).s) : Keeps s (l.foldl g st).s := by
  induction l generalizing st with
  | nil => exact h
  | cons x l ih => exact ih (hg st x h)

theorem OptAcc.groupAll_keeps {s : State} {st : OptAcc} (h : Keeps s st.s) (acc : Acc) (x : OptNames) (seed lrm : Nat)
    (cg c1 c2 : Int) : Keeps s (st.groupAll acc x seed lrm cg c1 c2).s :=
  OptAcc.foldl_keeps h _ fun _ _ h => OptAcc.foldl_keeps h _ fun _ _ h => OptAcc.group_keeps h ..

theorem State.optEntry_keeps {s t : State} (h : Keeps s t) (k : Fin 16) (h0 : Fin 64) (t0 : Option Tensor) (c : Int)
    (r0 nr c0 nc : Nat) : Keeps s (t.optEntry k h0 t0 c r0 nr c0 nc) := by
  unfold State.optEntry
  with_reducible
    repeat' first
      | exact h
      | assumption
      | intro _
      | apply State.countEntry_keeps
      | apply State.raiseScull_keeps
      | refine Keeps.foldl ?_ _ ?_
      | refine Keeps.foldl_fst ?_ _ ?_
      | refine Keeps.of_fst (by assumption) ?_
      | refine Keeps.of_snd (by assumption) ?_
      | refine Keeps.of_third (by assumption) ?_
      | split
      | dsimp only
      | apply Keeps.upd

theorem State.momentStatus_keeps {s t : State} (h : Keeps s t) (acc : Acc) (t0 : Option Tensor) (w : StatusWord) :
    Keeps s (t.momentStatus acc t0 w) := by
  unfold State.momentStatus
  with_reducible
    repeat' first
      | exact h
      | assumption
      | intro _
      | apply State.updateStatus_keeps
      | refine Keeps.of_fst (by assumption) ?_
      | refine Keeps.of_snd (by assumption) ?_
      | refine Keeps.of_third (by assumption) ?_
      | split
      | dsimp only
      | apply Keeps.upd

theorem State.optNarrow_keeps {s t : State} (h : Keeps s t) (acc : Acc) (x : OptNames) :
    Keeps s (t.optNarrow acc x).1 := by
  unfold State.optNarrow
  with_reducible
    repeat' first
      | exact h
      | assumption
      | intro _
      | apply State.narrowCopy_keeps
      | refine Keeps.of_fst (by assumption) ?_
      | refine Keeps.of_snd (by assumption) ?_
      | refine Keeps.of_third (by assumption) ?_
      | split
      | dsimp only
      | apply Keeps.upd

theorem State.optFirst_keeps {s t : State} (h : Keeps s t) (k : Fin 16) (h0 : Fin 64) (x : OptNames) (e : Option (Nat × Nat)) :
    Keeps s (t.optFirst k h0 x e) := by
  unfold State.optFirst
  with_reducible
    repeat' first
      | exact h
      | assumption
      | intro _
      | apply State.raiseScull_keeps
      | refine Keeps.of_fst (by assumption) ?_
      | refine Keeps.of_snd (by assumption) ?_
      | refine Keeps.of_third (by assumption) ?_
      | split
      | dsimp only
      | apply Keeps.upd

theorem State.scOpt_keeps {s t : State} (h : Keeps s t) (k : Fin 16) (h0 : Fin 64) (x : OptNames) :
    Keeps s (t.scOpt k h0 x) := by
  refine Keeps.foldl ?_ _ fun u o hu => State.freeRegion_keeps hu ..
  refine State.optFirst_keeps ?_ ..
  refine State.bump_keeps (State.bump_keeps (State.bump_keeps (State.bump_keeps (State.bump_keeps ?_ ..) ..) ..) ..) ..
  refine State.health_keeps (State.optNarrow_keeps (State.momentStatus_keeps (State.momentStatus_keeps ?_ ..) ..) ..) ..
  refine OptAcc.groupAll_keeps ?_ ..
  exact State.optEntry_keeps (State.optEntry_keeps (State.optEntry_keeps h ..) ..) ..

theorem State.optRun_keeps {s t : State} (h : Keeps s t) (k : Fin 16) (q : QItem) (d : Nat) :
    Keeps s (t.optRun k q d).1 := by
  unfold State.optRun
  with_reducible
    repeat' first
      | exact h
      | assumption
      | intro _
      | apply State.faultHeat_keeps
      | apply State.scOpt_keeps
      | refine Keeps.of_fst (by assumption) ?_
      | refine Keeps.of_snd (by assumption) ?_
      | refine Keeps.of_third (by assumption) ?_
      | split
      | dsimp only
      | apply Keeps.upd

theorem State.scullHead_keeps {s t : State} (k : Fin 16) (fuel : Nat) (h : Keeps s t) : Keeps s (State.scullHead k fuel t) := by
  induction fuel generalizing t with
  | zero => exact h
  | succ fuel ih =>
    unfold State.scullHead
    with_reducible
    repeat' first
      | exact h
      | exact ih
      | assumption
      | intro _
      | apply ih
      | apply State.awaitSlice_keeps
      | apply State.setQueue_keeps
      | apply State.integrityFailure_keeps
      | apply State.readSpans_keeps
      | apply State.scullRun_keeps
      | apply State.optRun_keeps
      | refine Keeps.of_fst (by assumption) ?_
      | refine Keeps.of_snd (by assumption) ?_
      | refine Keeps.of_third (by assumption) ?_
      | split
      | dsimp only
      | apply Keeps.upd

theorem State.branch_keeps {s t : State} (h : Keeps s t) (h0 : Fin 64) (l : Fin 4) (off : BitVec 20) :
    Keeps s (t.branch h0 l off) := by
  unfold State.branch
  with_reducible
    repeat' first
      | exact h
      | assumption
      | intro _
      | apply State.bump_keeps
      | apply State.onLane_keeps
      | apply State.faultHeat_keeps
      | split
      | dsimp only
      | apply Keeps.upd

end Sys2Proof.Machine
end

