-- ==== Sys2Proof/Laws/KeepsRelay.lean ====
section
/-! SUPPORT. The frame of the operations of engines, links, collectives and Heats. -/
namespace Sys2Proof.Machine

theorem State.writeRow_keeps {s t : State} (h : Keeps s t) (h0 : Fin 64) (kind blade a : Nat) (bs : List Byte) :
    Keeps s (t.writeRow h0 kind blade a bs) := by
  unfold State.writeRow
  with_reducible
    repeat' first
      | exact h
      | assumption
      | intro _
      | apply State.setCells_keeps
      | apply State.store_keeps
      | refine Keeps.of_fst (by assumption) ?_
      | refine Keeps.of_snd (by assumption) ?_
      | refine Keeps.of_third (by assumption) ?_
      | split
      | dsimp only
      | apply Keeps.upd

theorem State.countPack_keeps {s t : State} (h : Keeps s t) (crew e sub : Nat) (pages : Option (Fin 64 × List Nat)) :
    Keeps s (t.countPack crew e sub pages) := by
  unfold State.countPack
  with_reducible
    repeat' first
      | exact h
      | assumption
      | intro _
      | apply State.bump_keeps
      | apply State.touchPack_keeps
      | refine Keeps.foldl ?_ _ ?_
      | refine Keeps.foldl_fst ?_ _ ?_
      | refine Keeps.of_fst (by assumption) ?_
      | refine Keeps.of_snd (by assumption) ?_
      | refine Keeps.of_third (by assumption) ?_
      | split
      | dsimp only
      | apply Keeps.upd

theorem State.bufferPages_keeps {s t : State} (h : Keeps s t) (pages : Option (Fin 64 × List Nat)) :
    Keeps s (t.bufferPages pages) := by
  unfold State.bufferPages
  with_reducible
    repeat' first
      | exact h
      | assumption
      | intro _
      | apply State.bufferUnit_keeps
      | refine Keeps.foldl ?_ _ ?_
      | refine Keeps.foldl_fst ?_ _ ?_
      | refine Keeps.of_fst (by assumption) ?_
      | refine Keeps.of_snd (by assumption) ?_
      | refine Keeps.of_third (by assumption) ?_
      | split
      | dsimp only
      | apply Keeps.upd

theorem State.landBytes_keeps {s t : State} (h : Keeps s t) (h0 : Fin 64) (r : MoveRow) (lo n : Nat) :
    Keeps s (t.landBytes h0 r lo n) := by
  unfold State.landBytes
  with_reducible
    repeat' first
      | exact h
      | assumption
      | intro _
      | apply State.bump_keeps
      | apply State.readSpans_keeps
      | apply State.holdSpans_keeps
      | apply State.writeRow_keeps
      | apply State.countPack_keeps
      | apply State.bufferPages_keeps
      | dsimp only
      | apply Keeps.upd

theorem State.onMove_keeps {s t : State} (h : Keeps s t) (n : Nat) (f : MoveRun → MoveRun) :
    Keeps s (t.onMove n f) := by
  unfold State.onMove
  with_reducible
    repeat' first
      | exact h
      | assumption
      | intro _
      | split
      | dsimp only
      | apply Keeps.upd

theorem State.startFlight_keeps {s t : State} (h : Keeps s t) (e : Fin 16) (span : Nat) :
    Keeps s (t.startFlight e span) := by
  unfold State.startFlight
  with_reducible
    repeat' first
      | exact h
      | assumption
      | intro _
      | split
      | dsimp only
      | apply Keeps.upd

theorem State.endFlight_keeps {s t : State} (h : Keeps s t) (e : Fin 16) (span : Nat) :
    Keeps s (t.endFlight e span) := by
  unfold State.endFlight
  with_reducible
    repeat' first
      | exact h
      | assumption
      | intro _
      | apply State.bump_keeps
      | apply State.onEngine_keeps
      | apply State.startFlight_keeps
      | refine Keeps.foldl ?_ _ ?_
      | refine Keeps.foldl_fst ?_ _ ?_
      | split
      | dsimp only
      | apply Keeps.upd

theorem State.dropMove_keeps {s t : State} (h : Keeps s t) (m : MoveRun) :
    Keeps s (t.dropMove m) := by
  unfold State.dropMove
  with_reducible
    repeat' first
      | exact h
      | assumption
      | intro _
      | apply State.onEngine_keeps
      | apply State.endFlight_keeps
      | refine Keeps.foldl ?_ _ ?_
      | refine Keeps.foldl_fst ?_ _ ?_
      | split
      | dsimp only
      | apply Keeps.upd

theorem State.landPieces_keeps {s t : State} (h : Keeps s t) (m : MoveRun) (ps : List Piece) (rest : List MoveRow) (off : Nat) :
    Keeps s (t.landPieces m ps rest off) := by
  unfold State.landPieces
  with_reducible
    repeat' first
      | exact h
      | assumption
      | intro _
      | apply State.faultHeat_keeps
      | apply State.landBytes_keeps
      | apply State.onMove_keeps
      | apply State.dropMove_keeps
      | refine Keeps.foldl ?_ _ ?_
      | refine Keeps.foldl_fst ?_ _ ?_
      | split
      | dsimp only
      | apply Keeps.upd

theorem State.landMove_keeps {s t : State} (h : Keeps s t) (m : MoveRun) (part : Option (Nat × Nat)) :
    Keeps s (t.landMove m part) := by
  unfold State.landMove
  with_reducible
    repeat' first
      | exact h
      | assumption
      | intro _
      | apply State.landPieces_keeps
      | refine Keeps.foldl ?_ _ ?_
      | refine Keeps.foldl_fst ?_ _ ?_
      | dsimp only
      | apply Keeps.upd

theorem State.advanceMove_keeps {s t : State} (h : Keeps s t) (m : MoveRun) (part : Option (Nat × Nat)) (rep : MemReport) :
    Keeps s (t.advanceMove m part rep).2 := by
  unfold State.advanceMove
  with_reducible
    repeat' first
      | exact h
      | assumption
      | intro _
      | apply State.integrityFailure_keeps
      | apply State.memReport_keeps
      | apply State.landMove_keeps
      | refine Keeps.of_fst (by assumption) ?_
      | refine Keeps.of_snd (by assumption) ?_
      | refine Keeps.of_third (by assumption) ?_
      | split
      | dsimp only
      | apply Keeps.upd

theorem State.startMove_keeps {s t : State} (h : Keeps s t) (e : Fin 16) (q : QItem) (span : Nat) (rows : List MoveRow) (layer : Bool) :
    Keeps s (t.startMove e q span rows layer) := by
  unfold State.startMove
  with_reducible
    repeat' first
      | exact h
      | assumption
      | intro _
      | apply State.onEngine_keeps
      | apply State.startFlight_keeps
      | dsimp only
      | apply Keeps.upd

theorem State.fetchLayer_keeps {s t : State} (h : Keeps s t) (e : Fin 16) (w : WindowRun) (i : Nat) :
    Keeps s (t.fetchLayer e w i) := by
  unfold State.fetchLayer
  with_reducible
    repeat' first
      | exact h
      | assumption
      | intro _
      | apply State.onEngine_keeps
      | apply State.startMove_keeps
      | split
      | dsimp only
      | apply Keeps.upd

theorem State.hint_keeps {s t : State} (h : Keeps s t) (h0 : Fin 64) (m : MoveDesc) :
    Keeps s (t.hint h0 m) := by
  unfold State.hint
  with_reducible
    repeat' first
      | exact h
      | assumption
      | intro _
      | apply State.lookUp_keeps
      | apply State.pinOn_keeps
      | apply State.unpinOn_keeps
      | refine Keeps.foldl ?_ _ ?_
      | refine Keeps.foldl_fst ?_ _ ?_
      | split
      | dsimp only
      | apply Keeps.upd

theorem State.launchHead_keeps {s t : State} (e : Fin 16) (fuel : Nat) (h : Keeps s t) : Keeps s (State.launchHead e fuel t) := by
  induction fuel generalizing t with
  | zero => exact h
  | succ fuel ih =>
    unfold State.launchHead
    with_reducible
    repeat' first
      | exact h
      | exact ih
      | assumption
      | intro _
      | apply ih
      | apply State.onEngine_keeps
      | apply State.awaitSlice_keeps
      | apply State.setQueue_keeps
      | apply State.faultHeat_keeps
      | apply State.wakeFences_keeps
      | apply State.startMove_keeps
      | apply State.fetchLayer_keeps
      | apply State.hint_keeps
      | refine Keeps.of_fst (by assumption) ?_
      | refine Keeps.of_snd (by assumption) ?_
      | refine Keeps.of_third (by assumption) ?_
      | split
      | dsimp only
      | apply Keeps.upd

theorem State.resumeSpan_keeps {s t : State} (h : Keeps s t) (e : Fin 16) (span : Nat) :
    Keeps s (t.resumeSpan e span) := by
  unfold State.resumeSpan
  with_reducible
    repeat' first
      | exact h
      | assumption
      | intro _
      | apply State.launchHead_keeps
      | refine Keeps.foldl ?_ _ ?_
      | refine Keeps.foldl_fst ?_ _ ?_
      | split
      | dsimp only
      | apply Keeps.upd

theorem State.layerLanded_keeps {s t : State} (h : Keeps s t) (e : Fin 16) (w : WindowRun) (m : MoveRun) :
    Keeps s (t.layerLanded e w m) := by
  unfold State.layerLanded
  with_reducible
    repeat' first
      | exact h
      | assumption
      | intro _
      | apply State.bump_keeps
      | apply State.onEngine_keeps
      | apply State.post_keeps
      | apply State.postItem_keeps
      | apply State.wakeFences_keeps
      | apply State.endFlight_keeps
      | apply State.fetchLayer_keeps
      | apply State.resumeSpan_keeps
      | refine Keeps.of_fst (by assumption) ?_
      | refine Keeps.of_snd (by assumption) ?_
      | refine Keeps.of_third (by assumption) ?_
      | split
      | dsimp only
      | apply Keeps.upd

theorem State.refreshSweep_keeps {s t : State} (h : Keeps s t) (w : Fin 12) :
    Keeps s (t.refreshSweep w) := by
  unfold State.refreshSweep
  with_reducible
    repeat' first
      | exact h
      | assumption
      | intro _
      | apply State.setEntry_keeps
      | apply State.onSweep_keeps
      | apply State.raiseSweep_keeps
      | apply State.topUp_keeps
      | apply State.freeCredit_keeps
      | apply State.settleCredit_keeps
      | refine Keeps.foldl ?_ _ ?_
      | refine Keeps.foldl_fst ?_ _ ?_
      | refine Keeps.of_fst (by assumption) ?_
      | refine Keeps.of_snd (by assumption) ?_
      | refine Keeps.of_third (by assumption) ?_
      | split
      | dsimp only
      | apply Keeps.upd

theorem State.enterOar_keeps {s t : State} (h : Keeps s t) (o : Fin 24) (st : OarState) :
    Keeps s (t.enterOar o st) := by
  unfold State.enterOar
  with_reducible
    repeat' first
      | exact h
      | assumption
      | intro _
      | apply State.setEntry_keeps
      | apply State.emit_keeps
      | apply State.onOar_keeps
      | apply State.fillIdle_keeps
      | split
      | dsimp only
      | apply Keeps.upd

theorem State.grantEqualiser_keeps {s t : State} (h : Keeps s t) (d : Fin 2) (e : Nat) :
    Keeps s (t.grantEqualiser d e) := by
  unfold State.grantEqualiser
  with_reducible
    repeat' first
      | exact h
      | assumption
      | intro _
      | apply State.noteWin_keeps
      | apply State.onOar_keeps
      | apply State.enterOar_keeps
      | refine Keeps.of_fst (by assumption) ?_
      | refine Keeps.of_snd (by assumption) ?_
      | refine Keeps.of_third (by assumption) ?_
      | split
      | dsimp only
      | apply Keeps.upd

theorem State.grantEqualisers_keeps {s t : State} (h : Keeps s t) (d : Fin 2) :
    Keeps s (t.grantEqualisers d) := by
  unfold State.grantEqualisers
  with_reducible
    repeat' first
      | exact h
      | assumption
      | intro _
      | apply State.grantEqualiser_keeps
      | refine Keeps.foldl ?_ _ ?_
      | refine Keeps.foldl_fst ?_ _ ?_
      | dsimp only
      | apply Keeps.upd

theorem State.downOar_keeps {s t : State} (h : Keeps s t) (o : Fin 24) :
    Keeps s (t.downOar o) := by
  unfold State.downOar
  with_reducible
    repeat' first
      | exact h
      | assumption
      | intro _
      | apply State.onOar_keeps
      | apply State.refreshSweep_keeps
      | apply State.enterOar_keeps
      | apply State.grantEqualisers_keeps
      | refine Keeps.of_fst (by assumption) ?_
      | refine Keeps.of_snd (by assumption) ?_
      | refine Keeps.of_third (by assumption) ?_
      | split
      | dsimp only
      | apply Keeps.upd

theorem State.failOar_keeps {s t : State} (h : Keeps s t) (o : Fin 24) :
    Keeps s (t.failOar o) := by
  unfold State.failOar
  with_reducible
    repeat' first
      | exact h
      | assumption
      | intro _
      | apply State.bump_keeps
      | apply State.onOar_keeps
      | apply State.downOar_keeps
      | dsimp only
      | apply Keeps.upd

theorem State.loseOar_keeps {s t : State} (h : Keeps s t) (o : Fin 24) (c : LossCond) :
    Keeps s (t.loseOar o c) := by
  unfold State.loseOar
  with_reducible
    repeat' first
      | exact h
      | assumption
      | intro _
      | apply State.bump_keeps
      | apply State.onOar_keeps
      | apply State.raiseOar_keeps
      | apply State.stopJob_keeps
      | apply State.downOar_keeps
      | apply State.failOar_keeps
      | refine Keeps.foldl ?_ _ ?_
      | refine Keeps.foldl_fst ?_ _ ?_
      | refine Keeps.of_fst (by assumption) ?_
      | refine Keeps.of_snd (by assumption) ?_
      | refine Keeps.of_third (by assumption) ?_
      | split
      | dsimp only
      | apply Keeps.upd

theorem State.sendTrain_keeps {s t : State} (h : Keeps s t) (o : Fin 24) (payload : List Byte) :
    Keeps s (t.sendTrain o payload) := by
  unfold State.sendTrain
  with_reducible
    repeat' first
      | exact h
      | assumption
      | intro _
      | apply State.emit_keeps
      | dsimp only
      | apply Keeps.upd

theorem State.startKeying_keeps {s t : State} (h : Keeps s t) (o : Fin 24) :
    Keeps s (t.startKeying o) := by
  unfold State.startKeying
  with_reducible
    repeat' first
      | exact h
      | assumption
      | intro _
      | apply State.drawBytes_keeps
      | apply State.onOar_keeps
      | apply State.enterOar_keeps
      | apply State.sendTrain_keeps
      | refine Keeps.of_fst (by assumption) ?_
      | refine Keeps.of_snd (by assumption) ?_
      | refine Keeps.of_third (by assumption) ?_
      | split
      | dsimp only
      | apply Keeps.upd

theorem State.checkIdentity_keeps {s t : State} (h : Keeps s t) (o : Fin 24) :
    Keeps s (t.checkIdentity o) := by
  unfold State.checkIdentity
  with_reducible
    repeat' first
      | exact h
      | assumption
      | intro _
      | apply State.setEntry_keeps
      | apply State.onOar_keeps
      | apply State.raiseOar_keeps
      | apply State.enterOar_keeps
      | apply State.startKeying_keeps
      | refine Keeps.of_fst (by assumption) ?_
      | refine Keeps.of_snd (by assumption) ?_
      | refine Keeps.of_third (by assumption) ?_
      | split
      | dsimp only
      | apply Keeps.upd

theorem State.recheckHolds_keeps {s t : State} (h : Keeps s t)  :
    Keeps s (t.recheckHolds) := by
  unfold State.recheckHolds
  with_reducible
    repeat' first
      | exact h
      | assumption
      | intro _
      | apply State.checkIdentity_keeps
      | refine Keeps.foldl ?_ _ ?_
      | refine Keeps.foldl_fst ?_ _ ?_
      | split
      | dsimp only
      | apply Keeps.upd

theorem State.badCodeword_keeps {s t : State} (h : Keeps s t) (o : Fin 24) :
    Keeps s (t.badCodeword o) := by
  unfold State.badCodeword
  with_reducible
    repeat' first
      | exact h
      | assumption
      | intro _
      | apply State.bump_keeps
      | dsimp only
      | apply Keeps.upd

theorem State.arrive_keeps {s t : State} (h : Keeps s t) (o : Fin 24) (f : RxFrame) :
    Keeps s (t.arrive o f) := by
  unfold State.arrive
  with_reducible
    repeat' first
      | exact h
      | assumption
      | intro _
      | apply State.bump_keeps
      | apply State.onOar_keeps
      | apply State.badCodeword_keeps
      | split
      | dsimp only
      | apply Keeps.upd

theorem State.sendProof_keeps {s t : State} (h : Keeps s t) (o : Fin 24) :
    Keeps s (t.sendProof o) := by
  unfold State.sendProof
  with_reducible
    repeat' first
      | exact h
      | assumption
      | intro _
      | refine State.sign_keeps ?_ _ _ (by assumption)
      | apply State.onOar_keeps
      | apply State.sendTrain_keeps
      | refine Keeps.of_fst (by assumption) ?_
      | refine Keeps.of_snd (by assumption) ?_
      | refine Keeps.of_third (by assumption) ?_
      | split
      | dsimp only
      | apply Keeps.upd

theorem State.takeWord_keeps {s t : State} (h : Keeps s t) (o : Fin 24) (w : RxWord) (ctype : Nat) :
    Keeps s (t.takeWord o w ctype).1 := by
  unfold State.takeWord
  with_reducible
    repeat' first
      | exact h
      | assumption
      | intro _
      | apply State.bump_keeps
      | apply State.onOar_keeps
      | apply State.badCodeword_keeps
      | split
      | dsimp only
      | apply Keeps.upd

theorem State.freeReplay_keeps {s t : State} (h : Keeps s t) (o : Fin 24) (ack : Nat) :
    Keeps s (t.freeReplay o ack) := by
  unfold State.freeReplay
  with_reducible
    repeat' first
      | exact h
      | assumption
      | intro _
      | apply State.onOar_keeps
      | dsimp only
      | apply Keeps.upd

theorem State.resend_keeps {s t : State} (h : Keeps s t) (o : Fin 24) :
    Keeps s (t.resend o) := by
  unfold State.resend
  with_reducible
    repeat' first
      | exact h
      | assumption
      | intro _
      | apply State.bump_keeps
      | apply State.emit_keeps
      | apply State.onOar_keeps
      | apply State.raiseOar_keeps
      | apply State.loseOar_keeps
      | refine Keeps.foldl ?_ _ ?_
      | refine Keeps.foldl_fst ?_ _ ?_
      | split
      | dsimp only
      | apply Keeps.upd

theorem State.damaged_keeps {s t : State} (h : Keeps s t) (o : Fin 24) :
    Keeps s (t.damaged o) := by
  unfold State.damaged
  with_reducible
    repeat' first
      | exact h
      | assumption
      | intro _
      | apply State.sendAck_keeps
      | split
      | dsimp only
      | apply Keeps.upd

theorem State.tagFailure_keeps {s t : State} (h : Keeps s t) (o : Fin 24) :
    Keeps s (t.tagFailure o) := by
  unfold State.tagFailure
  with_reducible
    repeat' first
      | exact h
      | assumption
      | intro _
      | apply State.bump_keeps
      | apply State.onOar_keeps
      | apply State.raiseOar_keeps
      | apply State.loseOar_keeps
      | apply State.damaged_keeps
      | split
      | dsimp only
      | apply Keeps.upd

theorem State.usePeer_keeps {s t : State} (h : Keeps s t) (origin crew : Nat) :
    ∀ u, t.usePeer origin crew = some u → Keeps s u := by
  intro u e
  unfold State.usePeer at e
  dsimp only at e
  split at e
  · cases e; exact Keeps.upd h ..
  · split at e
    · cases e
      split
      · exact State.setEntry_keeps (Keeps.upd h ..) ..
      · exact Keeps.upd h ..
    · exact nomatch e

theorem State.freeFrame_keeps {s t : State} (h : Keeps s t) (w : Fin 12) (f : RxFrame) :
    Keeps s (t.freeFrame w f) := by
  unfold State.freeFrame
  with_reducible
    repeat' first
      | exact h
      | assumption
      | intro _
      | apply State.freeCredit_keeps
      | split
      | dsimp only
      | apply Keeps.upd

theorem State.forward_keeps {s t : State} (h : Keeps s t) (w : Fin 12) (f : RxFrame) :
    Keeps s (t.forward w f) := by
  unfold State.forward
  with_reducible
    repeat' first
      | exact h
      | assumption
      | intro _
      | apply State.bump_keeps
      | apply State.sendFrame_keeps
      | apply State.freeFrame_keeps
      | refine Keeps.of_fst (by assumption) ?_
      | refine Keeps.of_snd (by assumption) ?_
      | refine Keeps.of_third (by assumption) ?_
      | split
      | dsimp only
      | apply Keeps.upd

theorem State.noteAccepted_keeps {s t : State} (h : Keeps s t) (o : Fin 24) (w : Fin 12) (f : RxFrame) :
    Keeps s (t.noteAccepted o w f) := by
  unfold State.noteAccepted
  with_reducible
    repeat' first
      | exact h
      | assumption
      | intro _
      | apply State.bump_keeps
      | apply State.onOar_keeps
      | apply State.onSweep_keeps
      | apply State.sendAck_keeps
      | apply State.pump_keeps
      | apply State.openWindows_keeps
      | apply State.freeReplay_keeps
      | split
      | dsimp only
      | apply Keeps.upd

theorem State.holdFrame_keeps {s t : State} (h : Keeps s t) (o : Fin 24) (f : RxFrame) :
    Keeps s (t.holdFrame o f) := by
  unfold State.holdFrame
  with_reducible
    repeat' first
      | exact h
      | assumption
      | intro _
      | apply State.bump_keeps
      | apply State.raiseOar_keeps
      | split
      | dsimp only
      | apply Keeps.upd

theorem State.deliver_keeps {s t : State} (h : Keeps s t) (o : Fin 24) (w : Fin 12) (f : RxFrame) :
    Keeps s (t.deliver o w f).1 := by
  unfold State.deliver
  split
  · dsimp only
    exact State.bump_keeps (State.freeFrame_keeps h ..) ..
  · generalize e : (if sameModule f.origin t.moduleId = true then some t else t.usePeer f.origin f.crew) = p
    cases p with
    | none => exact State.holdFrame_keeps h ..
    | some u =>
      have k : Keeps s u := by
        split at e
        · cases e; exact h
        · exact State.usePeer_keeps h _ _ _ e
      dsimp only
      split
      · exact State.forward_keeps k ..
      · dsimp only
        split
        · exact State.freeFrame_keeps k ..
        · exact k

theorem State.accepted_keeps {s t : State} (h : Keeps s t) (o : Fin 24) (w : Fin 12) (f : RxFrame) :
    Keeps s (t.accepted o w f).1 := by
  unfold State.accepted
  with_reducible
    repeat' first
      | exact h
      | assumption
      | intro _
      | apply State.onSweep_keeps
      | apply State.raiseOar_keeps
      | apply State.loseOar_keeps
      | apply State.noteAccepted_keeps
      | apply State.deliver_keeps
      | split
      | dsimp only
      | apply Keeps.upd

theorem State.receive_keeps {s t : State} (h : Keeps s t) (o : Fin 24) (f : RxFrame) :
    Keeps s (t.receive o f).1 := by
  unfold State.receive
  with_reducible
    repeat' first
      | exact h
      | assumption
      | intro _
      | apply State.bump_keeps
      | apply State.sendWord_keeps
      | apply State.arrive_keeps
      | apply State.damaged_keeps
      | apply State.tagFailure_keeps
      | apply State.accepted_keeps
      | refine Keeps.of_fst (by assumption) ?_
      | refine Keeps.of_snd (by assumption) ?_
      | refine Keeps.of_third (by assumption) ?_
      | split
      | dsimp only
      | apply Keeps.upd

theorem State.otherFrame_keeps {s t : State} (h : Keeps s t) (o : Fin 24) (f : RxFrame) :
    Keeps s (t.otherFrame o f) := by
  unfold State.otherFrame
  with_reducible
    repeat' first
      | exact h
      | assumption
      | intro _
      | apply State.receive_keeps
      | split
      | dsimp only
      | apply Keeps.upd

theorem State.stopFrame_keeps {s t : State} (h : Keeps s t) (w : Fin 12) (f : RxFrame) :
    Keeps s (t.stopFrame w f) := by
  unfold State.stopFrame
  with_reducible
    repeat' first
      | exact h
      | assumption
      | intro _
      | apply State.bump_keeps
      | apply State.stopWith_keeps
      | split
      | dsimp only
      | apply Keeps.upd

theorem State.telemFrame_keeps {s t : State} (h : Keeps s t) (w : Fin 12) (f : RxFrame) :
    Keeps s (t.telemFrame w f) := by
  unfold State.telemFrame
  with_reducible
    repeat' first
      | exact h
      | assumption
      | intro _
      | apply State.setEntry_keeps
      | apply State.setBlob_keeps
      | apply State.onSweep_keeps
      | dsimp only
      | apply Keeps.upd

theorem State.sendSwitch_keeps {s t : State} (h : Keeps s t) (o : Fin 24) (k : KeyExchange) :
    Keeps s (t.sendSwitch o k) := by
  unfold State.sendSwitch
  with_reducible
    repeat' first
      | exact h
      | assumption
      | intro _
      | apply State.onOar_keeps
      | apply State.sendTrain_keeps
      | dsimp only
      | apply Keeps.upd

theorem State.endRekey_keeps {s t : State} (h : Keeps s t) (o : Fin 24) :
    Keeps s (t.endRekey o) := by
  unfold State.endRekey
  with_reducible
    repeat' first
      | exact h
      | assumption
      | intro _
      | apply State.setEntry_keeps
      | apply State.bump_keeps
      | apply State.onOar_keeps
      | refine Keeps.of_fst (by assumption) ?_
      | refine Keeps.of_snd (by assumption) ?_
      | refine Keeps.of_third (by assumption) ?_
      | split
      | dsimp only
      | apply Keeps.upd

theorem State.sendCrewUpdate_keeps {s t : State} (h : Keeps s t) (o : Fin 24) (c : Fin 4) :
    Keeps s (t.sendCrewUpdate o c) := by
  unfold State.sendCrewUpdate
  with_reducible
    repeat' first
      | exact h
      | assumption
      | intro _
      | apply State.drawBytes_keeps
      | apply State.onOar_keeps
      | apply State.sendTrain_keeps
      | refine Keeps.of_fst (by assumption) ?_
      | refine Keeps.of_snd (by assumption) ?_
      | refine Keeps.of_third (by assumption) ?_
      | dsimp only
      | apply Keeps.upd

theorem State.pumpOar_keeps {s t : State} (h : Keeps s t) (o : Fin 24) :
    Keeps s (t.pumpOar o) := by
  unfold State.pumpOar
  with_reducible
    repeat' first
      | exact h
      | assumption
      | intro _
      | apply State.pump_keeps
      | refine Keeps.of_fst (by assumption) ?_
      | refine Keeps.of_snd (by assumption) ?_
      | refine Keeps.of_third (by assumption) ?_
      | split
      | dsimp only
      | apply Keeps.upd

theorem State.keyCrew_keeps {s t : State} (h : Keeps s t) (o : Fin 24) (c : Fin 4) (g : Nat) (random : List Byte) (send recv : Nat) :
    Keeps s (t.keyCrew o c g random send recv) := by
  unfold State.keyCrew
  with_reducible
    repeat' first
      | exact h
      | assumption
      | intro _
      | apply State.onOar_keeps
      | dsimp only
      | apply Keeps.upd

theorem State.writeUnit_keeps {s t : State} (h : Keeps s t) (a : Acc) (t0 : Tensor) (u : Nat) (es xs : List Byte) :
    Keeps s (t.writeUnit a t0 u es xs) := by
  unfold State.writeUnit
  with_reducible
    repeat' first
      | exact h
      | assumption
      | intro _
      | apply State.store_keeps
      | apply State.holdSpans_keeps
      | refine Keeps.of_fst (by assumption) ?_
      | refine Keeps.of_snd (by assumption) ?_
      | refine Keeps.of_third (by assumption) ?_
      | dsimp only
      | apply Keeps.upd

theorem State.putCollective_keeps {s t : State} (h : Keeps s t) (k : Collective) :
    Keeps s (t.putCollective k) := by
  unfold State.putCollective
  with_reducible
    repeat' first
      | exact h
      | assumption
      | intro _
      | split
      | dsimp only
      | apply Keeps.upd

theorem State.relayScull_keeps {s t : State} (h : Keeps s t) (k : Collective) (u0 n : Nat) :
    Keeps s (t.relayScull k u0 n) := by
  unfold State.relayScull
  with_reducible
    repeat' first
      | exact h
      | assumption
      | intro _
      | apply State.bump_keeps
      | refine Keeps.of_fst (by assumption) ?_
      | refine Keeps.of_snd (by assumption) ?_
      | refine Keeps.of_third (by assumption) ?_
      | split
      | dsimp only
      | apply Keeps.upd

theorem State.relayMove_keeps {s t : State} (h : Keeps s t) (k : Collective) (i read written : Nat) :
    Keeps s (t.relayMove k i read written) := by
  unfold State.relayMove
  with_reducible
    repeat' first
      | exact h
      | assumption
      | intro _
      | apply State.bump_keeps
      | refine Keeps.of_fst (by assumption) ?_
      | refine Keeps.of_snd (by assumption) ?_
      | refine Keeps.of_third (by assumption) ?_
      | split
      | dsimp only
      | apply Keeps.upd

theorem State.sendRing_keeps {s t : State} (h : Keeps s t) (k : Collective) (g : RelayStage) (r : RingHeader) (payload : List Byte) :
    Keeps s (t.sendRing k g r payload) := by
  unfold State.sendRing
  with_reducible
    repeat' first
      | exact h
      | assumption
      | intro _
      | apply State.sendFrame_keeps
      | apply State.sendSegment_keeps
      | split
      | dsimp only
      | apply Keeps.upd

theorem State.countSource_keeps {s t : State} (h : Keeps s t) (k : Collective) (u0 n : Nat) :
    Keeps s (t.countSource k u0 n) := by
  unfold State.countSource
  with_reducible
    repeat' first
      | exact h
      | assumption
      | intro _
      | apply State.bump_keeps
      | apply State.raiseHeat_keeps
      | apply State.raiseTimes_keeps
      | split
      | dsimp only
      | apply Keeps.upd

theorem State.localSeg_keeps {s t : State} (h : Keeps s t) (k : Collective) (u0 n : Nat) :
    Keeps s (t.localSeg k u0 n).1 := by
  unfold State.localSeg
  with_reducible
    repeat' first
      | exact h
      | assumption
      | intro _
      | apply State.bump_keeps
      | apply State.raiseHeat_keeps
      | apply State.relayScull_keeps
      | apply State.countSource_keeps
      | refine Keeps.of_fst (by assumption) ?_
      | refine Keeps.of_snd (by assumption) ?_
      | refine Keeps.of_third (by assumption) ?_
      | split
      | dsimp only
      | apply Keeps.upd

theorem State.addSeg_keeps {s t : State} (h : Keeps s t) (k : Collective) (u0 : Nat) (u v : List Elem) :
    Keeps s (t.addSeg k u0 u v).1 := by
  unfold State.addSeg
  with_reducible
    repeat' first
      | exact h
      | assumption
      | intro _
      | apply State.bump_keeps
      | apply State.relayScull_keeps
      | refine Keeps.of_fst (by assumption) ?_
      | refine Keeps.of_snd (by assumption) ?_
      | refine Keeps.of_third (by assumption) ?_
      | dsimp only
      | apply Keeps.upd

theorem State.putResult_keeps {s t : State} (h : Keeps s t) (k : Collective) (u0 : Nat) (es : List Elem) :
    Keeps s (t.putResult k u0 es).1 := by
  unfold State.putResult
  with_reducible
    repeat' first
      | exact h
      | assumption
      | intro _
      | apply State.writeUnit_keeps
      | refine Keeps.foldl ?_ _ ?_
      | refine Keeps.foldl_fst ?_ _ ?_
      | split
      | dsimp only
      | apply Keeps.upd

theorem State.startSeg_keeps {s t : State} (h : Keeps s t) (k : Collective) (c : Nat) (minus : Bool) (hop seq : Nat) :
    Keeps s (t.startSeg k c minus hop seq).1 := by
  unfold State.startSeg
  with_reducible
    repeat' first
      | exact h
      | assumption
      | intro _
      | apply State.sendRing_keeps
      | apply State.localSeg_keeps
      | refine Keeps.of_fst (by assumption) ?_
      | refine Keeps.of_snd (by assumption) ?_
      | refine Keeps.of_third (by assumption) ?_
      | dsimp only
      | apply Keeps.upd

theorem State.beginReduce_keeps {s t : State} (h : Keeps s t) (k : Collective) :
    Keeps s (t.beginReduce k).1 := by
  unfold State.beginReduce
  with_reducible
    repeat' first
      | exact h
      | assumption
      | intro _
      | apply State.startSeg_keeps
      | refine Keeps.foldl ?_ _ ?_
      | refine Keeps.foldl_fst ?_ _ ?_
      | dsimp only
      | apply Keeps.upd

theorem State.reduceSeg_keeps {s t : State} (h : Keeps s t) (k : Collective) (r : RingHeader) (payload : List Byte) :
    Keeps s (t.reduceSeg k r payload).1 := by
  unfold State.reduceSeg
  with_reducible
    repeat' first
      | exact h
      | assumption
      | intro _
      | apply State.sendRing_keeps
      | apply State.localSeg_keeps
      | apply State.addSeg_keeps
      | apply State.putResult_keeps
      | refine Keeps.of_fst (by assumption) ?_
      | refine Keeps.of_snd (by assumption) ?_
      | refine Keeps.of_third (by assumption) ?_
      | split
      | dsimp only
      | apply Keeps.upd

theorem State.beginLap_keeps {s t : State} (h : Keeps s t) (k : Collective) :
    Keeps s (t.beginLap k).1 := by
  unfold State.beginLap
  with_reducible
    repeat' first
      | exact h
      | assumption
      | intro _
      | apply State.sendRing_keeps
      | refine Keeps.of_fst (by assumption) ?_
      | refine Keeps.of_snd (by assumption) ?_
      | refine Keeps.of_third (by assumption) ?_
      | split
      | dsimp only
      | apply Keeps.upd

theorem State.lapSeg_keeps {s t : State} (h : Keeps s t) (k : Collective) (r : RingHeader) (payload : List Byte) :
    Keeps s (t.lapSeg k r payload).1 := by
  unfold State.lapSeg
  with_reducible
    repeat' first
      | exact h
      | assumption
      | intro _
      | apply State.sendRing_keeps
      | refine Keeps.of_fst (by assumption) ?_
      | refine Keeps.of_snd (by assumption) ?_
      | refine Keeps.of_third (by assumption) ?_
      | split
      | dsimp only
      | apply Keeps.upd

theorem State.landUnit_keeps {s t : State} (h : Keeps s t) (k : Collective) (u : Nat) (es xs : List Byte) :
    Keeps s (t.landUnit k u es xs) := by
  unfold State.landUnit
  with_reducible
    repeat' first
      | exact h
      | assumption
      | intro _
      | apply State.onBlade_keeps
      | apply State.countLanded_keeps
      | apply State.writeUnit_keeps
      | refine Keeps.of_fst (by assumption) ?_
      | refine Keeps.of_snd (by assumption) ?_
      | refine Keeps.of_third (by assumption) ?_
      | split
      | dsimp only
      | apply Keeps.upd

theorem State.beginGather_keeps {s t : State} (h : Keeps s t) (k : Collective) :
    Keeps s (t.beginGather k).1 := by
  unfold State.beginGather
  with_reducible
    repeat' first
      | exact h
      | assumption
      | intro _
      | apply State.relayMove_keeps
      | apply State.sendRing_keeps
      | refine Keeps.foldl ?_ _ ?_
      | refine Keeps.foldl_fst ?_ _ ?_
      | refine Keeps.of_fst (by assumption) ?_
      | refine Keeps.of_snd (by assumption) ?_
      | refine Keeps.of_third (by assumption) ?_
      | split
      | dsimp only
      | apply Keeps.upd

theorem State.gatherRecv_keeps {s t : State} (h : Keeps s t) (k : Collective) (r : RingHeader) (payload : List Byte) (w : Nat) :
    Keeps s (t.gatherRecv k r payload w).1 := by
  unfold State.gatherRecv
  with_reducible
    repeat' first
      | exact h
      | assumption
      | intro _
      | apply State.onBlade_keeps
      | apply State.freeCredit_keeps
      | apply State.relayMove_keeps
      | apply State.sendRing_keeps
      | apply State.landUnit_keeps
      | refine Keeps.foldl ?_ _ ?_
      | refine Keeps.foldl_fst ?_ _ ?_
      | refine Keeps.of_fst (by assumption) ?_
      | refine Keeps.of_snd (by assumption) ?_
      | refine Keeps.of_third (by assumption) ?_
      | split
      | dsimp only
      | apply Keeps.upd

theorem State.beginPermute_keeps {s t : State} (h : Keeps s t) (k : Collective) :
    Keeps s (t.beginPermute k).1 := by
  unfold State.beginPermute
  with_reducible
    repeat' first
      | exact h
      | assumption
      | intro _
      | apply State.sendSegment_keeps
      | apply State.relayMove_keeps
      | refine Keeps.foldl ?_ _ ?_
      | refine Keeps.foldl_fst ?_ _ ?_
      | refine Keeps.of_fst (by assumption) ?_
      | refine Keeps.of_snd (by assumption) ?_
      | refine Keeps.of_third (by assumption) ?_
      | split
      | dsimp only
      | apply Keeps.upd

theorem State.permuteRecv_keeps {s t : State} (h : Keeps s t) (k : Collective) (r : RingHeader) (payload : List Byte) :
    Keeps s (t.permuteRecv k r payload).1 := by
  unfold State.permuteRecv
  with_reducible
    repeat' first
      | exact h
      | assumption
      | intro _
      | apply State.writeUnit_keeps
      | apply State.relayMove_keeps
      | refine Keeps.foldl ?_ _ ?_
      | refine Keeps.foldl_fst ?_ _ ?_
      | dsimp only
      | apply Keeps.upd

theorem State.advance_keeps {s t : State} (h : Keeps s t) (k : Collective) :
    Keeps s (t.advance k).1 := by
  unfold State.advance
  with_reducible
    repeat' first
      | exact h
      | assumption
      | intro _
      | apply State.beginReduce_keeps
      | apply State.beginLap_keeps
      | apply State.beginGather_keeps
      | refine Keeps.of_fst (by assumption) ?_
      | refine Keeps.of_snd (by assumption) ?_
      | refine Keeps.of_third (by assumption) ?_
      | split
      | dsimp only
      | apply Keeps.upd

theorem State.actOn_keeps {s t : State} (h : Keeps s t) (k : Collective) (x : HeldSegment) :
    Keeps s (t.actOn k x) := by
  unfold State.actOn
  with_reducible
    repeat' first
      | exact h
      | assumption
      | intro _
      | apply State.freeCredit_keeps
      | apply State.putCollective_keeps
      | apply State.reduceSeg_keeps
      | apply State.lapSeg_keeps
      | apply State.gatherRecv_keeps
      | apply State.permuteRecv_keeps
      | apply State.advance_keeps
      | refine Keeps.of_fst (by assumption) ?_
      | refine Keeps.of_snd (by assumption) ?_
      | refine Keeps.of_third (by assumption) ?_
      | split
      | dsimp only
      | apply Keeps.upd

theorem State.drainN_keeps {s t : State} (c : Fin 4) (fuel : Nat) (h : Keeps s t) : Keeps s (State.drainN c fuel t) := by
  induction fuel generalizing t with
  | zero => exact h
  | succ fuel ih =>
    unfold State.drainN
    with_reducible
    repeat' first
      | exact h
      | exact ih
      | assumption
      | intro _
      | apply ih
      | apply State.actOn_keeps
      | refine Keeps.of_fst (by assumption) ?_
      | refine Keeps.of_snd (by assumption) ?_
      | refine Keeps.of_third (by assumption) ?_
      | split
      | dsimp only
      | apply Keeps.upd

theorem State.drain_keeps {s t : State} (h : Keeps s t) (c : Fin 4) :
    Keeps s (t.drain c) := by
  unfold State.drain
  with_reducible
    repeat' first
      | exact h
      | assumption
      | intro _
      | apply State.settlePeerWait_keeps
      | apply State.drainN_keeps
      | dsimp only
      | apply Keeps.upd

theorem State.takeSegment_keeps {s t : State} (h : Keeps s t) (c : Fin 4) (x : HeldSegment) :
    Keeps s (t.takeSegment c x) := by
  unfold State.takeSegment
  with_reducible
    repeat' first
      | exact h
      | assumption
      | intro _
      | apply State.setEntry_keeps
      | apply State.bump_keeps
      | apply State.raise_keeps
      | apply State.freeCredit_keeps
      | apply State.actOn_keeps
      | apply State.drain_keeps
      | refine Keeps.of_fst (by assumption) ?_
      | refine Keeps.of_snd (by assumption) ?_
      | refine Keeps.of_third (by assumption) ?_
      | split
      | dsimp only
      | apply Keeps.upd

theorem State.dataFrame_keeps {s t : State} (h : Keeps s t) (w : Fin 12) (f : RxFrame) :
    Keeps s (t.dataFrame w f) := by
  unfold State.dataFrame
  with_reducible
    repeat' first
      | exact h
      | assumption
      | intro _
      | apply State.takeSegment_keeps
      | dsimp only
      | apply Keeps.upd

theorem State.receiveData_keeps {s t : State} (h : Keeps s t) (o : Fin 24) (f : RxFrame) (op : Nat) :
    Keeps s (t.receiveData o f op) := by
  unfold State.receiveData
  with_reducible
    repeat' first
      | exact h
      | assumption
      | intro _
      | apply State.receive_keeps
      | apply State.otherFrame_keeps
      | apply State.dataFrame_keeps
      | refine Keeps.of_fst (by assumption) ?_
      | refine Keeps.of_snd (by assumption) ?_
      | refine Keeps.of_third (by assumption) ?_
      | split
      | dsimp only
      | apply Keeps.upd

theorem State.agree_keeps {s t : State} (h : Keeps s t) (k : Collective) :
    Keeps s (t.agree k).1 := by
  unfold State.agree
  with_reducible
    repeat' first
      | exact h
      | assumption
      | intro _
      | dsimp only
      | apply Keeps.upd

theorem State.settleReduction_keeps {s t : State} (h : Keeps s t) (k : Collective) :
    Keeps s (t.settleReduction k) := by
  unfold State.settleReduction
  with_reducible
    repeat' first
      | exact h
      | assumption
      | intro _
      | apply State.settlePeerWait_keeps
      | apply State.putCollective_keeps
      | apply State.beginGather_keeps
      | apply State.drain_keeps
      | refine Keeps.of_fst (by assumption) ?_
      | refine Keeps.of_snd (by assumption) ?_
      | refine Keeps.of_third (by assumption) ?_
      | split
      | dsimp only
      | apply Keeps.upd

theorem State.relayStatus_keeps {s t : State} (h : Keeps s t) (k : Collective) :
    Keeps s (t.relayStatus k) := by
  unfold State.relayStatus
  with_reducible
    repeat' first
      | exact h
      | assumption
      | intro _
      | apply State.putStatus_keeps
      | split
      | dsimp only
      | apply Keeps.upd

theorem State.raiseNeighbours_keeps {s t : State} (h : Keeps s t) (h0 : Fin 64) (d : RelayDesc) :
    Keeps s (t.raiseNeighbours h0 d) := by
  unfold State.raiseNeighbours
  with_reducible
    repeat' first
      | exact h
      | assumption
      | intro _
      | apply State.raiseHeat_keeps
      | refine Keeps.of_fst (by assumption) ?_
      | refine Keeps.of_snd (by assumption) ?_
      | refine Keeps.of_third (by assumption) ?_
      | split
      | dsimp only
      | apply Keeps.upd

theorem State.startCollective_keeps {s t : State} (h : Keeps s t) (q : QItem) (d : RelayDesc) :
    Keeps s (t.startCollective q d) := by
  unfold State.startCollective
  with_reducible
    repeat' first
      | exact h
      | assumption
      | intro _
      | apply State.setQueue_keeps
      | apply State.putCollective_keeps
      | apply State.relayMove_keeps
      | apply State.beginReduce_keeps
      | apply State.landUnit_keeps
      | apply State.beginGather_keeps
      | apply State.beginPermute_keeps
      | apply State.advance_keeps
      | apply State.drain_keeps
      | refine Keeps.foldl ?_ _ ?_
      | refine Keeps.foldl_fst ?_ _ ?_
      | refine Keeps.of_fst (by assumption) ?_
      | refine Keeps.of_snd (by assumption) ?_
      | refine Keeps.of_third (by assumption) ?_
      | split
      | dsimp only
      | apply Keeps.upd

theorem State.relayHead_keeps {s t : State} (h : Keeps s t) (h0 : Fin 64) (op : Nat) :
    Keeps s (t.relayHead h0 op) := by
  unfold State.relayHead
  with_reducible
    repeat' first
      | exact h
      | assumption
      | intro _
      | apply State.setQueue_keeps
      | apply State.faultHeat_keeps
      | apply State.raiseNeighbours_keeps
      | apply State.startCollective_keeps
      | refine Keeps.of_fst (by assumption) ?_
      | refine Keeps.of_snd (by assumption) ?_
      | refine Keeps.of_third (by assumption) ?_
      | split
      | dsimp only
      | apply Keeps.upd

theorem State.startHeat_keeps {s t : State} (h : Keeps s t) (h0 : Fin 64) :
    Keeps s (t.startHeat h0) := by
  unfold State.startHeat
  with_reducible
    repeat' first
      | exact h
      | assumption
      | intro _
      | apply State.raiseHeat_keeps
      | apply State.onHeat_keeps
      | apply State.onCrew_keeps
      | refine Keeps.of_fst (by assumption) ?_
      | refine Keeps.of_snd (by assumption) ?_
      | refine Keeps.of_third (by assumption) ?_
      | split
      | dsimp only
      | apply Keeps.upd

theorem State.stopHeat_keeps {s t : State} (h : Keeps s t) (h0 : Fin 64) :
    Keeps s (t.stopHeat h0) := by
  unfold State.stopHeat
  with_reducible
    repeat' first
      | exact h
      | assumption
      | intro _
      | apply State.endHeat_keeps
      | apply State.idle_keeps
      | split
      | dsimp only
      | apply Keeps.upd

theorem State.suspendHeat_keeps {s t : State} (h : Keeps s t) (h0 : Fin 64) :
    Keeps s (t.suspendHeat h0) := by
  unfold State.suspendHeat
  with_reducible
    repeat' first
      | exact h
      | assumption
      | intro _
      | apply State.onHeat_keeps
      | split
      | dsimp only
      | apply Keeps.upd

theorem State.resumeHeat_keeps {s t : State} (h : Keeps s t) (h0 : Fin 64) :
    Keeps s (t.resumeHeat h0) := by
  unfold State.resumeHeat
  with_reducible
    repeat' first
      | exact h
      | assumption
      | intro _
      | apply State.onHeat_keeps
      | apply State.schedule_keeps
      | dsimp only
      | apply Keeps.upd

theorem State.requestPreemption_keeps {s t : State} (h : Keeps s t) (h0 : Fin 64) :
    Keeps s (t.requestPreemption h0) := by
  unfold State.requestPreemption
  with_reducible
    repeat' first
      | exact h
      | assumption
      | intro _
      | apply State.raiseHeat_keeps
      | apply State.onHeat_keeps
      | refine Keeps.of_fst (by assumption) ?_
      | refine Keeps.of_snd (by assumption) ?_
      | refine Keeps.of_third (by assumption) ?_
      | split
      | dsimp only
      | apply Keeps.upd

theorem State.clearCrewUnits_keeps {s t : State} (h : Keeps s t) (c : Fin 4) : Keeps s (t.clearCrewUnits c) :=
  ⟨h.pending, fun k => sparseWf_filter _ (h.canon k)⟩

theorem State.settleEngine_keeps {s t : State} (h : Keeps s t) (e : Fin 16) :
    Keeps s (t.settleEngine e) := by
  unfold State.settleEngine
  with_reducible
    repeat' first
      | exact h
      | assumption
      | intro _
      | apply State.bump_keeps
      | apply State.onEngine_keeps
      | split
      | dsimp only
      | apply Keeps.upd

theorem State.settleEngines_keeps {s t : State} (h : Keeps s t) (c : Fin 4) :
    Keeps s (t.settleEngines c) := by
  unfold State.settleEngines
  with_reducible
    repeat' first
      | exact h
      | assumption
      | intro _
      | apply State.settleEngine_keeps
      | refine Keeps.foldl ?_ _ ?_
      | refine Keeps.foldl_fst ?_ _ ?_
      | split
      | dsimp only
      | apply Keeps.upd

theorem foldl_set_wf {m : List Host.Cell} (cs : List Host.Cell) (h : sparseWf (fun _ => (0 : Byte)) m = true) :
    sparseWf (fun _ => (0 : Byte)) (cs.foldl (fun m x => sparseSet 0 m x.1 x.2) m) = true := by
  induction cs generalizing m with
  | nil => exact h
  | cons x cs ih => exact ih (sparseWf_set (d := fun _ => (0 : Byte)) x.1 x.2 h)

theorem State.putSave_keeps {s t : State} (h : Keeps s t) (h0 : Fin 64) (v : Save) : Keeps s (t.putSave h0 v) := by
  unfold State.putSave
  have k : Keeps s { t with
      mem := v.cells.foldl (fun m x => sparseSet 0 m x.1 x.2) t.mem, relayQueues := t.relayQueues.set h0 v.relay } :=
    ⟨h.pending, fun c => foldl_set_wf _ (h.canon c)⟩
  with_reducible
    repeat' first
      | exact k
      | assumption
      | intro _
      | apply State.onBlade_keeps
      | apply State.onEngine_keeps
      | apply State.onSweep_keeps
      | refine Keeps.foldl ?_ _ ?_
      | refine Keeps.foldl_fst ?_ _ ?_
      | refine Keeps.of_fst (by assumption) ?_
      | refine Keeps.of_snd (by assumption) ?_
      | refine Keeps.of_third (by assumption) ?_
      | split
      | dsimp only
      | apply Keeps.upd

theorem State.faultParked_keeps {s t : State} (h : Keeps s t) (h0 : Fin 64) :
    Keeps s (t.faultParked h0) := by
  unfold State.faultParked
  with_reducible
    repeat' first
      | exact h
      | assumption
      | intro _
      | apply State.faultHeat_keeps
      | refine Keeps.foldl ?_ _ ?_
      | refine Keeps.foldl_fst ?_ _ ?_
      | refine Keeps.of_fst (by assumption) ?_
      | refine Keeps.of_snd (by assumption) ?_
      | refine Keeps.of_third (by assumption) ?_
      | split
      | dsimp only
      | apply Keeps.upd

theorem State.resumeRestored_keeps {s t : State} (h : Keeps s t) (h0 : Fin 64) :
    Keeps s (t.resumeRestored h0) := by
  unfold State.resumeRestored
  with_reducible
    repeat' first
      | exact h
      | assumption
      | intro _
      | apply State.onHeat_keeps
      | apply State.fetchLayer_keeps
      | apply State.launchHead_keeps
      | apply State.faultParked_keeps
      | refine Keeps.foldl ?_ _ ?_
      | refine Keeps.foldl_fst ?_ _ ?_
      | refine Keeps.of_fst (by assumption) ?_
      | refine Keeps.of_snd (by assumption) ?_
      | refine Keeps.of_third (by assumption) ?_
      | split
      | dsimp only
      | apply Keeps.upd

theorem State.updateCeilings_keeps {s t : State} (h : Keeps s t) (h0 : Fin 64) (ts : List (Nat × Tensor)) :
    Keeps s (t.updateCeilings h0 ts) := by
  unfold State.updateCeilings
  with_reducible
    repeat' first
      | exact h
      | assumption
      | intro _
      | apply State.storeNat_keeps
      | refine Keeps.foldl ?_ _ ?_
      | refine Keeps.foldl_fst ?_ _ ?_
      | dsimp only
      | apply Keeps.upd

theorem State.putLoss_keeps {s t : State} (h : Keeps s t) (h0 : Fin 64) (m : LossMonitor) :
    Keeps s (t.putLoss h0 m) := by
  unfold State.putLoss
  with_reducible
    repeat' first
      | exact h
      | assumption
      | intro _
      | apply State.setEntry_keeps
      | apply State.onHeat_keeps
      | dsimp only
      | apply Keeps.upd

theorem State.raiseLoss_keeps {s t : State} (h : Keeps s t) (h0 : Fin 64) (m : LossMonitor) (mark : Bool) :
    Keeps s (t.raiseLoss h0 m mark) := by
  unfold State.raiseLoss
  with_reducible
    repeat' first
      | exact h
      | assumption
      | intro _
      | apply State.setEntry_keeps
      | apply State.raiseHeat_keeps
      | split
      | dsimp only
      | apply Keeps.upd

theorem State.checkLoss_keeps {s t : State} (h : Keeps s t) (h0 : Fin 64) :
    Keeps s (t.checkLoss h0) := by
  unfold State.checkLoss
  with_reducible
    repeat' first
      | exact h
      | assumption
      | intro _
      | apply State.bump_keeps
      | apply State.putLoss_keeps
      | apply State.raiseLoss_keeps
      | split
      | dsimp only
      | apply Keeps.upd

end Sys2Proof.Machine
end

