-- ==== Sys2Proof/Laws/KeepsData.lean ====
section
/-! SUPPORT. The frame of the operations of services, Slipway, Pacer and seats. -/
namespace Sys2Proof.Machine

theorem State.addService_keeps {s t : State} (h : Keeps s t) (h0 : Fin 64) (l : Fin 4) (csem : Nat) (op : ServiceOp) :
    Keeps s (t.addService h0 l csem op) := by
  unfold State.addService
  with_reducible
    repeat' first
      | exact h
      | assumption
      | intro _
      | apply State.onHeat_keeps
      | apply State.nextPc_keeps
      | dsimp only
      | apply Keeps.upd

theorem State.endService_keeps {s t : State} (h : Keeps s t) (h0 : Fin 64) (v : Service) :
    Keeps s (t.endService h0 v) := by
  unfold State.endService
  with_reducible
    repeat' first
      | exact h
      | assumption
      | intro _
      | apply State.onHeat_keeps
      | apply State.post_keeps
      | split
      | dsimp only
      | apply Keeps.upd

theorem State.starve_keeps {s t : State} (h : Keeps s t) (h0 : Fin 64) :
    Keeps s (t.starve h0) := by
  unfold State.starve
  with_reducible
    repeat' first
      | exact h
      | assumption
      | intro _
      | apply State.bump_keeps
      | apply State.raiseHeat_keeps
      | apply State.onHeat_keeps
      | refine Keeps.of_fst (by assumption) ?_
      | refine Keeps.of_snd (by assumption) ?_
      | refine Keeps.of_third (by assumption) ?_
      | split
      | dsimp only
      | apply Keeps.upd

theorem State.depart_keeps {s t : State} (h : Keeps s t) (h0 : Fin 64) (a : AdmitArg) :
    Keeps s (t.depart h0 a) := by
  unfold State.depart
  with_reducible
    repeat' first
      | exact h
      | assumption
      | intro _
      | apply State.bump_keeps
      | apply State.store1_keeps
      | apply State.onHeat_keeps
      | apply State.complete_keeps
      | refine Keeps.foldl ?_ _ ?_
      | refine Keeps.foldl_fst ?_ _ ?_
      | split
      | dsimp only
      | apply Keeps.upd

theorem State.expire_keeps {s t : State} (h : Keeps s t) (h0 : Fin 64) (a : AdmitArg) :
    Keeps s (t.expire h0 a) := by
  unfold State.expire
  with_reducible
    repeat' first
      | exact h
      | assumption
      | intro _
      | apply State.bump_keeps
      | apply State.onCrew_keeps
      | apply State.feed_keeps
      | apply State.complete_keeps
      | refine Keeps.foldl ?_ _ ?_
      | refine Keeps.foldl_fst ?_ _ ?_
      | dsimp only
      | apply Keeps.upd

theorem State.join_keeps {s t : State} (h : Keeps s t) (h0 : Fin 64) (a : AdmitArg) (r : AdmitReq) (blade : Nat) (pages : List Nat) :
    Keeps s (t.join h0 a r blade pages) := by
  unfold State.join
  with_reducible
    repeat' first
      | exact h
      | assumption
      | intro _
      | apply State.bump_keeps
      | apply State.store_keeps
      | apply State.storeNat_keeps
      | apply State.onHeat_keeps
      | apply State.onCrew_keeps
      | apply State.feed_keeps
      | apply State.complete_keeps
      | refine Keeps.foldl ?_ _ ?_
      | refine Keeps.foldl_fst ?_ _ ?_
      | dsimp only
      | apply Keeps.upd

theorem State.joinAll_keeps {s t : State} (h0 : Fin 64) (a : AdmitArg) (fuel : Nat) (h : Keeps s t) :
    Keeps s (State.joinAll h0 a fuel t) := by
  induction fuel generalizing t with
  | zero => exact h
  | succ fuel ih =>
    unfold State.joinAll
    dsimp only
    split
    · exact h
    · split
      · exact State.bump_keeps h ..
      · split
        · exact State.bump_keeps h ..
        · exact ih (State.join_keeps h ..)

theorem State.admitAtEdge_keeps {s t : State} (h : Keeps s t) (h0 : Fin 64) : Keeps s (t.admitAtEdge h0) := by
  unfold State.admitAtEdge
  dsimp only
  split
  · exact h
  · generalize List.findSome? _ _ = o
    cases o with
    | none => exact h
    | some p =>
      dsimp only
      split
      · exact State.faultHeat_keeps h ..
      · exact State.endService_keeps (State.joinAll_keeps _ _ _ (State.expire_keeps (State.depart_keeps h ..) ..)) ..

theorem State.onSlot_keeps {s t : State} (h : Keeps s t) (c : Fin 4) (i : Fin 6) (f : Slot → Slot) :
    Keeps s (t.onSlot c i f) := by
  unfold State.onSlot
  with_reducible
    repeat' first
      | exact h
      | assumption
      | intro _
      | apply State.onSlip_keeps
      | dsimp only
      | apply Keeps.upd

theorem State.sendPut_keeps {s t : State} (h : Keeps s t) (c : Fin 4) (dest kind slot block addr : Nat) (payload : List Byte) :
    Keeps s (t.sendPut c dest kind slot block addr payload) := by
  unfold State.sendPut
  with_reducible
    repeat' first
      | exact h
      | assumption
      | intro _
      | apply State.sendFrame_keeps
      | refine Keeps.of_fst (by assumption) ?_
      | refine Keeps.of_snd (by assumption) ?_
      | refine Keeps.of_third (by assumption) ?_
      | split
      | dsimp only
      | apply Keeps.upd

theorem State.sendBlocks_keeps {s t : State} (h : Keeps s t) (c : Fin 4) (from_ : Fin 6) (to_ kind dest : Nat) :
    Keeps s (t.sendBlocks c from_ to_ kind dest) := by
  unfold State.sendBlocks
  with_reducible
    repeat' first
      | exact h
      | assumption
      | intro _
      | apply State.sendPut_keeps
      | refine Keeps.foldl ?_ _ ?_
      | refine Keeps.foldl_fst ?_ _ ?_
      | dsimp only
      | apply Keeps.upd

theorem State.snapshotSlot_keeps {s t : State} (h : Keeps s t) (c : Fin 4) :
    Keeps s (t.snapshotSlot c).1 := by
  unfold State.snapshotSlot
  with_reducible
    repeat' first
      | exact h
      | assumption
      | intro _
      | apply State.bump_keeps
      | apply State.store_keeps
      | apply State.onSlot_keeps
      | dsimp only
      | apply Keeps.upd

theorem State.discardPut_keeps {s t : State} (h : Keeps s t) (c : Fin 4) (origin pseq : Nat) :
    Keeps s (t.discardPut c origin pseq) := by
  unfold State.discardPut
  with_reducible
    repeat' first
      | exact h
      | assumption
      | intro _
      | apply State.bump_keeps
      | apply State.raise_keeps
      | apply State.onSlip_keeps
      | split
      | dsimp only
      | apply Keeps.upd

theorem State.trySeal_keeps {s t : State} (h : Keeps s t) (c : Fin 4) (i : Fin 6) (origin : Nat) :
    Keeps s (t.trySeal c i origin) := by
  unfold State.trySeal
  with_reducible
    repeat' first
      | exact h
      | assumption
      | intro _
      | apply State.complete_keeps
      | apply State.onSlip_keeps
      | apply State.onSlot_keeps
      | apply State.sendPut_keeps
      | refine Keeps.of_fst (by assumption) ?_
      | refine Keeps.of_snd (by assumption) ?_
      | refine Keeps.of_third (by assumption) ?_
      | split
      | dsimp only
      | apply Keeps.upd

theorem State.landBlock_keeps {s t : State} (h : Keeps s t) (c : Fin 4) (i : Fin 6) (b addr : Nat) (payload : List Byte) (origin : Nat) :
    Keeps s (t.landBlock c i b addr payload origin) := by
  unfold State.landBlock
  with_reducible
    repeat' first
      | exact h
      | assumption
      | intro _
      | apply State.store_keeps
      | apply State.onSlot_keeps
      | apply State.trySeal_keeps
      | dsimp only
      | apply Keeps.upd

theorem State.sealReply_keeps {s t : State} (h : Keeps s t) (c : Fin 4) (slot origin : Nat) (payload : List Byte) :
    ∀ u, t.sealReply c slot origin payload = some u → Keeps s u := by
  intro u e
  unfold State.sealReply at e
  dsimp only at e
  split at e
  · cases e; exact State.onSlip_keeps h ..
  · split at e
    · cases e; exact State.raise_keeps (State.setEntry_keeps (State.onSlip_keeps h ..) ..) ..
    · exact nomatch e

theorem State.putEffect_keeps {s t : State} (h : Keeps s t) (c : Fin 4) (kind slot block addr origin : Nat) (payload : List Byte) :
    ∀ u, t.putEffect c kind slot block addr origin payload = some u → Keeps s u := by
  intro u e
  unfold State.putEffect at e
  dsimp only at e
  split at e
  · split at e
    · cases e; exact State.landBlock_keeps h ..
    · exact nomatch e
  · split at e
    · cases e; exact State.trySeal_keeps (State.onSlot_keeps h ..) ..
    · split at e
      · cases e; exact State.trySeal_keeps (State.onSlot_keeps h ..) ..
      · exact nomatch e
  · exact State.sealReply_keeps h _ _ _ _ _ e
  · split at e
    · cases e; exact State.landBlock_keeps h ..
    · exact nomatch e

theorem State.putFrame_keeps {s t : State} (h : Keeps s t) (w : Fin 12) (f : RxFrame) :
    Keeps s (t.putFrame w f) := by
  unfold State.putFrame
  with_reducible
    repeat' first
      | exact h
      | assumption
      | intro _
      | apply State.freeCredit_keeps
      | apply State.onSlip_keeps
      | apply State.discardPut_keeps
      | refine State.putEffect_keeps ?_ _ _ _ _ _ _ _ _ (by assumption)
      | refine Keeps.of_fst (by assumption) ?_
      | refine Keeps.of_snd (by assumption) ?_
      | refine Keeps.of_third (by assumption) ?_
      | split
      | dsimp only
      | apply Keeps.upd

theorem State.receivePut_keeps {s t : State} (h : Keeps s t) (o : Fin 24) (f : RxFrame) (kind : Nat) :
    Keeps s (t.receivePut o f kind) := by
  unfold State.receivePut
  with_reducible
    repeat' first
      | exact h
      | assumption
      | intro _
      | apply State.receive_keeps
      | apply State.otherFrame_keeps
      | apply State.putFrame_keeps
      | refine Keeps.of_fst (by assumption) ?_
      | refine Keeps.of_snd (by assumption) ?_
      | refine Keeps.of_third (by assumption) ?_
      | split
      | dsimp only
      | apply Keeps.upd

theorem State.retryHeldN_keeps {s t : State}  (fuel : Nat) (h : Keeps s t) : Keeps s (State.retryHeldN fuel t) := by
  induction fuel generalizing t with
  | zero => exact h
  | succ fuel ih =>
    unfold State.retryHeldN
    with_reducible
    repeat' first
      | exact h
      | exact ih
      | assumption
      | intro _
      | apply ih
      | refine State.usePeer_keeps ?_ _ _ _ (by assumption)
      | apply State.freeFrame_keeps
      | apply State.forward_keeps
      | apply State.stopFrame_keeps
      | apply State.telemFrame_keeps
      | apply State.dataFrame_keeps
      | apply State.putFrame_keeps
      | refine Keeps.of_fst (by assumption) ?_
      | refine Keeps.of_snd (by assumption) ?_
      | refine Keeps.of_third (by assumption) ?_
      | split
      | dsimp only
      | apply Keeps.upd

theorem State.retryHeld_keeps {s t : State} (h : Keeps s t)  :
    Keeps s (t.retryHeld) := by
  unfold State.retryHeld
  with_reducible
    repeat' first
      | exact h
      | assumption
      | intro _
      | apply State.retryHeldN_keeps
      | dsimp only
      | apply Keeps.upd

theorem State.recover_keeps {s t : State} (h : Keeps s t) (c : Fin 4) :
    Keeps s (t.recover c) := by
  unfold State.recover
  with_reducible
    repeat' first
      | exact h
      | assumption
      | intro _
      | apply State.raise_keeps
      | apply State.onCrew_keeps
      | apply State.freeCredit_keeps
      | apply State.mapOut_keeps
      | apply State.retryHeld_keeps
      | refine Keeps.foldl ?_ _ ?_
      | refine Keeps.foldl_fst ?_ _ ?_
      | split
      | dsimp only
      | apply Keeps.upd

theorem State.beginRestore_keeps {s t : State} (h : Keeps s t) (c : Fin 4) (op : RestoreOp) :
    Keeps s (t.beginRestore c op) := by
  unfold State.beginRestore
  with_reducible
    repeat' first
      | exact h
      | assumption
      | intro _
      | apply State.onSlip_keeps
      | dsimp only
      | apply Keeps.upd

theorem State.recoveryCommand_keeps {s t : State} (h : Keeps s t) (c : Fin 4) (cmd : Nat) :
    Keeps s (t.recoveryCommand c cmd) := by
  unfold State.recoveryCommand
  with_reducible
    repeat' first
      | exact h
      | assumption
      | intro _
      | apply State.onCrew_keeps
      | apply State.onSlip_keeps
      | apply State.receive_keeps
      | apply State.onSlot_keeps
      | apply State.sendBlocks_keeps
      | apply State.recover_keeps
      | apply State.beginRestore_keeps
      | refine Keeps.of_fst (by assumption) ?_
      | refine Keeps.of_snd (by assumption) ?_
      | refine Keeps.of_third (by assumption) ?_
      | split
      | dsimp only
      | apply Keeps.upd

theorem State.restoreLoss_keeps {s t : State} (h : Keeps s t) (c : Fin 4) (le : Nat → Nat → Nat) :
    Keeps s (t.restoreLoss c le) := by
  unfold State.restoreLoss
  with_reducible
    repeat' first
      | exact h
      | assumption
      | intro _
      | apply State.setEntry_keeps
      | apply State.onHeat_keeps
      | refine Keeps.foldl ?_ _ ?_
      | refine Keeps.foldl_fst ?_ _ ?_
      | dsimp only
      | apply Keeps.upd

theorem State.restoreTags_keeps {s t : State} (h : Keeps s t) (c : Fin 4) (le : Nat → Nat → Nat) :
    Keeps s (t.restoreTags c le) := by
  unfold State.restoreTags
  with_reducible
    repeat' first
      | exact h
      | assumption
      | intro _
      | refine Keeps.foldl ?_ _ ?_
      | refine Keeps.foldl_fst ?_ _ ?_
      | split
      | dsimp only
      | apply Keeps.upd

theorem State.onPacer_keeps {s t : State} (h : Keeps s t) (f : Pacer → Pacer) :
    Keeps s (t.onPacer f) := by
  unfold State.onPacer
  with_reducible
    repeat' first
      | exact h
      | assumption
      | intro _
      | dsimp only
      | apply Keeps.upd

theorem State.onClock_keeps {s t : State} (h : Keeps s t) (n : Fin 4) (f : BladeClock → BladeClock) :
    Keeps s (t.onClock n f) := by
  unfold State.onClock
  with_reducible
    repeat' first
      | exact h
      | assumption
      | intro _
      | apply State.onPacer_keeps
      | dsimp only
      | apply Keeps.upd

theorem State.onRail_keeps {s t : State} (h : Keeps s t) (r : Fin 10) (f : Rail → Rail) :
    Keeps s (t.onRail r f) := by
  unfold State.onRail
  with_reducible
    repeat' first
      | exact h
      | assumption
      | intro _
      | apply State.onPacer_keeps
      | dsimp only
      | apply Keeps.upd

theorem State.setRail_keeps {s t : State} (h : Keeps s t) (n : Fin 4) (f : Nat) :
    Keeps s (t.setRail n f) := by
  unfold State.setRail
  with_reducible
    repeat' first
      | exact h
      | assumption
      | intro _
      | apply State.emit_keeps
      | dsimp only
      | apply Keeps.upd

theorem State.lowerTo_keeps {s t : State} (h : Keeps s t) (n : Fin 4) (f : Nat) :
    Keeps s (t.lowerTo n f) := by
  unfold State.lowerTo
  with_reducible
    repeat' first
      | exact h
      | assumption
      | intro _
      | apply State.setEntry_keeps
      | apply State.onClock_keeps
      | apply State.setRail_keeps
      | split
      | dsimp only
      | apply Keeps.upd

theorem State.raiseTo_keeps {s t : State} (h : Keeps s t) (n : Fin 4) (f : Nat) :
    Keeps s (t.raiseTo n f) := by
  unfold State.raiseTo
  with_reducible
    repeat' first
      | exact h
      | assumption
      | intro _
      | apply State.onClock_keeps
      | apply State.setRail_keeps
      | split
      | dsimp only
      | apply Keeps.upd

theorem State.dropRise_keeps {s t : State} (h : Keeps s t) (n : Fin 4) (limit : Nat) :
    Keeps s (t.dropRise n limit) := by
  unfold State.dropRise
  with_reducible
    repeat' first
      | exact h
      | assumption
      | intro _
      | apply State.onClock_keeps
      | apply State.setRail_keeps
      | refine Keeps.of_fst (by assumption) ?_
      | refine Keeps.of_snd (by assumption) ?_
      | refine Keeps.of_third (by assumption) ?_
      | split
      | dsimp only
      | apply Keeps.upd

theorem State.showPacer_keeps {s t : State} (h : Keeps s t)  :
    Keeps s (t.showPacer) := by
  unfold State.showPacer
  with_reducible
    repeat' first
      | exact h
      | assumption
      | intro _
      | apply State.setEntry_keeps
      | dsimp only
      | apply Keeps.upd

theorem State.moveBlades_keeps {s t : State} (h : Keeps s t)  :
    Keeps s (t.moveBlades) := by
  unfold State.moveBlades
  with_reducible
    repeat' first
      | exact h
      | assumption
      | intro _
      | apply State.setEntry_keeps
      | apply State.onPacer_keeps
      | apply State.onClock_keeps
      | apply State.lowerTo_keeps
      | apply State.raiseTo_keeps
      | apply State.showPacer_keeps
      | refine Keeps.foldl ?_ _ ?_
      | refine Keeps.foldl_fst ?_ _ ?_
      | split
      | dsimp only
      | apply Keeps.upd

theorem State.closeMs_keeps {s t : State} (h : Keeps s t)  :
    Keeps s (t.closeMs) := by
  unfold State.closeMs
  with_reducible
    repeat' first
      | exact h
      | assumption
      | intro _
      | apply State.setEntry_keeps
      | apply State.raise_keeps
      | apply State.agree_keeps
      | apply State.onPacer_keeps
      | split
      | dsimp only
      | apply Keeps.upd

theorem State.integrateEnergy_keeps {s t : State} (h : Keeps s t)  :
    Keeps s (t.integrateEnergy) := by
  unfold State.integrateEnergy
  with_reducible
    repeat' first
      | exact h
      | assumption
      | intro _
      | apply State.setEntry_keeps
      | apply State.bump_keeps
      | apply State.onPacer_keeps
      | dsimp only
      | apply Keeps.upd

theorem State.stepAll_keeps {s t : State} (h : Keeps s t) (step floor limit : Nat) :
    Keeps s (t.stepAll step floor limit) := by
  unfold State.stepAll
  with_reducible
    repeat' first
      | exact h
      | assumption
      | intro _
      | apply State.lowerTo_keeps
      | apply State.dropRise_keeps
      | refine Keeps.foldl ?_ _ ?_
      | refine Keeps.foldl_fst ?_ _ ?_
      | dsimp only
      | apply Keeps.upd

theorem State.turnThermal_keeps {s t : State} (h : Keeps s t) (kind i : Nat) (ns : List (Fin 4)) (on : Bool) (t0 : Int) :
    Keeps s (t.turnThermal kind i ns on t0) := by
  unfold State.turnThermal
  with_reducible
    repeat' first
      | exact h
      | assumption
      | intro _
      | apply State.raise_keeps
      | apply State.onClock_keeps
      | refine Keeps.foldl ?_ _ ?_
      | refine Keeps.foldl_fst ?_ _ ?_
      | split
      | dsimp only
      | apply Keeps.upd

theorem State.railRead_keeps {s t : State} (h : Keeps s t) (r : Fin 10) (mv ma mw : Nat) :
    Keeps s (t.railRead r mv ma mw) := by
  unfold State.railRead
  with_reducible
    repeat' first
      | exact h
      | assumption
      | intro _
      | apply State.setEntry_keeps
      | apply State.onRail_keeps
      | split
      | dsimp only
      | apply Keeps.upd

theorem State.onSeat_keeps {s t : State} (h : Keeps s t) (u : Fin 36) (f : SeatUnit → SeatUnit) :
    Keeps s (t.onSeat u f) := by
  unfold State.onSeat
  with_reducible
    repeat' first
      | exact h
      | assumption
      | intro _
      | dsimp only
      | apply Keeps.upd

theorem State.startSlice_keeps {s t : State} (h : Keeps s t) (u : Fin 36) : Keeps s (t.startSlice u) := by
  unfold State.startSlice
  dsimp only
  split
  · exact State.onSeat_keeps h ..
  · exact ⟨h.pending, fun k => sparseWf_filter _ (h.canon k)⟩

theorem State.readGrants_keeps {s t : State} (h : Keeps s t)  :
    Keeps s (t.readGrants).1 := by
  unfold State.readGrants
  with_reducible
    repeat' first
      | exact h
      | assumption
      | intro _
      | apply State.bump_keeps
      | apply State.storeNat_keeps
      | apply State.faultHeat_keeps
      | refine Keeps.foldl ?_ _ ?_
      | refine Keeps.foldl_fst ?_ _ ?_
      | refine Keeps.of_fst (by assumption) ?_
      | refine Keeps.of_snd (by assumption) ?_
      | refine Keeps.of_third (by assumption) ?_
      | split
      | dsimp only
      | apply Keeps.upd

theorem State.sliceUnits_keeps {s t : State} (h : Keeps s t) (granted : List Nat) :
    Keeps s (t.sliceUnits granted) := by
  unfold State.sliceUnits
  with_reducible
    repeat' first
      | exact h
      | assumption
      | intro _
      | apply State.bump_keeps
      | apply State.startSlice_keeps
      | refine Keeps.foldl ?_ _ ?_
      | refine Keeps.foldl_fst ?_ _ ?_
      | refine Keeps.of_fst (by assumption) ?_
      | refine Keeps.of_snd (by assumption) ?_
      | refine Keeps.of_third (by assumption) ?_
      | split
      | dsimp only
      | apply Keeps.upd

theorem State.startSlices_keeps {s t : State} (h : Keeps s t)  :
    Keeps s (t.startSlices) := by
  unfold State.startSlices
  with_reducible
    repeat' first
      | exact h
      | assumption
      | intro _
      | apply State.readGrants_keeps
      | apply State.sliceUnits_keeps
      | refine Keeps.of_fst (by assumption) ?_
      | refine Keeps.of_snd (by assumption) ?_
      | refine Keeps.of_third (by assumption) ?_
      | dsimp only
      | apply Keeps.upd

theorem State.idleSlices_keeps {s t : State} (h : Keeps s t)  :
    Keeps s (t.idleSlices) := by
  unfold State.idleSlices
  with_reducible
    repeat' first
      | exact h
      | assumption
      | intro _
      | apply State.sliceUnits_keeps
      | split
      | dsimp only
      | apply Keeps.upd

theorem State.afterSlice_keeps {s t : State} (h : Keeps s t) (u : Fin 36) :
    Keeps s (t.afterSlice u) := by
  unfold State.afterSlice
  with_reducible
    repeat' first
      | exact h
      | assumption
      | intro _
      | apply State.bump_keeps
      | apply State.bladeHead_keeps
      | apply State.scullHead_keeps
      | apply State.launchHead_keeps
      | apply State.onSeat_keeps
      | refine Keeps.of_fst (by assumption) ?_
      | refine Keeps.of_snd (by assumption) ?_
      | refine Keeps.of_third (by assumption) ?_
      | split
      | dsimp only
      | apply Keeps.upd

theorem State.endRotation_keeps {s t : State} (h : Keeps s t) (n : Fin 4) :
    Keeps s (t.endRotation n) := by
  unfold State.endRotation
  with_reducible
    repeat' first
      | exact h
      | assumption
      | intro _
      | apply State.onBlade_keeps
      | apply State.onSeat_keeps
      | dsimp only
      | apply Keeps.upd

theorem State.nextRotated_keeps {s t : State} (h : Keeps s t) (u : Fin 36) :
    Keeps s (t.nextRotated u) := by
  unfold State.nextRotated
  with_reducible
    repeat' first
      | exact h
      | assumption
      | intro _
      | apply State.startSlice_keeps
      | apply State.endRotation_keeps
      | refine Keeps.of_fst (by assumption) ?_
      | refine Keeps.of_snd (by assumption) ?_
      | refine Keeps.of_third (by assumption) ?_
      | split
      | dsimp only
      | apply Keeps.upd

theorem State.rotateOut_keeps {s t : State} (h : Keeps s t) (n : Fin 4) :
    Keeps s (t.rotateOut n) := by
  unfold State.rotateOut
  with_reducible
    repeat' first
      | exact h
      | assumption
      | intro _
      | apply State.onBlade_keeps
      | apply State.lowerTo_keeps
      | apply State.raiseTo_keeps
      | apply State.onSeat_keeps
      | apply State.startSlice_keeps
      | split
      | dsimp only
      | apply Keeps.upd

theorem State.returnBlade_keeps {s t : State} (h : Keeps s t) (n : Fin 4) :
    Keeps s (t.returnBlade n) := by
  unfold State.returnBlade
  with_reducible
    repeat' first
      | exact h
      | assumption
      | intro _
      | apply State.onSeat_keeps
      | apply State.endRotation_keeps
      | split
      | dsimp only
      | apply Keeps.upd

end Sys2Proof.Machine
end

