-- ==== Sys2Proof/Laws/KeepsManage.lean ====
section
/-! SUPPORT. The frame of the operations of trust, images, time, Xefin, commits, power, strokes, SPDM; and of an instruction that issues. -/
namespace Sys2Proof.Machine

theorem State.onTrust_keeps {s t : State} (h : Keeps s t) (c : Fin 4) (f : CrewTrust → CrewTrust) :
    Keeps s (t.onTrust c f) := by
  unfold State.onTrust
  with_reducible
    repeat' first
      | exact h
      | assumption
      | intro _
      | dsimp only
      | apply Keeps.upd

theorem State.drawPowerUpKeys_keeps {s t : State} (h : Keeps s t)  :
    Keeps s (t.drawPowerUpKeys) := by
  unfold State.drawPowerUpKeys
  with_reducible
    repeat' first
      | exact h
      | assumption
      | intro _
      | apply State.setBlob_keeps
      | apply State.drawBytes_keeps
      | refine Keeps.of_fst (by assumption) ?_
      | refine Keeps.of_snd (by assumption) ?_
      | refine Keeps.of_third (by assumption) ?_
      | split
      | dsimp only
      | apply Keeps.upd

theorem State.readPuf_keeps {s t : State} (h : Keeps s t)  :
    Keeps s (t.readPuf) := by
  unfold State.readPuf
  with_reducible
    repeat' first
      | exact h
      | assumption
      | intro _
      | refine Keeps.of_fst (by assumption) ?_
      | refine Keeps.of_snd (by assumption) ?_
      | refine Keeps.of_third (by assumption) ?_
      | dsimp only
      | apply Keeps.upd

theorem State.eraseSecret_keeps {s t : State} (h : Keeps s t)  :
    Keeps s (t.eraseSecret) := by
  unfold State.eraseSecret
  with_reducible
    repeat' first
      | exact h
      | assumption
      | intro _
      | dsimp only
      | apply Keeps.upd

theorem State.drawCrewKeys_keeps {s t : State} (h : Keeps s t) (c : Fin 4) :
    Keeps s (t.drawCrewKeys c) := by
  unfold State.drawCrewKeys
  with_reducible
    repeat' first
      | exact h
      | assumption
      | intro _
      | apply State.setEntry_keeps
      | apply State.drawBytes_keeps
      | apply State.onTrust_keeps
      | refine Keeps.of_fst (by assumption) ?_
      | refine Keeps.of_snd (by assumption) ?_
      | refine Keeps.of_third (by assumption) ?_
      | dsimp only
      | apply Keeps.upd

theorem State.rotate_keeps {s t : State} (h : Keeps s t) (c : Fin 4) :
    Keeps s (t.rotate c) := by
  unfold State.rotate
  with_reducible
    repeat' first
      | exact h
      | assumption
      | intro _
      | apply State.setEntry_keeps
      | apply State.bump_keeps
      | apply State.drawBytes_keeps
      | apply State.raise_keeps
      | apply State.onTrust_keeps
      | refine Keeps.of_fst (by assumption) ?_
      | refine Keeps.of_snd (by assumption) ?_
      | refine Keeps.of_third (by assumption) ?_
      | split
      | dsimp only
      | apply Keeps.upd

theorem State.deliverKey_keeps {s t : State} (h : Keeps s t) (c : Fin 4) (bs : List Byte) (unwraps : Bool) :
    Keeps s (t.deliverKey c bs unwraps).2 := by
  unfold State.deliverKey
  with_reducible
    repeat' first
      | exact h
      | assumption
      | intro _
      | apply State.setEntry_keeps
      | apply State.raise_keeps
      | apply State.onTrust_keeps
      | split
      | dsimp only
      | apply Keeps.upd

theorem State.startUnseal_keeps {s t : State} (h : Keeps s t) (c : Fin 4) (req : Nat) :
    Keeps s (t.startUnseal c req) := by
  unfold State.startUnseal
  with_reducible
    repeat' first
      | exact h
      | assumption
      | intro _
      | apply State.setEntry_keeps
      | apply State.setBlob_keeps
      | apply State.onTrust_keeps
      | refine Keeps.of_fst (by assumption) ?_
      | refine Keeps.of_snd (by assumption) ?_
      | refine Keeps.of_third (by assumption) ?_
      | split
      | dsimp only
      | apply Keeps.upd

theorem State.freeCrewSlots_keeps {s t : State} (h : Keeps s t) (c : Fin 4) :
    Keeps s (t.freeCrewSlots c) := by
  unfold State.freeCrewSlots
  with_reducible
    repeat' first
      | exact h
      | assumption
      | intro _
      | apply State.freeSlotCredits_keeps
      | refine Keeps.foldl ?_ _ ?_
      | refine Keeps.foldl_fst ?_ _ ?_
      | split
      | dsimp only
      | apply Keeps.upd

theorem State.dropRegions_keeps {s t : State} (h : Keeps s t) (c : Fin 4) :
    Keeps s (t.dropRegions c) := by
  unfold State.dropRegions
  with_reducible
    repeat' first
      | exact h
      | assumption
      | intro _
      | apply State.setEntry_keeps
      | apply State.onRegion_keeps
      | apply State.invalidateRegion_keeps
      | refine Keeps.foldl ?_ _ ?_
      | refine Keeps.foldl_fst ?_ _ ?_
      | split
      | dsimp only
      | apply Keeps.upd

theorem State.startScrub_keeps {s t : State} (h : Keeps s t) (c : Fin 4) :
    Keeps s (t.startScrub c) := by
  unfold State.startScrub
  with_reducible
    repeat' first
      | exact h
      | assumption
      | intro _
      | apply State.setEntry_keeps
      | apply State.bump_keeps
      | apply State.raise_keeps
      | apply State.onCrew_keeps
      | apply State.fillIdle_keeps
      | apply State.onSlip_keeps
      | apply State.sendCrewUpdate_keeps
      | apply State.clearCrewUnits_keeps
      | apply State.onTrust_keeps
      | apply State.freeCrewSlots_keeps
      | apply State.dropRegions_keeps
      | apply State.idle_keeps
      | refine Keeps.foldl ?_ _ ?_
      | refine Keeps.foldl_fst ?_ _ ?_
      | split
      | dsimp only
      | apply Keeps.upd

theorem State.onPart_keeps {s t : State} (h : Keeps s t) (comp : Fin 9) (f : Part → Part) :
    Keeps s (t.onPart comp f) := by
  unfold State.onPart
  with_reducible
    repeat' first
      | exact h
      | assumption
      | intro _
      | dsimp only
      | apply Keeps.upd

theorem State.verifySlot_keeps {s t : State} (h : Keeps s t) (comp : Fin 9) (i : Fin 2) (codes : List (BitVec 3)) :
    Keeps s (t.verifySlot comp i codes).1 := by
  unfold State.verifySlot
  with_reducible
    repeat' first
      | exact h
      | assumption
      | intro _
      | apply State.raise_keeps
      | apply State.onPart_keeps
      | split
      | dsimp only
      | apply Keeps.upd

theorem State.bootPart_keeps {s t : State} (h : Keeps s t) (codes : List (BitVec 3)) (comp : Fin 9) :
    Keeps s (t.bootPart codes comp) := by
  unfold State.bootPart
  with_reducible
    repeat' first
      | exact h
      | assumption
      | intro _
      | apply State.raise_keeps
      | apply State.onPart_keeps
      | apply State.verifySlot_keeps
      | refine Keeps.of_fst (by assumption) ?_
      | refine Keeps.of_snd (by assumption) ?_
      | refine Keeps.of_third (by assumption) ?_
      | split
      | dsimp only
      | apply Keeps.upd

theorem State.moduleState_keeps {s t : State} (h : Keeps s t) (n : Nat) :
    Keeps s (t.moduleState n) := by
  unfold State.moduleState
  with_reducible
    repeat' first
      | exact h
      | assumption
      | intro _
      | apply State.setEntry_keeps
      | apply State.raise_keeps
      | split
      | dsimp only
      | apply Keeps.upd

theorem State.enterRecovery_keeps {s t : State} (h : Keeps s t) (b : BootState) :
    Keeps s (t.enterRecovery b) := by
  unfold State.enterRecovery
  with_reducible
    repeat' first
      | exact h
      | assumption
      | intro _
      | apply State.moduleState_keeps
      | dsimp only
      | apply Keeps.upd

theorem State.partTo_keeps {s t : State} (h : Keeps s t) (comp : Fin 9) (st : PartState) (slot : Fin 2) :
    Keeps s (t.partTo comp st slot) := by
  unfold State.partTo
  with_reducible
    repeat' first
      | exact h
      | assumption
      | intro _
      | apply State.raise_keeps
      | apply State.onPart_keeps
      | dsimp only
      | apply Keeps.upd

theorem State.imageWhole_keeps {s t : State} (h : Keeps s t) (comp : Fin 9) (i : Fin 2) (f : FlashSlot) (outside : Nat) :
    Keeps s (t.imageWhole comp i f outside).2 := by
  unfold State.imageWhole
  with_reducible
    repeat' first
      | exact h
      | assumption
      | intro _
      | apply State.raise_keeps
      | apply State.onPart_keeps
      | apply State.partTo_keeps
      | apply State.idle_keeps
      | split
      | dsimp only
      | apply Keeps.upd

theorem State.imageWrite_keeps {s t : State} (h : Keeps s t) (comp : Fin 9) (session offset : Nat) (bytes : List Byte) (outside : Nat) :
    Keeps s (t.imageWrite comp session offset bytes outside).2 := by
  unfold State.imageWrite
  with_reducible
    repeat' first
      | exact h
      | assumption
      | intro _
      | apply State.onPart_keeps
      | apply State.partTo_keeps
      | apply State.imageWhole_keeps
      | split
      | dsimp only
      | apply Keeps.upd

theorem State.abandonPart_keeps {s t : State} (h : Keeps s t) (comp : Fin 9) :
    Keeps s (t.abandonPart comp) := by
  unfold State.abandonPart
  with_reducible
    repeat' first
      | exact h
      | assumption
      | intro _
      | apply State.onPart_keeps
      | apply State.partTo_keeps
      | apply State.idle_keeps
      | split
      | dsimp only
      | apply Keeps.upd

theorem State.endActive_keeps {s t : State} (h : Keeps s t) (comp : Fin 9) :
    Keeps s (t.endActive comp) := by
  unfold State.endActive
  with_reducible
    repeat' first
      | exact h
      | assumption
      | intro _
      | apply State.onPart_keeps
      | apply State.partTo_keeps
      | apply State.idle_keeps
      | dsimp only
      | apply Keeps.upd

theorem State.activatePart_keeps {s t : State} (h : Keeps s t) (comp : Fin 9) :
    Keeps s (t.activatePart comp) := by
  unfold State.activatePart
  with_reducible
    repeat' first
      | exact h
      | assumption
      | intro _
      | apply State.raise_keeps
      | apply State.onPart_keeps
      | apply State.partTo_keeps
      | apply State.endActive_keeps
      | split
      | dsimp only
      | apply Keeps.upd

theorem State.ringWrite_keeps {s t : State} (h : Keeps s t) (seq : Nat) (e : Event) :
    Keeps s (t.ringWrite seq e) := by
  unfold State.ringWrite
  with_reducible
    repeat' first
      | exact h
      | assumption
      | intro _
      | apply State.setCells_keeps
      | refine Keeps.of_fst (by assumption) ?_
      | refine Keeps.of_snd (by assumption) ?_
      | refine Keeps.of_third (by assumption) ?_
      | split
      | dsimp only
      | apply Keeps.upd

theorem State.copyToRing_keeps {s t : State} (h : Keeps s t)  :
    Keeps s (t.copyToRing) := by
  unfold State.copyToRing
  with_reducible
    repeat' first
      | exact h
      | assumption
      | intro _
      | apply State.ringWrite_keeps
      | refine Keeps.foldl ?_ _ ?_
      | refine Keeps.foldl_fst ?_ _ ?_
      | dsimp only
      | apply Keeps.upd

theorem State.insertEvent_keeps {s t : State} (h : Keeps s t) (e : Event) :
    Keeps s (t.insertEvent e) := by
  unfold State.insertEvent
  with_reducible
    repeat' first
      | exact h
      | assumption
      | intro _
      | apply State.setEntry_keeps
      | apply State.bump_keeps
      | apply State.ringWrite_keeps
      | split
      | dsimp only
      | apply Keeps.upd

theorem State.tickTime_keeps {s t : State} (h : Keeps s t)  :
    Keeps s (t.tickTime) := by
  unfold State.tickTime
  with_reducible
    repeat' first
      | exact h
      | assumption
      | intro _
      | dsimp only
      | apply Keeps.upd

theorem State.idle_keeps {s t : State} (h : Keeps s t)  :
    Keeps s (t.idle) := by
  unfold State.idle
  with_reducible
    repeat' first
      | exact h
      | assumption
      | intro _
      | apply State.tickTime_keeps
      | split
      | dsimp only
      | apply Keeps.upd

theorem State.enterTime_keeps {s t : State} (h : Keeps s t) (st : TimeState) :
    Keeps s (t.enterTime st) := by
  unfold State.enterTime
  with_reducible
    repeat' first
      | exact h
      | assumption
      | intro _
      | apply State.raise_keeps
      | split
      | dsimp only
      | apply Keeps.upd

theorem State.newGrid_keeps {s t : State} (h : Keeps s t)  :
    Keeps s (t.newGrid) := by
  unfold State.newGrid
  with_reducible
    repeat' first
      | exact h
      | assumption
      | intro _
      | dsimp only
      | apply Keeps.upd

theorem State.stepTo_keeps {s t : State} (h : Keeps s t) (t0 : Nat) :
    Keeps s (t.stepTo t0) := by
  unfold State.stepTo
  with_reducible
    repeat' first
      | exact h
      | assumption
      | intro _
      | apply State.raise_keeps
      | apply State.newGrid_keeps
      | dsimp only
      | apply Keeps.upd

theorem State.servoSample_keeps {s t : State} (h : Keeps s t) (off : Int) :
    Keeps s (t.servoSample off) := by
  unfold State.servoSample
  with_reducible
    repeat' first
      | exact h
      | assumption
      | intro _
      | apply State.setEntry_keeps
      | apply State.bump_keeps
      | apply State.feed_keeps
      | dsimp only
      | apply Keeps.upd

theorem State.servoState_keeps {s t : State} (h : Keeps s t) (off : Int) :
    Keeps s (t.servoState off) := by
  unfold State.servoState
  with_reducible
    repeat' first
      | exact h
      | assumption
      | intro _
      | apply State.enterTime_keeps
      | refine Keeps.of_fst (by assumption) ?_
      | refine Keeps.of_snd (by assumption) ?_
      | refine Keeps.of_third (by assumption) ?_
      | split
      | dsimp only
      | apply Keeps.upd

theorem State.servoGood_keeps {s t : State} (h : Keeps s t) (off : Int) :
    Keeps s (t.servoGood off) := by
  unfold State.servoGood
  with_reducible
    repeat' first
      | exact h
      | assumption
      | intro _
      | apply State.enterTime_keeps
      | split
      | dsimp only
      | apply Keeps.upd

theorem State.servoAdjust_keeps {s t : State} (h : Keeps s t) (off : Int) (busy : Bool) :
    Keeps s (t.servoAdjust off busy) := by
  unfold State.servoAdjust
  with_reducible
    repeat' first
      | exact h
      | assumption
      | intro _
      | apply State.setEntry_keeps
      | split
      | dsimp only
      | apply Keeps.upd

theorem State.servo_keeps {s t : State} (h : Keeps s t) (off : Int) :
    Keeps s (t.servo off) := by
  unfold State.servo
  with_reducible
    repeat' first
      | exact h
      | assumption
      | intro _
      | apply State.stepTo_keeps
      | apply State.servoSample_keeps
      | apply State.servoState_keeps
      | apply State.servoGood_keeps
      | apply State.servoAdjust_keeps
      | split
      | dsimp only
      | apply Keeps.upd

theorem State.emitAll_keeps {s t : State} (h : Keeps s t) (os : List Output) :
    Keeps s (t.emitAll os) := by
  unfold State.emitAll
  with_reducible
    repeat' first
      | exact h
      | assumption
      | intro _
      | dsimp only
      | apply Keeps.upd

theorem State.answer_keeps {s t : State} (h : Keeps s t) (m : Message) (auth : Bool) (status : Nat) (payload : List Byte) :
    Keeps s (t.answer m auth status payload).2 := by
  unfold State.answer
  with_reducible
    repeat' first
      | exact h
      | assumption
      | intro _
      | apply State.bump_keeps
      | apply State.emitAll_keeps
      | dsimp only
      | apply Keeps.upd

theorem State.onSession_keeps {s t : State} (h : Keeps s t) (port : Port) (id : Nat) (f : Session → Session) :
    Keeps s (t.onSession port id f) := by
  unfold State.onSession
  with_reducible
    repeat' first
      | exact h
      | assumption
      | intro _
      | refine Keeps.of_fst (by assumption) ?_
      | refine Keeps.of_snd (by assumption) ?_
      | refine Keeps.of_third (by assumption) ?_
      | split
      | dsimp only
      | apply Keeps.upd

theorem State.frameTagFailure_keeps {s t : State} (h : Keeps s t) (address session : Nat) :
    Keeps s (t.frameTagFailure address session) := by
  unfold State.frameTagFailure
  with_reducible
    repeat' first
      | exact h
      | assumption
      | intro _
      | apply State.bump_keeps
      | apply State.raise_keeps
      | split
      | dsimp only
      | apply Keeps.upd

theorem State.clearStage_keeps {s t : State} (h : Keeps s t)  :
    Keeps s (t.clearStage) := by
  unfold State.clearStage
  with_reducible
    repeat' first
      | exact h
      | assumption
      | intro _
      | dsimp only
      | apply Keeps.upd

theorem State.endSession_keeps {s t : State} (h : Keeps s t) (id reason : Nat) :
    Keeps s (t.endSession id reason) := by
  unfold State.endSession
  with_reducible
    repeat' first
      | exact h
      | assumption
      | intro _
      | apply State.raise_keeps
      | apply State.abandonPart_keeps
      | apply State.clearStage_keeps
      | refine Keeps.foldl ?_ _ ?_
      | refine Keeps.foldl_fst ?_ _ ?_
      | refine Keeps.of_fst (by assumption) ?_
      | refine Keeps.of_snd (by assumption) ?_
      | refine Keeps.of_third (by assumption) ?_
      | split
      | dsimp only
      | apply Keeps.upd

theorem State.assemble_keeps {s t : State} (h : Keeps s t) (q : XefinFrame) :
    Keeps s (t.assemble q).1 := by
  unfold State.assemble
  with_reducible
    repeat' first
      | exact h
      | assumption
      | intro _
      | refine Keeps.of_fst (by assumption) ?_
      | refine Keeps.of_snd (by assumption) ?_
      | refine Keeps.of_third (by assumption) ?_
      | split
      | dsimp only
      | apply Keeps.upd

theorem State.process_keeps {s t : State} (h : Keeps s t) (m : Message) (act : State → Message → Nat × List Byte × State)
    (hact : ∀ u m, Keeps s u → Keeps s (act u m).2.2) : Keeps s (t.process m act) := by
  have hrun : ∀ u, Keeps s u → Keeps s (if m.port == .mailbox && u.mailboxDenies m.opcode m.payload then ((0x53, [], u) : Nat × List Byte × State) else act u m).2.2 := by
    intro u hu
    split
    · exact hu
    · exact hact u m hu
  unfold State.process
  dsimp only
  split
  · exact State.answer_keeps (hrun _ h) ..
  · split
    · split
      · exact State.bump_keeps (State.emitAll_keeps h ..) ..
      · exact State.answer_keeps h ..
    · exact State.onSession_keeps (State.answer_keeps (hrun _ (State.onSession_keeps h ..)) ..) ..

theorem State.xefinFrame_keeps {s t : State} (h : Keeps s t) (q : XefinFrame) (mine : Nat → List Byte → Bool) (act : State → Message → Nat × List Byte × State) (hact : ∀ u m, Keeps s u → Keeps s (act u m).2.2) :
    Keeps s (t.xefinFrame q mine act) := by
  unfold State.xefinFrame
  with_reducible
    repeat' first
      | exact h
      | assumption
      | intro _
      | apply State.bump_keeps
      | apply State.answer_keeps
      | apply State.onSession_keeps
      | apply State.frameTagFailure_keeps
      | apply State.assemble_keeps
      | apply State.process_keeps
      | refine Keeps.of_fst (by assumption) ?_
      | refine Keeps.of_snd (by assumption) ?_
      | refine Keeps.of_third (by assumption) ?_
      | split
      | dsimp only
      | apply Keeps.upd

theorem State.settleTimer_keeps {s t : State} (h : Keeps s t) (idx sub : Nat) :
    Keeps s (t.settleTimer idx sub) := by
  unfold State.settleTimer
  with_reducible
    repeat' first
      | exact h
      | assumption
      | intro _
      | apply State.settleCredit_keeps
      | apply State.settlePeerWait_keeps
      | apply State.settleEngine_keeps
      | split
      | dsimp only
      | apply Keeps.upd

theorem State.readItem_keeps {s t : State} (h : Keeps s t) (session : Nat) (i : Nat × Nat × Nat) :
    Keeps s (t.readItem session i).2 := by
  unfold State.readItem
  with_reducible
    repeat' first
      | exact h
      | assumption
      | intro _
      | apply State.setEntry_keeps
      | apply State.settleTimer_keeps
      | refine Keeps.of_fst (by assumption) ?_
      | refine Keeps.of_snd (by assumption) ?_
      | refine Keeps.of_third (by assumption) ?_
      | split
      | dsimp only
      | apply Keeps.upd

theorem State.readAll_keeps {s t : State} (h : Keeps s t) (session : Nat) (items : List (Nat × Nat × Nat)) :
    Keeps s (t.readAll session items).2 := by
  induction items generalizing t with
  | nil => exact h
  | cons i items ih => exact ih (State.readItem_keeps h session i)

theorem State.doRead_keeps {s t : State} (h : Keeps s t) (m : Message) :
    Keeps s (t.doRead m).2.2 := by
  unfold State.doRead
  with_reducible
    repeat' first
      | exact h
      | assumption
      | intro _
      | apply State.readAll_keeps
      | refine Keeps.of_fst (by assumption) ?_
      | refine Keeps.of_snd (by assumption) ?_
      | refine Keeps.of_third (by assumption) ?_
      | split
      | dsimp only
      | apply Keeps.upd

theorem State.doReadBlob_keeps {s t : State} (h : Keeps s t) (m : Message) :
    Keeps s (t.doReadBlob m).2.2 := by
  unfold State.doReadBlob
  with_reducible
    repeat' first
      | exact h
      | assumption
      | intro _
      | refine Keeps.of_fst (by assumption) ?_
      | refine Keeps.of_snd (by assumption) ?_
      | refine Keeps.of_third (by assumption) ?_
      | split
      | dsimp only
      | apply Keeps.upd

theorem State.doLogbookRead_keeps {s t : State} (h : Keeps s t) (m : Message) :
    Keeps s (t.doLogbookRead m).2.2 := by
  unfold State.doLogbookRead
  with_reducible
    repeat' first
      | exact h
      | assumption
      | intro _
      | refine Keeps.of_fst (by assumption) ?_
      | refine Keeps.of_snd (by assumption) ?_
      | refine Keeps.of_third (by assumption) ?_
      | split
      | dsimp only
      | apply Keeps.upd

theorem State.writeEntry_keeps {s t : State} (h : Keeps s t) (i : Item) :
    Keeps s (t.writeEntry i) := by
  unfold State.writeEntry
  with_reducible
    repeat' first
      | exact h
      | assumption
      | intro _
      | apply State.setEntry_keeps
      | apply State.setBlob_keeps
      | apply State.snapshot_keeps
      | refine Keeps.of_fst (by assumption) ?_
      | refine Keeps.of_snd (by assumption) ?_
      | refine Keeps.of_third (by assumption) ?_
      | split
      | dsimp only
      | apply Keeps.upd

theorem State.doWrite_keeps {s t : State} (h : Keeps s t) (m : Message) :
    Keeps s (t.doWrite m).2.2 := by
  unfold State.doWrite
  with_reducible
    repeat' first
      | exact h
      | assumption
      | intro _
      | apply State.writeEntry_keeps
      | refine Keeps.foldl ?_ _ ?_
      | refine Keeps.foldl_fst ?_ _ ?_
      | refine Keeps.of_fst (by assumption) ?_
      | refine Keeps.of_snd (by assumption) ?_
      | refine Keeps.of_third (by assumption) ?_
      | split
      | dsimp only
      | apply Keeps.upd

theorem State.doWriteBlob_keeps {s t : State} (h : Keeps s t) (m : Message) (act : Nat → Nat → Nat → List Byte → Nat × State)
    (hact : ∀ i j o b, Keeps s (act i j o b).2) : Keeps s (t.doWriteBlob m act).2.2 := by
  unfold State.doWriteBlob
  dsimp only
  split
  · exact h
  · split
    · exact h
    · exact hact ..

theorem State.doStage_keeps {s t : State} (h : Keeps s t) (m : Message) :
    Keeps s (t.doStage m).2.2 := by
  unfold State.doStage
  with_reducible
    repeat' first
      | exact h
      | assumption
      | intro _
      | refine Keeps.foldl ?_ _ ?_
      | refine Keeps.foldl_fst ?_ _ ?_
      | refine Keeps.of_fst (by assumption) ?_
      | refine Keeps.of_snd (by assumption) ?_
      | refine Keeps.of_third (by assumption) ?_
      | split
      | dsimp only
      | apply Keeps.upd

theorem State.doDiscard_keeps {s t : State} (h : Keeps s t) (m : Message) :
    Keeps s (t.doDiscard m).2.2 := by
  unfold State.doDiscard
  with_reducible
    repeat' first
      | exact h
      | assumption
      | intro _
      | apply State.clearStage_keeps
      | split
      | dsimp only
      | apply Keeps.upd

theorem State.doOpen_keeps {s t : State} (h : Keeps s t) (sigOk : Bool) (m : Message) :
    Keeps s (t.doOpen sigOk m).2.2 := by
  unfold State.doOpen
  with_reducible
    repeat' first
      | exact h
      | assumption
      | intro _
      | apply State.raise_keeps
      | refine State.sign_keeps ?_ _ _ (by assumption)
      | refine Keeps.of_fst (by assumption) ?_
      | refine Keeps.of_snd (by assumption) ?_
      | refine Keeps.of_third (by assumption) ?_
      | split
      | dsimp only
      | apply Keeps.upd

theorem State.put_keeps {s t : State} (h : Keeps s t) (i : Item) :
    Keeps s (t.put i) := by
  unfold State.put
  with_reducible
    repeat' first
      | exact h
      | assumption
      | intro _
      | apply State.setEntry_keeps
      | apply State.setBlob_keeps
      | refine Keeps.of_fst (by assumption) ?_
      | refine Keeps.of_snd (by assumption) ?_
      | refine Keeps.of_third (by assumption) ?_
      | split
      | dsimp only
      | apply Keeps.upd

theorem State.project_keeps {s t : State} (h : Keeps s t) (items : List Item) :
    Keeps s (t.project items) := by
  unfold State.project
  with_reducible
    repeat' first
      | exact h
      | assumption
      | intro _
      | apply State.setEntry_keeps
      | apply State.put_keeps
      | refine Keeps.foldl ?_ _ ?_
      | refine Keeps.foldl_fst ?_ _ ?_
      | split
      | dsimp only
      | apply Keeps.upd

theorem State.applyRegion_keeps {s t : State} (h : Keeps s t) (old : State) (items : List Item) (r : Fin 64) :
    Keeps s (t.applyRegion old items r) := by
  unfold State.applyRegion
  with_reducible
    repeat' first
      | exact h
      | assumption
      | intro _
      | apply State.onRegion_keeps
      | apply State.loseSlots_keeps
      | apply State.invalidateRegion_keeps
      | apply State.zeroRegion_keeps
      | split
      | dsimp only
      | apply Keeps.upd

theorem State.applyRing_keeps {s t : State} (h : Keeps s t) (old : State) :
    Keeps s (t.applyRing old) := by
  unfold State.applyRing
  with_reducible
    repeat' first
      | exact h
      | assumption
      | intro _
      | apply State.invalidateRegion_keeps
      | apply State.copyToRing_keeps
      | split
      | dsimp only
      | apply Keeps.upd

theorem State.applyErg_keeps {s t : State} (h : Keeps s t) (items : List Item) :
    Keeps s (t.applyErg items) := by
  unfold State.applyErg
  with_reducible
    repeat' first
      | exact h
      | assumption
      | intro _
      | split
      | dsimp only
      | apply Keeps.upd

theorem State.applyLinks_keeps {s t : State} (h : Keeps s t) (old : State) (items : List Item) :
    Keeps s (t.applyLinks old items) := by
  unfold State.applyLinks
  with_reducible
    repeat' first
      | exact h
      | assumption
      | intro _
      | apply State.raise_keeps
      | apply State.fillIdle_keeps
      | apply State.topUp_keeps
      | apply State.refreshSweep_keeps
      | apply State.downOar_keeps
      | apply State.recheckHolds_keeps
      | refine Keeps.foldl ?_ _ ?_
      | refine Keeps.foldl_fst ?_ _ ?_
      | split
      | dsimp only
      | apply Keeps.upd

theorem State.applyGrid_keeps {s t : State} (h : Keeps s t) (old : State) (stroke : Nat) :
    Keeps s (t.applyGrid old stroke) := by
  unfold State.applyGrid
  with_reducible
    repeat' first
      | exact h
      | assumption
      | intro _
      | apply State.setEntry_keeps
      | apply State.raise_keeps
      | apply State.newGrid_keeps
      | split
      | dsimp only
      | apply Keeps.upd

theorem State.applyTime_keeps {s t : State} (h : Keeps s t) (old : State) (items : List Item) :
    Keeps s (t.applyTime old items) := by
  unfold State.applyTime
  with_reducible
    repeat' first
      | exact h
      | assumption
      | intro _
      | apply State.setEntry_keeps
      | apply State.enterTime_keeps
      | refine Keeps.of_fst (by assumption) ?_
      | refine Keeps.of_snd (by assumption) ?_
      | refine Keeps.of_third (by assumption) ?_
      | split
      | dsimp only
      | apply Keeps.upd

theorem State.applyAddress_keeps {s t : State} (h : Keeps s t) (old : State) :
    Keeps s (t.applyAddress old) := by
  unfold State.applyAddress
  with_reducible
    repeat' first
      | exact h
      | assumption
      | intro _
      | apply State.setEntry_keeps
      | split
      | dsimp only
      | apply Keeps.upd

theorem State.applyCommand_keeps {s t : State} (h : Keeps s t) (i : Item) :
    Keeps s (t.applyCommand i) := by
  unfold State.applyCommand
  with_reducible
    repeat' first
      | exact h
      | assumption
      | intro _
      | apply State.startHeat_keeps
      | apply State.stopHeat_keeps
      | apply State.suspendHeat_keeps
      | apply State.resumeHeat_keeps
      | apply State.recoveryCommand_keeps
      | apply State.rotateOut_keeps
      | apply State.returnBlade_keeps
      | apply State.rotate_keeps
      | apply State.startUnseal_keeps
      | apply State.startScrub_keeps
      | apply State.abandonPart_keeps
      | apply State.activatePart_keeps
      | refine Keeps.of_fst (by assumption) ?_
      | refine Keeps.of_snd (by assumption) ?_
      | refine Keeps.of_third (by assumption) ?_
      | split
      | dsimp only
      | apply Keeps.upd

theorem State.applyItems_keeps {s t : State} (h : Keeps s t) (items : List Item) (stroke : Nat) :
    Keeps s (t.applyItems items stroke) := by
  unfold State.applyItems
  with_reducible
    repeat' first
      | exact h
      | assumption
      | intro _
      | apply State.setEntry_keeps
      | apply State.onCrew_keeps
      | apply State.dropLostWays_keeps
      | apply State.drawCrewKeys_keeps
      | apply State.startScrub_keeps
      | apply State.put_keeps
      | apply State.applyRegion_keeps
      | apply State.applyRing_keeps
      | apply State.applyErg_keeps
      | apply State.applyLinks_keeps
      | apply State.applyGrid_keeps
      | apply State.applyTime_keeps
      | apply State.applyAddress_keeps
      | apply State.applyCommand_keeps
      | refine Keeps.foldl ?_ _ ?_
      | refine Keeps.foldl_fst ?_ _ ?_
      | split
      | dsimp only
      | apply Keeps.upd

theorem State.notice_keeps {s t : State} (h : Keeps s t) (k : Commit) (status : Nat) (record : List Byte) :
    Keeps s (t.notice k status record) := by
  unfold State.notice
  with_reducible
    repeat' first
      | exact h
      | assumption
      | intro _
      | apply State.emitAll_keeps
      | split
      | dsimp only
      | apply Keeps.upd

theorem State.refuseAtEdge_keeps {s t : State} (h : Keeps s t) (k : Commit) (step : Nat) (f : Failure) :
    Keeps s (t.refuseAtEdge k step f) := by
  unfold State.refuseAtEdge
  with_reducible
    repeat' first
      | exact h
      | assumption
      | intro _
      | apply State.bump_keeps
      | apply State.setBlob_keeps
      | apply State.raise_keeps
      | apply State.notice_keeps
      | dsimp only
      | apply Keeps.upd

theorem State.acceptAtEdge_keeps {s t : State} (h : Keeps s t) (k : Commit) :
    Keeps s (t.acceptAtEdge k) := by
  unfold State.acceptAtEdge
  with_reducible
    repeat' first
      | exact h
      | assumption
      | intro _
      | apply State.bump_keeps
      | apply State.raise_keeps
      | apply State.applyItems_keeps
      | apply State.notice_keeps
      | dsimp only
      | apply Keeps.upd

theorem State.doCommit_keeps {s t : State} (h : Keeps s t) (m : Message) :
    Keeps s (t.doCommit m).2.2 := by
  unfold State.doCommit
  with_reducible
    repeat' first
      | exact h
      | assumption
      | intro _
      | apply State.setEntry_keeps
      | apply State.bump_keeps
      | apply State.setBlob_keeps
      | apply State.raise_keeps
      | apply State.clearStage_keeps
      | apply State.applyCommand_keeps
      | refine Keeps.foldl ?_ _ ?_
      | refine Keeps.foldl_fst ?_ _ ?_
      | refine Keeps.of_fst (by assumption) ?_
      | refine Keeps.of_snd (by assumption) ?_
      | refine Keeps.of_third (by assumption) ?_
      | split
      | dsimp only
      | apply Keeps.upd

theorem State.doCancel_keeps {s t : State} (h : Keeps s t) (m : Message) :
    Keeps s (t.doCancel m).2.2 := by
  unfold State.doCancel
  with_reducible
    repeat' first
      | exact h
      | assumption
      | intro _
      | apply State.bump_keeps
      | refine Keeps.of_fst (by assumption) ?_
      | refine Keeps.of_snd (by assumption) ?_
      | refine Keeps.of_third (by assumption) ?_
      | split
      | dsimp only
      | apply Keeps.upd

theorem State.wholeReset_keeps {s t : State} (h : Keeps s t) (cause : Nat) : Keeps s (t.wholeReset cause) := by
  unfold State.wholeReset
  apply State.setEntry_keeps
  exact ⟨h.pending, fun _ => show sparseWf (fun _ => (0 : Byte)) [] = true from rfl⟩

theorem State.resetPins_keeps {s t : State} (h : Keeps s t) (pwrOkLow sysRstLow : Bool) :
    Keeps s (t.resetPins pwrOkLow sysRstLow) := by
  unfold State.resetPins
  with_reducible
    repeat' first
      | exact h
      | assumption
      | intro _
      | apply State.readPuf_keeps
      | split
      | dsimp only
      | apply Keeps.upd

theorem State.markSuspect_keeps {s t : State} (h : Keeps s t) (u : Fin 36) :
    Keeps s (t.markSuspect u) := by
  unfold State.markSuspect
  with_reducible
    repeat' first
      | exact h
      | assumption
      | intro _
      | apply State.raiseUnit_keeps
      | apply State.onSeat_keeps
      | split
      | dsimp only
      | apply Keeps.upd

theorem State.openFrames_keeps {s t : State} (h : Keeps s t) (t0 : Nat) :
    Keeps s (t.openFrames t0) := by
  unfold State.openFrames
  with_reducible
    repeat' first
      | exact h
      | assumption
      | intro _
      | split
      | dsimp only
      | apply Keeps.upd

theorem State.sendTicks_keeps {s t : State} (h : Keeps s t)  :
    Keeps s (t.sendTicks) := by
  unfold State.sendTicks
  with_reducible
    repeat' first
      | exact h
      | assumption
      | intro _
      | apply State.draw_keeps
      | apply State.sendWord_keeps
      | refine Keeps.foldl ?_ _ ?_
      | refine Keeps.foldl_fst ?_ _ ?_
      | refine Keeps.of_fst (by assumption) ?_
      | refine Keeps.of_snd (by assumption) ?_
      | refine Keeps.of_third (by assumption) ?_
      | split
      | dsimp only
      | apply Keeps.upd

theorem State.edgeSamples_keeps {s t : State} (h : Keeps s t)  :
    Keeps s (t.edgeSamples) := by
  unfold State.edgeSamples
  with_reducible
    repeat' first
      | exact h
      | assumption
      | intro _
      | apply State.feed_keeps
      | refine Keeps.foldl ?_ _ ?_
      | refine Keeps.foldl_fst ?_ _ ?_
      | dsimp only
      | apply Keeps.upd

theorem State.edgeWork_keeps {s t : State} (h : Keeps s t)  :
    Keeps s (t.edgeWork) := by
  unfold State.edgeWork
  with_reducible
    repeat' first
      | exact h
      | assumption
      | intro _
      | apply State.emit_keeps
      | apply State.requestPreemption_keeps
      | apply State.resumeRestored_keeps
      | apply State.starve_keeps
      | apply State.admitAtEdge_keeps
      | apply State.moveBlades_keeps
      | apply State.idleSlices_keeps
      | apply State.openFrames_keeps
      | apply State.sendTicks_keeps
      | apply State.edgeSamples_keeps
      | refine Keeps.foldl ?_ _ ?_
      | refine Keeps.foldl_fst ?_ _ ?_
      | split
      | dsimp only
      | apply Keeps.upd

theorem State.spdmSummary_keeps {s t : State} (h : Keeps s t) (kind : Nat) :
    Keeps s (t.spdmSummary kind).2 := by
  unfold State.spdmSummary
  with_reducible
    repeat' first
      | exact h
      | assumption
      | intro _
      | apply State.drawBytes_keeps
      | split
      | dsimp only
      | apply Keeps.upd

theorem State.spdmCount_keeps {s t : State} (h : Keeps s t) (error : Bool) :
    Keeps s (t.spdmCount error) := by
  unfold State.spdmCount
  with_reducible
    repeat' first
      | exact h
      | assumption
      | intro _
      | apply State.bump_keeps
      | split
      | dsimp only
      | apply Keeps.upd

theorem spdmError_keeps {s t : State} (h : Keeps s t) (c : SpdmState) (code data : Nat) : Keeps s (spdmError t c code data).st := h

theorem spdmGate_keeps {s t : State} (h : Keeps s t) (c : SpdmState) (m : List Byte) (len : Nat) (ok : SpdmState → Bool)
    (act : Nat → SpdmAnswer) (ha : ∀ v, Keeps s (act v).st) : Keeps s (spdmGate t c m len ok act).st := by
  unfold spdmGate
  repeat' split
  all_goals first
    | exact h
    | exact ha _

theorem State.spdmGetVersion_keeps {s t : State} (c : SpdmState) (m : List Byte) (h : Keeps s t) : Keeps s (t.spdmGetVersion c m).st := by
  unfold State.spdmGetVersion
  split <;> exact h

theorem State.spdmGetCapabilities_keeps {s t : State} (c : SpdmState) (m : List Byte) (h : Keeps s t) :
    Keeps s (t.spdmGetCapabilities c m).st := by
  unfold State.spdmGetCapabilities
  dsimp only
  split
  · exact h
  · split
    · exact h
    · split
      · exact h
      · exact State.drawBytes_keeps h 4

theorem State.spdmNegotiate_keeps {s t : State} (c : SpdmState) (m : List Byte) (h : Keeps s t) : Keeps s (t.spdmNegotiate c m).st := by
  unfold State.spdmNegotiate
  exact spdmGate_keeps h _ _ _ _ _ fun v => h

theorem State.spdmGetDigests_keeps {s t : State} (c : SpdmState) (m : List Byte) (h : Keeps s t) : Keeps s (t.spdmGetDigests c m).st := by
  unfold State.spdmGetDigests
  exact spdmGate_keeps h _ _ _ _ _ fun v => h

theorem State.spdmGetCertificate_keeps {s t : State} (c : SpdmState) (m : List Byte) (h : Keeps s t) :
    Keeps s (t.spdmGetCertificate c m).st := by
  unfold State.spdmGetCertificate
  refine spdmGate_keeps h _ _ _ _ _ fun v => ?_
  dsimp only
  split <;> exact h

theorem State.spdmSigned_keeps {s t : State} (h : Keeps s t) (c : SpdmState) (v code p1 p2 : Nat) (body : List Byte) :
    Keeps s (t.spdmSigned c v code p1 p2 body).st := by
  unfold State.spdmSigned
  split
  · exact h
  · exact State.sign_keeps h _ _ (by assumption)

theorem State.spdmChallenge_keeps {s t : State} (c : SpdmState) (m : List Byte) (h : Keeps s t) : Keeps s (t.spdmChallenge c m).st := by
  unfold State.spdmChallenge
  refine spdmGate_keeps h _ _ _ _ _ fun v => ?_
  dsimp only
  split
  · exact h
  · exact State.spdmSigned_keeps (State.drawBytes_keeps (State.spdmSummary_keeps h ..) ..) ..

theorem State.spdmGetMeasurements_keeps {s t : State} (c : SpdmState) (m : List Byte) (h : Keeps s t) :
    Keeps s (t.spdmGetMeasurements c m).st := by
  unfold State.spdmGetMeasurements
  refine spdmGate_keeps h _ _ _ _ _ fun v => ?_
  dsimp only
  split
  · exact h
  · split
    · exact State.spdmSigned_keeps (State.drawBytes_keeps h ..) ..
    · exact State.drawBytes_keeps h 32

theorem State.spdm_keeps {s t : State} (h : Keeps s t) (via : SpdmVia) (mine : List Byte → Bool) (act : SpdmAct)
    (ha : ∀ u c m, Keeps s u → Keeps s (act u c m).st) : Keeps s (t.spdm via mine act) := by
  unfold State.spdm
  split
  · split
    · exact h
    · exact Keeps.upd (State.spdmCount_keeps (ha _ _ _ h) ..) ..
  · exact State.xefinFrame_keeps h _ _ _ fun u m hu => Keeps.upd (State.spdmCount_keeps (ha _ _ _ hu) ..) ..



theorem State.issueOn_keeps {s t : State} (h : Keeps s t) (n : Option (Fin 4)) (h0 : Fin 64) (l : Fin 4) (faults : List (Plan × Bool))
    (eff : State → State) (heff : ∀ u, Keeps s u → Keeps s (eff u)) : ∀ u, t.issueOn n h0 l faults eff = .next u → Keeps s u := by
  intro u e
  unfold State.issueOn at e
  cases e
  split
  · split
    · exact State.faultFrom_keeps h ..
    · exact heff _ (State.bump_keeps h ..)
  · exact h

theorem State.issue_keeps {s t : State} (h : Keeps s t) (h0 : Fin 64) (l : Fin 4) (faults : List (Plan × Bool))
    (eff : State → State) (heff : ∀ u, Keeps s u → Keeps s (eff u)) : ∀ u, t.issue h0 l faults eff = .next u → Keeps s u :=
  State.issueOn_keeps h none h0 l faults eff heff

theorem State.issueLaunch_keeps {s t : State} (h : Keeps s t) (h0 : Fin 64) (l : Fin 4) (op : Nat) (e0 : Fin 16)
    (handle : BitVec 16) (xi : BitVec 4) (csem : BitVec 9) (rsv : BitVec 19) :
    ∀ u, t.issueLaunch h0 l op e0 handle xi csem rsv = .next u → Keeps s u := by
  unfold State.issueLaunch
  exact State.issue_keeps h _ _ _ _ fun u hu => State.launchHead_keeps _ _ (State.enqueue_keeps hu ..)

theorem State.issueScull_keeps {s t : State} (h : Keeps s t) (h0 : Fin 64) (l : Fin 4) (op : Nat) (k : Fin 16)
    (handle : BitVec 16) (xi : BitVec 4) (csem : BitVec 9) (rsv : BitVec 19) :
    ∀ u, t.issueScull h0 l op k handle xi csem rsv = .next u → Keeps s u := by
  unfold State.issueScull
  exact State.issue_keeps h _ _ _ _ fun u hu => State.scullHead_keeps _ _ (State.enqueue_keeps hu ..)

theorem State.issueService_keeps {s t : State} (h : Keeps s t) (h0 : Fin 64) (l : Fin 4) (handle : BitVec 16)
    (csem : BitVec 9) (rsv : BitVec 15) (run : State → Nat → Nat → State)
    (hrun : ∀ u a n, Keeps s u → Keeps s (run u a n)) :
    ∀ u, t.issueService h0 l handle csem rsv run = .next u → Keeps s u := by
  unfold State.issueService
  refine State.issue_keeps h _ _ _ _ fun u hu => ?_
  split
  · exact State.faultHeat_keeps hu ..
  · exact hrun _ _ _ hu

end Sys2Proof.Machine
end

