-- ==== Sys2Proof/Laws/State.lean ====
section
/-! SUPPORT. What each named update leaves alone: one lemma for each field and update. -/
namespace Sys2Proof.Machine

/-! `State.setEntry` -/

@[simp] theorem State.setEntry_pending (s : State) (i j v : Nat) : (s.setEntry i j v).pending = s.pending := rfl
@[simp] theorem State.setEntry_blobs (s : State) (i j v : Nat) : (s.setEntry i j v).blobs = s.blobs := rfl
@[simp] theorem State.setEntry_mem (s : State) (i j v : Nat) : (s.setEntry i j v).mem = s.mem := rfl
@[simp] theorem State.setEntry_draws (s : State) (i j v : Nat) : (s.setEntry i j v).draws = s.draws := rfl
@[simp] theorem State.setEntry_out (s : State) (i j v : Nat) : (s.setEntry i j v).out = s.out := rfl
@[simp] theorem State.setEntry_bladeMap (s : State) (i j v : Nat) : (s.setEntry i j v).bladeMap = s.bladeMap := rfl
@[simp] theorem State.setEntry_clock (s : State) (i j v : Nat) : (s.setEntry i j v).clock = s.clock := rfl
@[simp] theorem State.setEntry_log (s : State) (i j v : Nat) : (s.setEntry i j v).log = s.log := rfl
@[simp] theorem State.setEntry_ergs (s : State) (i j v : Nat) : (s.setEntry i j v).ergs = s.ergs := rfl
@[simp] theorem State.setEntry_capture (s : State) (i j v : Nat) : (s.setEntry i j v).capture = s.capture := rfl
@[simp] theorem State.setEntry_heats (s : State) (i j v : Nat) : (s.setEntry i j v).heats = s.heats := rfl
@[simp] theorem State.setEntry_crews (s : State) (i j v : Nat) : (s.setEntry i j v).crews = s.crews := rfl
@[simp] theorem State.setEntry_blades (s : State) (i j v : Nat) : (s.setEntry i j v).blades = s.blades := rfl
@[simp] theorem State.setEntry_sculls (s : State) (i j v : Nat) : (s.setEntry i j v).sculls = s.sculls := rfl
@[simp] theorem State.setEntry_engines (s : State) (i j v : Nat) : (s.setEntry i j v).engines = s.engines := rfl
@[simp] theorem State.setEntry_relayQueues (s : State) (i j v : Nat) : (s.setEntry i j v).relayQueues = s.relayQueues := rfl
@[simp] theorem State.setEntry_marshal (s : State) (i j v : Nat) : (s.setEntry i j v).marshal = s.marshal := rfl
@[simp] theorem State.setEntry_regions (s : State) (i j v : Nat) : (s.setEntry i j v).regions = s.regions := rfl
@[simp] theorem State.setEntry_channels (s : State) (i j v : Nat) : (s.setEntry i j v).channels = s.channels := rfl
@[simp] theorem State.setEntry_hbmStacks (s : State) (i j v : Nat) : (s.setEntry i j v).hbmStacks = s.hbmStacks := rfl
@[simp] theorem State.setEntry_dies (s : State) (i j v : Nat) : (s.setEntry i j v).dies = s.dies := rfl
@[simp] theorem State.setEntry_retrainNext (s : State) (i j v : Nat) : (s.setEntry i j v).retrainNext = s.retrainNext := rfl
@[simp] theorem State.setEntry_scullRuns (s : State) (i j v : Nat) : (s.setEntry i j v).scullRuns = s.scullRuns := rfl
@[simp] theorem State.setEntry_oarlocks (s : State) (i j v : Nat) : (s.setEntry i j v).oarlocks = s.oarlocks := rfl
@[simp] theorem State.setEntry_sweeps (s : State) (i j v : Nat) : (s.setEntry i j v).sweeps = s.sweeps := rfl
@[simp] theorem State.setEntry_telem (s : State) (i j v : Nat) : (s.setEntry i j v).telem = s.telem := rfl
@[simp] theorem State.setEntry_peers (s : State) (i j v : Nat) : (s.setEntry i j v).peers = s.peers := rfl
@[simp] theorem State.setEntry_peersFull (s : State) (i j v : Nat) : (s.setEntry i j v).peersFull = s.peersFull := rfl
@[simp] theorem State.setEntry_heldFrames (s : State) (i j v : Nat) : (s.setEntry i j v).heldFrames = s.heldFrames := rfl
@[simp] theorem State.setEntry_linkTraining (s : State) (i j v : Nat) : (s.setEntry i j v).linkTraining = s.linkTraining := rfl
@[simp] theorem State.setEntry_tags (s : State) (i j v : Nat) : (s.setEntry i j v).tags = s.tags := rfl
@[simp] theorem State.setEntry_collectives (s : State) (i j v : Nat) : (s.setEntry i j v).collectives = s.collectives := rfl
@[simp] theorem State.setEntry_pools (s : State) (i j v : Nat) : (s.setEntry i j v).pools = s.pools := rfl
@[simp] theorem State.setEntry_unsent (s : State) (i j v : Nat) : (s.setEntry i j v).unsent = s.unsent := rfl
@[simp] theorem State.setEntry_slipways (s : State) (i j v : Nat) : (s.setEntry i j v).slipways = s.slipways := rfl
@[simp] theorem State.setEntry_signer (s : State) (i j v : Nat) : (s.setEntry i j v).signer = s.signer := rfl
@[simp] theorem State.setEntry_keys (s : State) (i j v : Nat) : (s.setEntry i j v).keys = s.keys := rfl
@[simp] theorem State.setEntry_flashWrites (s : State) (i j v : Nat) : (s.setEntry i j v).flashWrites = s.flashWrites := rfl
@[simp] theorem State.setEntry_retrainLeft (s : State) (i j v : Nat) : (s.setEntry i j v).retrainLeft = s.retrainLeft := rfl
@[simp] theorem State.setEntry_rings (s : State) (i j v : Nat) : (s.setEntry i j v).rings = s.rings := rfl
@[simp] theorem State.setEntry_serviceCount (s : State) (i j v : Nat) : (s.setEntry i j v).serviceCount = s.serviceCount := rfl
@[simp] theorem State.setEntry_moveCount (s : State) (i j v : Nat) : (s.setEntry i j v).moveCount = s.moveCount := rfl
@[simp] theorem State.setEntry_trust (s : State) (i j v : Nat) : (s.setEntry i j v).trust = s.trust := rfl
@[simp] theorem State.setEntry_parts (s : State) (i j v : Nat) : (s.setEntry i j v).parts = s.parts := rfl
@[simp] theorem State.setEntry_boot (s : State) (i j v : Nat) : (s.setEntry i j v).boot = s.boot := rfl
@[simp] theorem State.setEntry_pacer (s : State) (i j v : Nat) : (s.setEntry i j v).pacer = s.pacer := rfl
@[simp] theorem State.setEntry_seat (s : State) (i j v : Nat) : (s.setEntry i j v).seat = s.seat := rfl
@[simp] theorem State.setEntry_sigDump (s : State) (i j v : Nat) : (s.setEntry i j v).sigDump = s.sigDump := rfl
@[simp] theorem State.setEntry_xefin (s : State) (i j v : Nat) : (s.setEntry i j v).xefin = s.xefin := rfl
@[simp] theorem State.setEntry_power (s : State) (i j v : Nat) : (s.setEntry i j v).power = s.power := rfl

/-! `State.setBlob` -/

@[simp] theorem State.setBlob_pending (s : State) (i j : Nat) (bs : List Byte) : (s.setBlob i j bs).pending = s.pending := rfl
@[simp] theorem State.setBlob_dict (s : State) (i j : Nat) (bs : List Byte) : (s.setBlob i j bs).dict = s.dict := rfl
@[simp] theorem State.setBlob_mem (s : State) (i j : Nat) (bs : List Byte) : (s.setBlob i j bs).mem = s.mem := rfl
@[simp] theorem State.setBlob_draws (s : State) (i j : Nat) (bs : List Byte) : (s.setBlob i j bs).draws = s.draws := rfl
@[simp] theorem State.setBlob_out (s : State) (i j : Nat) (bs : List Byte) : (s.setBlob i j bs).out = s.out := rfl
@[simp] theorem State.setBlob_bladeMap (s : State) (i j : Nat) (bs : List Byte) : (s.setBlob i j bs).bladeMap = s.bladeMap := rfl
@[simp] theorem State.setBlob_clock (s : State) (i j : Nat) (bs : List Byte) : (s.setBlob i j bs).clock = s.clock := rfl
@[simp] theorem State.setBlob_log (s : State) (i j : Nat) (bs : List Byte) : (s.setBlob i j bs).log = s.log := rfl
@[simp] theorem State.setBlob_ergs (s : State) (i j : Nat) (bs : List Byte) : (s.setBlob i j bs).ergs = s.ergs := rfl
@[simp] theorem State.setBlob_capture (s : State) (i j : Nat) (bs : List Byte) : (s.setBlob i j bs).capture = s.capture := rfl
@[simp] theorem State.setBlob_heats (s : State) (i j : Nat) (bs : List Byte) : (s.setBlob i j bs).heats = s.heats := rfl
@[simp] theorem State.setBlob_crews (s : State) (i j : Nat) (bs : List Byte) : (s.setBlob i j bs).crews = s.crews := rfl
@[simp] theorem State.setBlob_blades (s : State) (i j : Nat) (bs : List Byte) : (s.setBlob i j bs).blades = s.blades := rfl
@[simp] theorem State.setBlob_sculls (s : State) (i j : Nat) (bs : List Byte) : (s.setBlob i j bs).sculls = s.sculls := rfl
@[simp] theorem State.setBlob_engines (s : State) (i j : Nat) (bs : List Byte) : (s.setBlob i j bs).engines = s.engines := rfl
@[simp] theorem State.setBlob_relayQueues (s : State) (i j : Nat) (bs : List Byte) : (s.setBlob i j bs).relayQueues = s.relayQueues := rfl
@[simp] theorem State.setBlob_marshal (s : State) (i j : Nat) (bs : List Byte) : (s.setBlob i j bs).marshal = s.marshal := rfl
@[simp] theorem State.setBlob_regions (s : State) (i j : Nat) (bs : List Byte) : (s.setBlob i j bs).regions = s.regions := rfl
@[simp] theorem State.setBlob_channels (s : State) (i j : Nat) (bs : List Byte) : (s.setBlob i j bs).channels = s.channels := rfl
@[simp] theorem State.setBlob_hbmStacks (s : State) (i j : Nat) (bs : List Byte) : (s.setBlob i j bs).hbmStacks = s.hbmStacks := rfl
@[simp] theorem State.setBlob_dies (s : State) (i j : Nat) (bs : List Byte) : (s.setBlob i j bs).dies = s.dies := rfl
@[simp] theorem State.setBlob_retrainNext (s : State) (i j : Nat) (bs : List Byte) : (s.setBlob i j bs).retrainNext = s.retrainNext := rfl
@[simp] theorem State.setBlob_scullRuns (s : State) (i j : Nat) (bs : List Byte) : (s.setBlob i j bs).scullRuns = s.scullRuns := rfl
@[simp] theorem State.setBlob_oarlocks (s : State) (i j : Nat) (bs : List Byte) : (s.setBlob i j bs).oarlocks = s.oarlocks := rfl
@[simp] theorem State.setBlob_sweeps (s : State) (i j : Nat) (bs : List Byte) : (s.setBlob i j bs).sweeps = s.sweeps := rfl
@[simp] theorem State.setBlob_telem (s : State) (i j : Nat) (bs : List Byte) : (s.setBlob i j bs).telem = s.telem := rfl
@[simp] theorem State.setBlob_peers (s : State) (i j : Nat) (bs : List Byte) : (s.setBlob i j bs).peers = s.peers := rfl
@[simp] theorem State.setBlob_peersFull (s : State) (i j : Nat) (bs : List Byte) : (s.setBlob i j bs).peersFull = s.peersFull := rfl
@[simp] theorem State.setBlob_heldFrames (s : State) (i j : Nat) (bs : List Byte) : (s.setBlob i j bs).heldFrames = s.heldFrames := rfl
@[simp] theorem State.setBlob_linkTraining (s : State) (i j : Nat) (bs : List Byte) : (s.setBlob i j bs).linkTraining = s.linkTraining := rfl
@[simp] theorem State.setBlob_tags (s : State) (i j : Nat) (bs : List Byte) : (s.setBlob i j bs).tags = s.tags := rfl
@[simp] theorem State.setBlob_collectives (s : State) (i j : Nat) (bs : List Byte) : (s.setBlob i j bs).collectives = s.collectives := rfl
@[simp] theorem State.setBlob_pools (s : State) (i j : Nat) (bs : List Byte) : (s.setBlob i j bs).pools = s.pools := rfl
@[simp] theorem State.setBlob_unsent (s : State) (i j : Nat) (bs : List Byte) : (s.setBlob i j bs).unsent = s.unsent := rfl
@[simp] theorem State.setBlob_slipways (s : State) (i j : Nat) (bs : List Byte) : (s.setBlob i j bs).slipways = s.slipways := rfl
@[simp] theorem State.setBlob_signer (s : State) (i j : Nat) (bs : List Byte) : (s.setBlob i j bs).signer = s.signer := rfl
@[simp] theorem State.setBlob_keys (s : State) (i j : Nat) (bs : List Byte) : (s.setBlob i j bs).keys = s.keys := rfl
@[simp] theorem State.setBlob_flashWrites (s : State) (i j : Nat) (bs : List Byte) : (s.setBlob i j bs).flashWrites = s.flashWrites := rfl
@[simp] theorem State.setBlob_retrainLeft (s : State) (i j : Nat) (bs : List Byte) : (s.setBlob i j bs).retrainLeft = s.retrainLeft := rfl
@[simp] theorem State.setBlob_rings (s : State) (i j : Nat) (bs : List Byte) : (s.setBlob i j bs).rings = s.rings := rfl
@[simp] theorem State.setBlob_serviceCount (s : State) (i j : Nat) (bs : List Byte) : (s.setBlob i j bs).serviceCount = s.serviceCount := rfl
@[simp] theorem State.setBlob_moveCount (s : State) (i j : Nat) (bs : List Byte) : (s.setBlob i j bs).moveCount = s.moveCount := rfl
@[simp] theorem State.setBlob_trust (s : State) (i j : Nat) (bs : List Byte) : (s.setBlob i j bs).trust = s.trust := rfl
@[simp] theorem State.setBlob_parts (s : State) (i j : Nat) (bs : List Byte) : (s.setBlob i j bs).parts = s.parts := rfl
@[simp] theorem State.setBlob_boot (s : State) (i j : Nat) (bs : List Byte) : (s.setBlob i j bs).boot = s.boot := rfl
@[simp] theorem State.setBlob_pacer (s : State) (i j : Nat) (bs : List Byte) : (s.setBlob i j bs).pacer = s.pacer := rfl
@[simp] theorem State.setBlob_seat (s : State) (i j : Nat) (bs : List Byte) : (s.setBlob i j bs).seat = s.seat := rfl
@[simp] theorem State.setBlob_sigDump (s : State) (i j : Nat) (bs : List Byte) : (s.setBlob i j bs).sigDump = s.sigDump := rfl
@[simp] theorem State.setBlob_xefin (s : State) (i j : Nat) (bs : List Byte) : (s.setBlob i j bs).xefin = s.xefin := rfl
@[simp] theorem State.setBlob_power (s : State) (i j : Nat) (bs : List Byte) : (s.setBlob i j bs).power = s.power := rfl

/-! `State.emit` -/

@[simp] theorem State.emit_pending (s : State) (o : Output) : (s.emit o).pending = s.pending := rfl
@[simp] theorem State.emit_dict (s : State) (o : Output) : (s.emit o).dict = s.dict := rfl
@[simp] theorem State.emit_blobs (s : State) (o : Output) : (s.emit o).blobs = s.blobs := rfl
@[simp] theorem State.emit_mem (s : State) (o : Output) : (s.emit o).mem = s.mem := rfl
@[simp] theorem State.emit_draws (s : State) (o : Output) : (s.emit o).draws = s.draws := rfl
@[simp] theorem State.emit_bladeMap (s : State) (o : Output) : (s.emit o).bladeMap = s.bladeMap := rfl
@[simp] theorem State.emit_clock (s : State) (o : Output) : (s.emit o).clock = s.clock := rfl
@[simp] theorem State.emit_log (s : State) (o : Output) : (s.emit o).log = s.log := rfl
@[simp] theorem State.emit_ergs (s : State) (o : Output) : (s.emit o).ergs = s.ergs := rfl
@[simp] theorem State.emit_capture (s : State) (o : Output) : (s.emit o).capture = s.capture := rfl
@[simp] theorem State.emit_heats (s : State) (o : Output) : (s.emit o).heats = s.heats := rfl
@[simp] theorem State.emit_crews (s : State) (o : Output) : (s.emit o).crews = s.crews := rfl
@[simp] theorem State.emit_blades (s : State) (o : Output) : (s.emit o).blades = s.blades := rfl
@[simp] theorem State.emit_sculls (s : State) (o : Output) : (s.emit o).sculls = s.sculls := rfl
@[simp] theorem State.emit_engines (s : State) (o : Output) : (s.emit o).engines = s.engines := rfl
@[simp] theorem State.emit_relayQueues (s : State) (o : Output) : (s.emit o).relayQueues = s.relayQueues := rfl
@[simp] theorem State.emit_marshal (s : State) (o : Output) : (s.emit o).marshal = s.marshal := rfl
@[simp] theorem State.emit_regions (s : State) (o : Output) : (s.emit o).regions = s.regions := rfl
@[simp] theorem State.emit_channels (s : State) (o : Output) : (s.emit o).channels = s.channels := rfl
@[simp] theorem State.emit_hbmStacks (s : State) (o : Output) : (s.emit o).hbmStacks = s.hbmStacks := rfl
@[simp] theorem State.emit_dies (s : State) (o : Output) : (s.emit o).dies = s.dies := rfl
@[simp] theorem State.emit_retrainNext (s : State) (o : Output) : (s.emit o).retrainNext = s.retrainNext := rfl
@[simp] theorem State.emit_scullRuns (s : State) (o : Output) : (s.emit o).scullRuns = s.scullRuns := rfl
@[simp] theorem State.emit_oarlocks (s : State) (o : Output) : (s.emit o).oarlocks = s.oarlocks := rfl
@[simp] theorem State.emit_sweeps (s : State) (o : Output) : (s.emit o).sweeps = s.sweeps := rfl
@[simp] theorem State.emit_telem (s : State) (o : Output) : (s.emit o).telem = s.telem := rfl
@[simp] theorem State.emit_peers (s : State) (o : Output) : (s.emit o).peers = s.peers := rfl
@[simp] theorem State.emit_peersFull (s : State) (o : Output) : (s.emit o).peersFull = s.peersFull := rfl
@[simp] theorem State.emit_heldFrames (s : State) (o : Output) : (s.emit o).heldFrames = s.heldFrames := rfl
@[simp] theorem State.emit_linkTraining (s : State) (o : Output) : (s.emit o).linkTraining = s.linkTraining := rfl
@[simp] theorem State.emit_tags (s : State) (o : Output) : (s.emit o).tags = s.tags := rfl
@[simp] theorem State.emit_collectives (s : State) (o : Output) : (s.emit o).collectives = s.collectives := rfl
@[simp] theorem State.emit_pools (s : State) (o : Output) : (s.emit o).pools = s.pools := rfl
@[simp] theorem State.emit_unsent (s : State) (o : Output) : (s.emit o).unsent = s.unsent := rfl
@[simp] theorem State.emit_slipways (s : State) (o : Output) : (s.emit o).slipways = s.slipways := rfl
@[simp] theorem State.emit_signer (s : State) (o : Output) : (s.emit o).signer = s.signer := rfl
@[simp] theorem State.emit_keys (s : State) (o : Output) : (s.emit o).keys = s.keys := rfl
@[simp] theorem State.emit_flashWrites (s : State) (o : Output) : (s.emit o).flashWrites = s.flashWrites := rfl
@[simp] theorem State.emit_retrainLeft (s : State) (o : Output) : (s.emit o).retrainLeft = s.retrainLeft := rfl
@[simp] theorem State.emit_rings (s : State) (o : Output) : (s.emit o).rings = s.rings := rfl
@[simp] theorem State.emit_serviceCount (s : State) (o : Output) : (s.emit o).serviceCount = s.serviceCount := rfl
@[simp] theorem State.emit_moveCount (s : State) (o : Output) : (s.emit o).moveCount = s.moveCount := rfl
@[simp] theorem State.emit_trust (s : State) (o : Output) : (s.emit o).trust = s.trust := rfl
@[simp] theorem State.emit_parts (s : State) (o : Output) : (s.emit o).parts = s.parts := rfl
@[simp] theorem State.emit_boot (s : State) (o : Output) : (s.emit o).boot = s.boot := rfl
@[simp] theorem State.emit_pacer (s : State) (o : Output) : (s.emit o).pacer = s.pacer := rfl
@[simp] theorem State.emit_seat (s : State) (o : Output) : (s.emit o).seat = s.seat := rfl
@[simp] theorem State.emit_sigDump (s : State) (o : Output) : (s.emit o).sigDump = s.sigDump := rfl
@[simp] theorem State.emit_xefin (s : State) (o : Output) : (s.emit o).xefin = s.xefin := rfl
@[simp] theorem State.emit_power (s : State) (o : Output) : (s.emit o).power = s.power := rfl

/-! `State.setCell` -/

@[simp] theorem State.setCell_pending (s : State) (k : Nat) (b : Byte) : (s.setCell k b).pending = s.pending := rfl
@[simp] theorem State.setCell_dict (s : State) (k : Nat) (b : Byte) : (s.setCell k b).dict = s.dict := rfl
@[simp] theorem State.setCell_blobs (s : State) (k : Nat) (b : Byte) : (s.setCell k b).blobs = s.blobs := rfl
@[simp] theorem State.setCell_draws (s : State) (k : Nat) (b : Byte) : (s.setCell k b).draws = s.draws := rfl
@[simp] theorem State.setCell_out (s : State) (k : Nat) (b : Byte) : (s.setCell k b).out = s.out := rfl
@[simp] theorem State.setCell_bladeMap (s : State) (k : Nat) (b : Byte) : (s.setCell k b).bladeMap = s.bladeMap := rfl
@[simp] theorem State.setCell_clock (s : State) (k : Nat) (b : Byte) : (s.setCell k b).clock = s.clock := rfl
@[simp] theorem State.setCell_log (s : State) (k : Nat) (b : Byte) : (s.setCell k b).log = s.log := rfl
@[simp] theorem State.setCell_ergs (s : State) (k : Nat) (b : Byte) : (s.setCell k b).ergs = s.ergs := rfl
@[simp] theorem State.setCell_capture (s : State) (k : Nat) (b : Byte) : (s.setCell k b).capture = s.capture := rfl
@[simp] theorem State.setCell_heats (s : State) (k : Nat) (b : Byte) : (s.setCell k b).heats = s.heats := rfl
@[simp] theorem State.setCell_crews (s : State) (k : Nat) (b : Byte) : (s.setCell k b).crews = s.crews := rfl
@[simp] theorem State.setCell_blades (s : State) (k : Nat) (b : Byte) : (s.setCell k b).blades = s.blades := rfl
@[simp] theorem State.setCell_sculls (s : State) (k : Nat) (b : Byte) : (s.setCell k b).sculls = s.sculls := rfl
@[simp] theorem State.setCell_engines (s : State) (k : Nat) (b : Byte) : (s.setCell k b).engines = s.engines := rfl
@[simp] theorem State.setCell_relayQueues (s : State) (k : Nat) (b : Byte) : (s.setCell k b).relayQueues = s.relayQueues := rfl
@[simp] theorem State.setCell_marshal (s : State) (k : Nat) (b : Byte) : (s.setCell k b).marshal = s.marshal := rfl
@[simp] theorem State.setCell_regions (s : State) (k : Nat) (b : Byte) : (s.setCell k b).regions = s.regions := rfl
@[simp] theorem State.setCell_channels (s : State) (k : Nat) (b : Byte) : (s.setCell k b).channels = s.channels := rfl
@[simp] theorem State.setCell_hbmStacks (s : State) (k : Nat) (b : Byte) : (s.setCell k b).hbmStacks = s.hbmStacks := rfl
@[simp] theorem State.setCell_dies (s : State) (k : Nat) (b : Byte) : (s.setCell k b).dies = s.dies := rfl
@[simp] theorem State.setCell_retrainNext (s : State) (k : Nat) (b : Byte) : (s.setCell k b).retrainNext = s.retrainNext := rfl
@[simp] theorem State.setCell_scullRuns (s : State) (k : Nat) (b : Byte) : (s.setCell k b).scullRuns = s.scullRuns := rfl
@[simp] theorem State.setCell_oarlocks (s : State) (k : Nat) (b : Byte) : (s.setCell k b).oarlocks = s.oarlocks := rfl
@[simp] theorem State.setCell_sweeps (s : State) (k : Nat) (b : Byte) : (s.setCell k b).sweeps = s.sweeps := rfl
@[simp] theorem State.setCell_telem (s : State) (k : Nat) (b : Byte) : (s.setCell k b).telem = s.telem := rfl
@[simp] theorem State.setCell_peers (s : State) (k : Nat) (b : Byte) : (s.setCell k b).peers = s.peers := rfl
@[simp] theorem State.setCell_peersFull (s : State) (k : Nat) (b : Byte) : (s.setCell k b).peersFull = s.peersFull := rfl
@[simp] theorem State.setCell_heldFrames (s : State) (k : Nat) (b : Byte) : (s.setCell k b).heldFrames = s.heldFrames := rfl
@[simp] theorem State.setCell_linkTraining (s : State) (k : Nat) (b : Byte) : (s.setCell k b).linkTraining = s.linkTraining := rfl
@[simp] theorem State.setCell_tags (s : State) (k : Nat) (b : Byte) : (s.setCell k b).tags = s.tags := rfl
@[simp] theorem State.setCell_collectives (s : State) (k : Nat) (b : Byte) : (s.setCell k b).collectives = s.collectives := rfl
@[simp] theorem State.setCell_pools (s : State) (k : Nat) (b : Byte) : (s.setCell k b).pools = s.pools := rfl
@[simp] theorem State.setCell_unsent (s : State) (k : Nat) (b : Byte) : (s.setCell k b).unsent = s.unsent := rfl
@[simp] theorem State.setCell_slipways (s : State) (k : Nat) (b : Byte) : (s.setCell k b).slipways = s.slipways := rfl
@[simp] theorem State.setCell_signer (s : State) (k : Nat) (b : Byte) : (s.setCell k b).signer = s.signer := rfl
@[simp] theorem State.setCell_keys (s : State) (k : Nat) (b : Byte) : (s.setCell k b).keys = s.keys := rfl
@[simp] theorem State.setCell_flashWrites (s : State) (k : Nat) (b : Byte) : (s.setCell k b).flashWrites = s.flashWrites := rfl
@[simp] theorem State.setCell_retrainLeft (s : State) (k : Nat) (b : Byte) : (s.setCell k b).retrainLeft = s.retrainLeft := rfl
@[simp] theorem State.setCell_rings (s : State) (k : Nat) (b : Byte) : (s.setCell k b).rings = s.rings := rfl
@[simp] theorem State.setCell_serviceCount (s : State) (k : Nat) (b : Byte) : (s.setCell k b).serviceCount = s.serviceCount := rfl
@[simp] theorem State.setCell_moveCount (s : State) (k : Nat) (b : Byte) : (s.setCell k b).moveCount = s.moveCount := rfl
@[simp] theorem State.setCell_trust (s : State) (k : Nat) (b : Byte) : (s.setCell k b).trust = s.trust := rfl
@[simp] theorem State.setCell_parts (s : State) (k : Nat) (b : Byte) : (s.setCell k b).parts = s.parts := rfl
@[simp] theorem State.setCell_boot (s : State) (k : Nat) (b : Byte) : (s.setCell k b).boot = s.boot := rfl
@[simp] theorem State.setCell_pacer (s : State) (k : Nat) (b : Byte) : (s.setCell k b).pacer = s.pacer := rfl
@[simp] theorem State.setCell_seat (s : State) (k : Nat) (b : Byte) : (s.setCell k b).seat = s.seat := rfl
@[simp] theorem State.setCell_sigDump (s : State) (k : Nat) (b : Byte) : (s.setCell k b).sigDump = s.sigDump := rfl
@[simp] theorem State.setCell_xefin (s : State) (k : Nat) (b : Byte) : (s.setCell k b).xefin = s.xefin := rfl
@[simp] theorem State.setCell_power (s : State) (k : Nat) (b : Byte) : (s.setCell k b).power = s.power := rfl

/-! `State.setCells` -/

@[simp] theorem State.setCells_pending (s : State) (k : Nat) (bs : List Byte) : (s.setCells k bs).pending = s.pending := rfl
@[simp] theorem State.setCells_dict (s : State) (k : Nat) (bs : List Byte) : (s.setCells k bs).dict = s.dict := rfl
@[simp] theorem State.setCells_blobs (s : State) (k : Nat) (bs : List Byte) : (s.setCells k bs).blobs = s.blobs := rfl
@[simp] theorem State.setCells_draws (s : State) (k : Nat) (bs : List Byte) : (s.setCells k bs).draws = s.draws := rfl
@[simp] theorem State.setCells_out (s : State) (k : Nat) (bs : List Byte) : (s.setCells k bs).out = s.out := rfl
@[simp] theorem State.setCells_bladeMap (s : State) (k : Nat) (bs : List Byte) : (s.setCells k bs).bladeMap = s.bladeMap := rfl
@[simp] theorem State.setCells_clock (s : State) (k : Nat) (bs : List Byte) : (s.setCells k bs).clock = s.clock := rfl
@[simp] theorem State.setCells_log (s : State) (k : Nat) (bs : List Byte) : (s.setCells k bs).log = s.log := rfl
@[simp] theorem State.setCells_ergs (s : State) (k : Nat) (bs : List Byte) : (s.setCells k bs).ergs = s.ergs := rfl
@[simp] theorem State.setCells_capture (s : State) (k : Nat) (bs : List Byte) : (s.setCells k bs).capture = s.capture := rfl
@[simp] theorem State.setCells_heats (s : State) (k : Nat) (bs : List Byte) : (s.setCells k bs).heats = s.heats := rfl
@[simp] theorem State.setCells_crews (s : State) (k : Nat) (bs : List Byte) : (s.setCells k bs).crews = s.crews := rfl
@[simp] theorem State.setCells_blades (s : State) (k : Nat) (bs : List Byte) : (s.setCells k bs).blades = s.blades := rfl
@[simp] theorem State.setCells_sculls (s : State) (k : Nat) (bs : List Byte) : (s.setCells k bs).sculls = s.sculls := rfl
@[simp] theorem State.setCells_engines (s : State) (k : Nat) (bs : List Byte) : (s.setCells k bs).engines = s.engines := rfl
@[simp] theorem State.setCells_relayQueues (s : State) (k : Nat) (bs : List Byte) : (s.setCells k bs).relayQueues = s.relayQueues := rfl
@[simp] theorem State.setCells_marshal (s : State) (k : Nat) (bs : List Byte) : (s.setCells k bs).marshal = s.marshal := rfl
@[simp] theorem State.setCells_regions (s : State) (k : Nat) (bs : List Byte) : (s.setCells k bs).regions = s.regions := rfl
@[simp] theorem State.setCells_channels (s : State) (k : Nat) (bs : List Byte) : (s.setCells k bs).channels = s.channels := rfl
@[simp] theorem State.setCells_hbmStacks (s : State) (k : Nat) (bs : List Byte) : (s.setCells k bs).hbmStacks = s.hbmStacks := rfl
@[simp] theorem State.setCells_dies (s : State) (k : Nat) (bs : List Byte) : (s.setCells k bs).dies = s.dies := rfl
@[simp] theorem State.setCells_retrainNext (s : State) (k : Nat) (bs : List Byte) : (s.setCells k bs).retrainNext = s.retrainNext := rfl
@[simp] theorem State.setCells_scullRuns (s : State) (k : Nat) (bs : List Byte) : (s.setCells k bs).scullRuns = s.scullRuns := rfl
@[simp] theorem State.setCells_oarlocks (s : State) (k : Nat) (bs : List Byte) : (s.setCells k bs).oarlocks = s.oarlocks := rfl
@[simp] theorem State.setCells_sweeps (s : State) (k : Nat) (bs : List Byte) : (s.setCells k bs).sweeps = s.sweeps := rfl
@[simp] theorem State.setCells_telem (s : State) (k : Nat) (bs : List Byte) : (s.setCells k bs).telem = s.telem := rfl
@[simp] theorem State.setCells_peers (s : State) (k : Nat) (bs : List Byte) : (s.setCells k bs).peers = s.peers := rfl
@[simp] theorem State.setCells_peersFull (s : State) (k : Nat) (bs : List Byte) : (s.setCells k bs).peersFull = s.peersFull := rfl
@[simp] theorem State.setCells_heldFrames (s : State) (k : Nat) (bs : List Byte) : (s.setCells k bs).heldFrames = s.heldFrames := rfl
@[simp] theorem State.setCells_linkTraining (s : State) (k : Nat) (bs : List Byte) : (s.setCells k bs).linkTraining = s.linkTraining := rfl
@[simp] theorem State.setCells_tags (s : State) (k : Nat) (bs : List Byte) : (s.setCells k bs).tags = s.tags := rfl
@[simp] theorem State.setCells_collectives (s : State) (k : Nat) (bs : List Byte) : (s.setCells k bs).collectives = s.collectives := rfl
@[simp] theorem State.setCells_pools (s : State) (k : Nat) (bs : List Byte) : (s.setCells k bs).pools = s.pools := rfl
@[simp] theorem State.setCells_unsent (s : State) (k : Nat) (bs : List Byte) : (s.setCells k bs).unsent = s.unsent := rfl
@[simp] theorem State.setCells_slipways (s : State) (k : Nat) (bs : List Byte) : (s.setCells k bs).slipways = s.slipways := rfl
@[simp] theorem State.setCells_signer (s : State) (k : Nat) (bs : List Byte) : (s.setCells k bs).signer = s.signer := rfl
@[simp] theorem State.setCells_keys (s : State) (k : Nat) (bs : List Byte) : (s.setCells k bs).keys = s.keys := rfl
@[simp] theorem State.setCells_flashWrites (s : State) (k : Nat) (bs : List Byte) : (s.setCells k bs).flashWrites = s.flashWrites := rfl
@[simp] theorem State.setCells_retrainLeft (s : State) (k : Nat) (bs : List Byte) : (s.setCells k bs).retrainLeft = s.retrainLeft := rfl
@[simp] theorem State.setCells_rings (s : State) (k : Nat) (bs : List Byte) : (s.setCells k bs).rings = s.rings := rfl
@[simp] theorem State.setCells_serviceCount (s : State) (k : Nat) (bs : List Byte) : (s.setCells k bs).serviceCount = s.serviceCount := rfl
@[simp] theorem State.setCells_moveCount (s : State) (k : Nat) (bs : List Byte) : (s.setCells k bs).moveCount = s.moveCount := rfl
@[simp] theorem State.setCells_trust (s : State) (k : Nat) (bs : List Byte) : (s.setCells k bs).trust = s.trust := rfl
@[simp] theorem State.setCells_parts (s : State) (k : Nat) (bs : List Byte) : (s.setCells k bs).parts = s.parts := rfl
@[simp] theorem State.setCells_boot (s : State) (k : Nat) (bs : List Byte) : (s.setCells k bs).boot = s.boot := rfl
@[simp] theorem State.setCells_pacer (s : State) (k : Nat) (bs : List Byte) : (s.setCells k bs).pacer = s.pacer := rfl
@[simp] theorem State.setCells_seat (s : State) (k : Nat) (bs : List Byte) : (s.setCells k bs).seat = s.seat := rfl
@[simp] theorem State.setCells_sigDump (s : State) (k : Nat) (bs : List Byte) : (s.setCells k bs).sigDump = s.sigDump := rfl
@[simp] theorem State.setCells_xefin (s : State) (k : Nat) (bs : List Byte) : (s.setCells k bs).xefin = s.xefin := rfl
@[simp] theorem State.setCells_power (s : State) (k : Nat) (bs : List Byte) : (s.setCells k bs).power = s.power := rfl

/-! `State.onHeat` -/

@[simp] theorem State.onHeat_pending (s : State) (h : Fin 64) (f : Heat → Heat) : (s.onHeat h f).pending = s.pending := rfl
@[simp] theorem State.onHeat_dict (s : State) (h : Fin 64) (f : Heat → Heat) : (s.onHeat h f).dict = s.dict := rfl
@[simp] theorem State.onHeat_blobs (s : State) (h : Fin 64) (f : Heat → Heat) : (s.onHeat h f).blobs = s.blobs := rfl
@[simp] theorem State.onHeat_mem (s : State) (h : Fin 64) (f : Heat → Heat) : (s.onHeat h f).mem = s.mem := rfl
@[simp] theorem State.onHeat_draws (s : State) (h : Fin 64) (f : Heat → Heat) : (s.onHeat h f).draws = s.draws := rfl
@[simp] theorem State.onHeat_out (s : State) (h : Fin 64) (f : Heat → Heat) : (s.onHeat h f).out = s.out := rfl
@[simp] theorem State.onHeat_bladeMap (s : State) (h : Fin 64) (f : Heat → Heat) : (s.onHeat h f).bladeMap = s.bladeMap := rfl
@[simp] theorem State.onHeat_clock (s : State) (h : Fin 64) (f : Heat → Heat) : (s.onHeat h f).clock = s.clock := rfl
@[simp] theorem State.onHeat_log (s : State) (h : Fin 64) (f : Heat → Heat) : (s.onHeat h f).log = s.log := rfl
@[simp] theorem State.onHeat_ergs (s : State) (h : Fin 64) (f : Heat → Heat) : (s.onHeat h f).ergs = s.ergs := rfl
@[simp] theorem State.onHeat_capture (s : State) (h : Fin 64) (f : Heat → Heat) : (s.onHeat h f).capture = s.capture := rfl
@[simp] theorem State.onHeat_crews (s : State) (h : Fin 64) (f : Heat → Heat) : (s.onHeat h f).crews = s.crews := rfl
@[simp] theorem State.onHeat_blades (s : State) (h : Fin 64) (f : Heat → Heat) : (s.onHeat h f).blades = s.blades := rfl
@[simp] theorem State.onHeat_sculls (s : State) (h : Fin 64) (f : Heat → Heat) : (s.onHeat h f).sculls = s.sculls := rfl
@[simp] theorem State.onHeat_engines (s : State) (h : Fin 64) (f : Heat → Heat) : (s.onHeat h f).engines = s.engines := rfl
@[simp] theorem State.onHeat_relayQueues (s : State) (h : Fin 64) (f : Heat → Heat) : (s.onHeat h f).relayQueues = s.relayQueues := rfl
@[simp] theorem State.onHeat_marshal (s : State) (h : Fin 64) (f : Heat → Heat) : (s.onHeat h f).marshal = s.marshal := rfl
@[simp] theorem State.onHeat_regions (s : State) (h : Fin 64) (f : Heat → Heat) : (s.onHeat h f).regions = s.regions := rfl
@[simp] theorem State.onHeat_channels (s : State) (h : Fin 64) (f : Heat → Heat) : (s.onHeat h f).channels = s.channels := rfl
@[simp] theorem State.onHeat_hbmStacks (s : State) (h : Fin 64) (f : Heat → Heat) : (s.onHeat h f).hbmStacks = s.hbmStacks := rfl
@[simp] theorem State.onHeat_dies (s : State) (h : Fin 64) (f : Heat → Heat) : (s.onHeat h f).dies = s.dies := rfl
@[simp] theorem State.onHeat_retrainNext (s : State) (h : Fin 64) (f : Heat → Heat) : (s.onHeat h f).retrainNext = s.retrainNext := rfl
@[simp] theorem State.onHeat_scullRuns (s : State) (h : Fin 64) (f : Heat → Heat) : (s.onHeat h f).scullRuns = s.scullRuns := rfl
@[simp] theorem State.onHeat_oarlocks (s : State) (h : Fin 64) (f : Heat → Heat) : (s.onHeat h f).oarlocks = s.oarlocks := rfl
@[simp] theorem State.onHeat_sweeps (s : State) (h : Fin 64) (f : Heat → Heat) : (s.onHeat h f).sweeps = s.sweeps := rfl
@[simp] theorem State.onHeat_telem (s : State) (h : Fin 64) (f : Heat → Heat) : (s.onHeat h f).telem = s.telem := rfl
@[simp] theorem State.onHeat_peers (s : State) (h : Fin 64) (f : Heat → Heat) : (s.onHeat h f).peers = s.peers := rfl
@[simp] theorem State.onHeat_peersFull (s : State) (h : Fin 64) (f : Heat → Heat) : (s.onHeat h f).peersFull = s.peersFull := rfl
@[simp] theorem State.onHeat_heldFrames (s : State) (h : Fin 64) (f : Heat → Heat) : (s.onHeat h f).heldFrames = s.heldFrames := rfl
@[simp] theorem State.onHeat_linkTraining (s : State) (h : Fin 64) (f : Heat → Heat) : (s.onHeat h f).linkTraining = s.linkTraining := rfl
@[simp] theorem State.onHeat_tags (s : State) (h : Fin 64) (f : Heat → Heat) : (s.onHeat h f).tags = s.tags := rfl
@[simp] theorem State.onHeat_collectives (s : State) (h : Fin 64) (f : Heat → Heat) : (s.onHeat h f).collectives = s.collectives := rfl
@[simp] theorem State.onHeat_pools (s : State) (h : Fin 64) (f : Heat → Heat) : (s.onHeat h f).pools = s.pools := rfl
@[simp] theorem State.onHeat_unsent (s : State) (h : Fin 64) (f : Heat → Heat) : (s.onHeat h f).unsent = s.unsent := rfl
@[simp] theorem State.onHeat_slipways (s : State) (h : Fin 64) (f : Heat → Heat) : (s.onHeat h f).slipways = s.slipways := rfl
@[simp] theorem State.onHeat_signer (s : State) (h : Fin 64) (f : Heat → Heat) : (s.onHeat h f).signer = s.signer := rfl
@[simp] theorem State.onHeat_keys (s : State) (h : Fin 64) (f : Heat → Heat) : (s.onHeat h f).keys = s.keys := rfl
@[simp] theorem State.onHeat_flashWrites (s : State) (h : Fin 64) (f : Heat → Heat) : (s.onHeat h f).flashWrites = s.flashWrites := rfl
@[simp] theorem State.onHeat_retrainLeft (s : State) (h : Fin 64) (f : Heat → Heat) : (s.onHeat h f).retrainLeft = s.retrainLeft := rfl
@[simp] theorem State.onHeat_rings (s : State) (h : Fin 64) (f : Heat → Heat) : (s.onHeat h f).rings = s.rings := rfl
@[simp] theorem State.onHeat_serviceCount (s : State) (h : Fin 64) (f : Heat → Heat) : (s.onHeat h f).serviceCount = s.serviceCount := rfl
@[simp] theorem State.onHeat_moveCount (s : State) (h : Fin 64) (f : Heat → Heat) : (s.onHeat h f).moveCount = s.moveCount := rfl
@[simp] theorem State.onHeat_trust (s : State) (h : Fin 64) (f : Heat → Heat) : (s.onHeat h f).trust = s.trust := rfl
@[simp] theorem State.onHeat_parts (s : State) (h : Fin 64) (f : Heat → Heat) : (s.onHeat h f).parts = s.parts := rfl
@[simp] theorem State.onHeat_boot (s : State) (h : Fin 64) (f : Heat → Heat) : (s.onHeat h f).boot = s.boot := rfl
@[simp] theorem State.onHeat_pacer (s : State) (h : Fin 64) (f : Heat → Heat) : (s.onHeat h f).pacer = s.pacer := rfl
@[simp] theorem State.onHeat_seat (s : State) (h : Fin 64) (f : Heat → Heat) : (s.onHeat h f).seat = s.seat := rfl
@[simp] theorem State.onHeat_sigDump (s : State) (h : Fin 64) (f : Heat → Heat) : (s.onHeat h f).sigDump = s.sigDump := rfl
@[simp] theorem State.onHeat_xefin (s : State) (h : Fin 64) (f : Heat → Heat) : (s.onHeat h f).xefin = s.xefin := rfl
@[simp] theorem State.onHeat_power (s : State) (h : Fin 64) (f : Heat → Heat) : (s.onHeat h f).power = s.power := rfl

/-! `State.onLane` -/

@[simp] theorem State.onLane_pending (s : State) (h : Fin 64) (l : Fin 4) (f : Lane → Lane) : (s.onLane h l f).pending = s.pending := rfl
@[simp] theorem State.onLane_dict (s : State) (h : Fin 64) (l : Fin 4) (f : Lane → Lane) : (s.onLane h l f).dict = s.dict := rfl
@[simp] theorem State.onLane_blobs (s : State) (h : Fin 64) (l : Fin 4) (f : Lane → Lane) : (s.onLane h l f).blobs = s.blobs := rfl
@[simp] theorem State.onLane_mem (s : State) (h : Fin 64) (l : Fin 4) (f : Lane → Lane) : (s.onLane h l f).mem = s.mem := rfl
@[simp] theorem State.onLane_draws (s : State) (h : Fin 64) (l : Fin 4) (f : Lane → Lane) : (s.onLane h l f).draws = s.draws := rfl
@[simp] theorem State.onLane_out (s : State) (h : Fin 64) (l : Fin 4) (f : Lane → Lane) : (s.onLane h l f).out = s.out := rfl
@[simp] theorem State.onLane_bladeMap (s : State) (h : Fin 64) (l : Fin 4) (f : Lane → Lane) : (s.onLane h l f).bladeMap = s.bladeMap := rfl
@[simp] theorem State.onLane_clock (s : State) (h : Fin 64) (l : Fin 4) (f : Lane → Lane) : (s.onLane h l f).clock = s.clock := rfl
@[simp] theorem State.onLane_log (s : State) (h : Fin 64) (l : Fin 4) (f : Lane → Lane) : (s.onLane h l f).log = s.log := rfl
@[simp] theorem State.onLane_ergs (s : State) (h : Fin 64) (l : Fin 4) (f : Lane → Lane) : (s.onLane h l f).ergs = s.ergs := rfl
@[simp] theorem State.onLane_capture (s : State) (h : Fin 64) (l : Fin 4) (f : Lane → Lane) : (s.onLane h l f).capture = s.capture := rfl
@[simp] theorem State.onLane_crews (s : State) (h : Fin 64) (l : Fin 4) (f : Lane → Lane) : (s.onLane h l f).crews = s.crews := rfl
@[simp] theorem State.onLane_blades (s : State) (h : Fin 64) (l : Fin 4) (f : Lane → Lane) : (s.onLane h l f).blades = s.blades := rfl
@[simp] theorem State.onLane_sculls (s : State) (h : Fin 64) (l : Fin 4) (f : Lane → Lane) : (s.onLane h l f).sculls = s.sculls := rfl
@[simp] theorem State.onLane_engines (s : State) (h : Fin 64) (l : Fin 4) (f : Lane → Lane) : (s.onLane h l f).engines = s.engines := rfl
@[simp] theorem State.onLane_relayQueues (s : State) (h : Fin 64) (l : Fin 4) (f : Lane → Lane) : (s.onLane h l f).relayQueues = s.relayQueues := rfl
@[simp] theorem State.onLane_marshal (s : State) (h : Fin 64) (l : Fin 4) (f : Lane → Lane) : (s.onLane h l f).marshal = s.marshal := rfl
@[simp] theorem State.onLane_regions (s : State) (h : Fin 64) (l : Fin 4) (f : Lane → Lane) : (s.onLane h l f).regions = s.regions := rfl
@[simp] theorem State.onLane_channels (s : State) (h : Fin 64) (l : Fin 4) (f : Lane → Lane) : (s.onLane h l f).channels = s.channels := rfl
@[simp] theorem State.onLane_hbmStacks (s : State) (h : Fin 64) (l : Fin 4) (f : Lane → Lane) : (s.onLane h l f).hbmStacks = s.hbmStacks := rfl
@[simp] theorem State.onLane_dies (s : State) (h : Fin 64) (l : Fin 4) (f : Lane → Lane) : (s.onLane h l f).dies = s.dies := rfl
@[simp] theorem State.onLane_retrainNext (s : State) (h : Fin 64) (l : Fin 4) (f : Lane → Lane) : (s.onLane h l f).retrainNext = s.retrainNext := rfl
@[simp] theorem State.onLane_scullRuns (s : State) (h : Fin 64) (l : Fin 4) (f : Lane → Lane) : (s.onLane h l f).scullRuns = s.scullRuns := rfl
@[simp] theorem State.onLane_oarlocks (s : State) (h : Fin 64) (l : Fin 4) (f : Lane → Lane) : (s.onLane h l f).oarlocks = s.oarlocks := rfl
@[simp] theorem State.onLane_sweeps (s : State) (h : Fin 64) (l : Fin 4) (f : Lane → Lane) : (s.onLane h l f).sweeps = s.sweeps := rfl
@[simp] theorem State.onLane_telem (s : State) (h : Fin 64) (l : Fin 4) (f : Lane → Lane) : (s.onLane h l f).telem = s.telem := rfl
@[simp] theorem State.onLane_peers (s : State) (h : Fin 64) (l : Fin 4) (f : Lane → Lane) : (s.onLane h l f).peers = s.peers := rfl
@[simp] theorem State.onLane_peersFull (s : State) (h : Fin 64) (l : Fin 4) (f : Lane → Lane) : (s.onLane h l f).peersFull = s.peersFull := rfl
@[simp] theorem State.onLane_heldFrames (s : State) (h : Fin 64) (l : Fin 4) (f : Lane → Lane) : (s.onLane h l f).heldFrames = s.heldFrames := rfl
@[simp] theorem State.onLane_linkTraining (s : State) (h : Fin 64) (l : Fin 4) (f : Lane → Lane) : (s.onLane h l f).linkTraining = s.linkTraining := rfl
@[simp] theorem State.onLane_tags (s : State) (h : Fin 64) (l : Fin 4) (f : Lane → Lane) : (s.onLane h l f).tags = s.tags := rfl
@[simp] theorem State.onLane_collectives (s : State) (h : Fin 64) (l : Fin 4) (f : Lane → Lane) : (s.onLane h l f).collectives = s.collectives := rfl
@[simp] theorem State.onLane_pools (s : State) (h : Fin 64) (l : Fin 4) (f : Lane → Lane) : (s.onLane h l f).pools = s.pools := rfl
@[simp] theorem State.onLane_unsent (s : State) (h : Fin 64) (l : Fin 4) (f : Lane → Lane) : (s.onLane h l f).unsent = s.unsent := rfl
@[simp] theorem State.onLane_slipways (s : State) (h : Fin 64) (l : Fin 4) (f : Lane → Lane) : (s.onLane h l f).slipways = s.slipways := rfl
@[simp] theorem State.onLane_signer (s : State) (h : Fin 64) (l : Fin 4) (f : Lane → Lane) : (s.onLane h l f).signer = s.signer := rfl
@[simp] theorem State.onLane_keys (s : State) (h : Fin 64) (l : Fin 4) (f : Lane → Lane) : (s.onLane h l f).keys = s.keys := rfl
@[simp] theorem State.onLane_flashWrites (s : State) (h : Fin 64) (l : Fin 4) (f : Lane → Lane) : (s.onLane h l f).flashWrites = s.flashWrites := rfl
@[simp] theorem State.onLane_retrainLeft (s : State) (h : Fin 64) (l : Fin 4) (f : Lane → Lane) : (s.onLane h l f).retrainLeft = s.retrainLeft := rfl
@[simp] theorem State.onLane_rings (s : State) (h : Fin 64) (l : Fin 4) (f : Lane → Lane) : (s.onLane h l f).rings = s.rings := rfl
@[simp] theorem State.onLane_serviceCount (s : State) (h : Fin 64) (l : Fin 4) (f : Lane → Lane) : (s.onLane h l f).serviceCount = s.serviceCount := rfl
@[simp] theorem State.onLane_moveCount (s : State) (h : Fin 64) (l : Fin 4) (f : Lane → Lane) : (s.onLane h l f).moveCount = s.moveCount := rfl
@[simp] theorem State.onLane_trust (s : State) (h : Fin 64) (l : Fin 4) (f : Lane → Lane) : (s.onLane h l f).trust = s.trust := rfl
@[simp] theorem State.onLane_parts (s : State) (h : Fin 64) (l : Fin 4) (f : Lane → Lane) : (s.onLane h l f).parts = s.parts := rfl
@[simp] theorem State.onLane_boot (s : State) (h : Fin 64) (l : Fin 4) (f : Lane → Lane) : (s.onLane h l f).boot = s.boot := rfl
@[simp] theorem State.onLane_pacer (s : State) (h : Fin 64) (l : Fin 4) (f : Lane → Lane) : (s.onLane h l f).pacer = s.pacer := rfl
@[simp] theorem State.onLane_seat (s : State) (h : Fin 64) (l : Fin 4) (f : Lane → Lane) : (s.onLane h l f).seat = s.seat := rfl
@[simp] theorem State.onLane_sigDump (s : State) (h : Fin 64) (l : Fin 4) (f : Lane → Lane) : (s.onLane h l f).sigDump = s.sigDump := rfl
@[simp] theorem State.onLane_xefin (s : State) (h : Fin 64) (l : Fin 4) (f : Lane → Lane) : (s.onLane h l f).xefin = s.xefin := rfl
@[simp] theorem State.onLane_power (s : State) (h : Fin 64) (l : Fin 4) (f : Lane → Lane) : (s.onLane h l f).power = s.power := rfl

/-! `State.onBlade` -/

@[simp] theorem State.onBlade_pending (s : State) (n : Fin 4) (f : Blade → Blade) : (s.onBlade n f).pending = s.pending := rfl
@[simp] theorem State.onBlade_dict (s : State) (n : Fin 4) (f : Blade → Blade) : (s.onBlade n f).dict = s.dict := rfl
@[simp] theorem State.onBlade_blobs (s : State) (n : Fin 4) (f : Blade → Blade) : (s.onBlade n f).blobs = s.blobs := rfl
@[simp] theorem State.onBlade_mem (s : State) (n : Fin 4) (f : Blade → Blade) : (s.onBlade n f).mem = s.mem := rfl
@[simp] theorem State.onBlade_draws (s : State) (n : Fin 4) (f : Blade → Blade) : (s.onBlade n f).draws = s.draws := rfl
@[simp] theorem State.onBlade_out (s : State) (n : Fin 4) (f : Blade → Blade) : (s.onBlade n f).out = s.out := rfl
@[simp] theorem State.onBlade_bladeMap (s : State) (n : Fin 4) (f : Blade → Blade) : (s.onBlade n f).bladeMap = s.bladeMap := rfl
@[simp] theorem State.onBlade_clock (s : State) (n : Fin 4) (f : Blade → Blade) : (s.onBlade n f).clock = s.clock := rfl
@[simp] theorem State.onBlade_log (s : State) (n : Fin 4) (f : Blade → Blade) : (s.onBlade n f).log = s.log := rfl
@[simp] theorem State.onBlade_ergs (s : State) (n : Fin 4) (f : Blade → Blade) : (s.onBlade n f).ergs = s.ergs := rfl
@[simp] theorem State.onBlade_capture (s : State) (n : Fin 4) (f : Blade → Blade) : (s.onBlade n f).capture = s.capture := rfl
@[simp] theorem State.onBlade_heats (s : State) (n : Fin 4) (f : Blade → Blade) : (s.onBlade n f).heats = s.heats := rfl
@[simp] theorem State.onBlade_crews (s : State) (n : Fin 4) (f : Blade → Blade) : (s.onBlade n f).crews = s.crews := rfl
@[simp] theorem State.onBlade_sculls (s : State) (n : Fin 4) (f : Blade → Blade) : (s.onBlade n f).sculls = s.sculls := rfl
@[simp] theorem State.onBlade_engines (s : State) (n : Fin 4) (f : Blade → Blade) : (s.onBlade n f).engines = s.engines := rfl
@[simp] theorem State.onBlade_relayQueues (s : State) (n : Fin 4) (f : Blade → Blade) : (s.onBlade n f).relayQueues = s.relayQueues := rfl
@[simp] theorem State.onBlade_marshal (s : State) (n : Fin 4) (f : Blade → Blade) : (s.onBlade n f).marshal = s.marshal := rfl
@[simp] theorem State.onBlade_regions (s : State) (n : Fin 4) (f : Blade → Blade) : (s.onBlade n f).regions = s.regions := rfl
@[simp] theorem State.onBlade_channels (s : State) (n : Fin 4) (f : Blade → Blade) : (s.onBlade n f).channels = s.channels := rfl
@[simp] theorem State.onBlade_hbmStacks (s : State) (n : Fin 4) (f : Blade → Blade) : (s.onBlade n f).hbmStacks = s.hbmStacks := rfl
@[simp] theorem State.onBlade_dies (s : State) (n : Fin 4) (f : Blade → Blade) : (s.onBlade n f).dies = s.dies := rfl
@[simp] theorem State.onBlade_retrainNext (s : State) (n : Fin 4) (f : Blade → Blade) : (s.onBlade n f).retrainNext = s.retrainNext := rfl
@[simp] theorem State.onBlade_scullRuns (s : State) (n : Fin 4) (f : Blade → Blade) : (s.onBlade n f).scullRuns = s.scullRuns := rfl
@[simp] theorem State.onBlade_oarlocks (s : State) (n : Fin 4) (f : Blade → Blade) : (s.onBlade n f).oarlocks = s.oarlocks := rfl
@[simp] theorem State.onBlade_sweeps (s : State) (n : Fin 4) (f : Blade → Blade) : (s.onBlade n f).sweeps = s.sweeps := rfl
@[simp] theorem State.onBlade_telem (s : State) (n : Fin 4) (f : Blade → Blade) : (s.onBlade n f).telem = s.telem := rfl
@[simp] theorem State.onBlade_peers (s : State) (n : Fin 4) (f : Blade → Blade) : (s.onBlade n f).peers = s.peers := rfl
@[simp] theorem State.onBlade_peersFull (s : State) (n : Fin 4) (f : Blade → Blade) : (s.onBlade n f).peersFull = s.peersFull := rfl
@[simp] theorem State.onBlade_heldFrames (s : State) (n : Fin 4) (f : Blade → Blade) : (s.onBlade n f).heldFrames = s.heldFrames := rfl
@[simp] theorem State.onBlade_linkTraining (s : State) (n : Fin 4) (f : Blade → Blade) : (s.onBlade n f).linkTraining = s.linkTraining := rfl
@[simp] theorem State.onBlade_tags (s : State) (n : Fin 4) (f : Blade → Blade) : (s.onBlade n f).tags = s.tags := rfl
@[simp] theorem State.onBlade_collectives (s : State) (n : Fin 4) (f : Blade → Blade) : (s.onBlade n f).collectives = s.collectives := rfl
@[simp] theorem State.onBlade_pools (s : State) (n : Fin 4) (f : Blade → Blade) : (s.onBlade n f).pools = s.pools := rfl
@[simp] theorem State.onBlade_unsent (s : State) (n : Fin 4) (f : Blade → Blade) : (s.onBlade n f).unsent = s.unsent := rfl
@[simp] theorem State.onBlade_slipways (s : State) (n : Fin 4) (f : Blade → Blade) : (s.onBlade n f).slipways = s.slipways := rfl
@[simp] theorem State.onBlade_signer (s : State) (n : Fin 4) (f : Blade → Blade) : (s.onBlade n f).signer = s.signer := rfl
@[simp] theorem State.onBlade_keys (s : State) (n : Fin 4) (f : Blade → Blade) : (s.onBlade n f).keys = s.keys := rfl
@[simp] theorem State.onBlade_flashWrites (s : State) (n : Fin 4) (f : Blade → Blade) : (s.onBlade n f).flashWrites = s.flashWrites := rfl
@[simp] theorem State.onBlade_retrainLeft (s : State) (n : Fin 4) (f : Blade → Blade) : (s.onBlade n f).retrainLeft = s.retrainLeft := rfl
@[simp] theorem State.onBlade_rings (s : State) (n : Fin 4) (f : Blade → Blade) : (s.onBlade n f).rings = s.rings := rfl
@[simp] theorem State.onBlade_serviceCount (s : State) (n : Fin 4) (f : Blade → Blade) : (s.onBlade n f).serviceCount = s.serviceCount := rfl
@[simp] theorem State.onBlade_moveCount (s : State) (n : Fin 4) (f : Blade → Blade) : (s.onBlade n f).moveCount = s.moveCount := rfl
@[simp] theorem State.onBlade_trust (s : State) (n : Fin 4) (f : Blade → Blade) : (s.onBlade n f).trust = s.trust := rfl
@[simp] theorem State.onBlade_parts (s : State) (n : Fin 4) (f : Blade → Blade) : (s.onBlade n f).parts = s.parts := rfl
@[simp] theorem State.onBlade_boot (s : State) (n : Fin 4) (f : Blade → Blade) : (s.onBlade n f).boot = s.boot := rfl
@[simp] theorem State.onBlade_pacer (s : State) (n : Fin 4) (f : Blade → Blade) : (s.onBlade n f).pacer = s.pacer := rfl
@[simp] theorem State.onBlade_seat (s : State) (n : Fin 4) (f : Blade → Blade) : (s.onBlade n f).seat = s.seat := rfl
@[simp] theorem State.onBlade_sigDump (s : State) (n : Fin 4) (f : Blade → Blade) : (s.onBlade n f).sigDump = s.sigDump := rfl
@[simp] theorem State.onBlade_xefin (s : State) (n : Fin 4) (f : Blade → Blade) : (s.onBlade n f).xefin = s.xefin := rfl
@[simp] theorem State.onBlade_power (s : State) (n : Fin 4) (f : Blade → Blade) : (s.onBlade n f).power = s.power := rfl

/-! `State.onCrew` -/

@[simp] theorem State.onCrew_pending (s : State) (c : Fin 4) (f : Crew → Crew) : (s.onCrew c f).pending = s.pending := rfl
@[simp] theorem State.onCrew_dict (s : State) (c : Fin 4) (f : Crew → Crew) : (s.onCrew c f).dict = s.dict := rfl
@[simp] theorem State.onCrew_blobs (s : State) (c : Fin 4) (f : Crew → Crew) : (s.onCrew c f).blobs = s.blobs := rfl
@[simp] theorem State.onCrew_mem (s : State) (c : Fin 4) (f : Crew → Crew) : (s.onCrew c f).mem = s.mem := rfl
@[simp] theorem State.onCrew_draws (s : State) (c : Fin 4) (f : Crew → Crew) : (s.onCrew c f).draws = s.draws := rfl
@[simp] theorem State.onCrew_out (s : State) (c : Fin 4) (f : Crew → Crew) : (s.onCrew c f).out = s.out := rfl
@[simp] theorem State.onCrew_bladeMap (s : State) (c : Fin 4) (f : Crew → Crew) : (s.onCrew c f).bladeMap = s.bladeMap := rfl
@[simp] theorem State.onCrew_clock (s : State) (c : Fin 4) (f : Crew → Crew) : (s.onCrew c f).clock = s.clock := rfl
@[simp] theorem State.onCrew_log (s : State) (c : Fin 4) (f : Crew → Crew) : (s.onCrew c f).log = s.log := rfl
@[simp] theorem State.onCrew_ergs (s : State) (c : Fin 4) (f : Crew → Crew) : (s.onCrew c f).ergs = s.ergs := rfl
@[simp] theorem State.onCrew_capture (s : State) (c : Fin 4) (f : Crew → Crew) : (s.onCrew c f).capture = s.capture := rfl
@[simp] theorem State.onCrew_heats (s : State) (c : Fin 4) (f : Crew → Crew) : (s.onCrew c f).heats = s.heats := rfl
@[simp] theorem State.onCrew_blades (s : State) (c : Fin 4) (f : Crew → Crew) : (s.onCrew c f).blades = s.blades := rfl
@[simp] theorem State.onCrew_sculls (s : State) (c : Fin 4) (f : Crew → Crew) : (s.onCrew c f).sculls = s.sculls := rfl
@[simp] theorem State.onCrew_engines (s : State) (c : Fin 4) (f : Crew → Crew) : (s.onCrew c f).engines = s.engines := rfl
@[simp] theorem State.onCrew_relayQueues (s : State) (c : Fin 4) (f : Crew → Crew) : (s.onCrew c f).relayQueues = s.relayQueues := rfl
@[simp] theorem State.onCrew_marshal (s : State) (c : Fin 4) (f : Crew → Crew) : (s.onCrew c f).marshal = s.marshal := rfl
@[simp] theorem State.onCrew_regions (s : State) (c : Fin 4) (f : Crew → Crew) : (s.onCrew c f).regions = s.regions := rfl
@[simp] theorem State.onCrew_channels (s : State) (c : Fin 4) (f : Crew → Crew) : (s.onCrew c f).channels = s.channels := rfl
@[simp] theorem State.onCrew_hbmStacks (s : State) (c : Fin 4) (f : Crew → Crew) : (s.onCrew c f).hbmStacks = s.hbmStacks := rfl
@[simp] theorem State.onCrew_dies (s : State) (c : Fin 4) (f : Crew → Crew) : (s.onCrew c f).dies = s.dies := rfl
@[simp] theorem State.onCrew_retrainNext (s : State) (c : Fin 4) (f : Crew → Crew) : (s.onCrew c f).retrainNext = s.retrainNext := rfl
@[simp] theorem State.onCrew_scullRuns (s : State) (c : Fin 4) (f : Crew → Crew) : (s.onCrew c f).scullRuns = s.scullRuns := rfl
@[simp] theorem State.onCrew_oarlocks (s : State) (c : Fin 4) (f : Crew → Crew) : (s.onCrew c f).oarlocks = s.oarlocks := rfl
@[simp] theorem State.onCrew_sweeps (s : State) (c : Fin 4) (f : Crew → Crew) : (s.onCrew c f).sweeps = s.sweeps := rfl
@[simp] theorem State.onCrew_telem (s : State) (c : Fin 4) (f : Crew → Crew) : (s.onCrew c f).telem = s.telem := rfl
@[simp] theorem State.onCrew_peers (s : State) (c : Fin 4) (f : Crew → Crew) : (s.onCrew c f).peers = s.peers := rfl
@[simp] theorem State.onCrew_peersFull (s : State) (c : Fin 4) (f : Crew → Crew) : (s.onCrew c f).peersFull = s.peersFull := rfl
@[simp] theorem State.onCrew_heldFrames (s : State) (c : Fin 4) (f : Crew → Crew) : (s.onCrew c f).heldFrames = s.heldFrames := rfl
@[simp] theorem State.onCrew_linkTraining (s : State) (c : Fin 4) (f : Crew → Crew) : (s.onCrew c f).linkTraining = s.linkTraining := rfl
@[simp] theorem State.onCrew_tags (s : State) (c : Fin 4) (f : Crew → Crew) : (s.onCrew c f).tags = s.tags := rfl
@[simp] theorem State.onCrew_collectives (s : State) (c : Fin 4) (f : Crew → Crew) : (s.onCrew c f).collectives = s.collectives := rfl
@[simp] theorem State.onCrew_pools (s : State) (c : Fin 4) (f : Crew → Crew) : (s.onCrew c f).pools = s.pools := rfl
@[simp] theorem State.onCrew_unsent (s : State) (c : Fin 4) (f : Crew → Crew) : (s.onCrew c f).unsent = s.unsent := rfl
@[simp] theorem State.onCrew_slipways (s : State) (c : Fin 4) (f : Crew → Crew) : (s.onCrew c f).slipways = s.slipways := rfl
@[simp] theorem State.onCrew_signer (s : State) (c : Fin 4) (f : Crew → Crew) : (s.onCrew c f).signer = s.signer := rfl
@[simp] theorem State.onCrew_keys (s : State) (c : Fin 4) (f : Crew → Crew) : (s.onCrew c f).keys = s.keys := rfl
@[simp] theorem State.onCrew_flashWrites (s : State) (c : Fin 4) (f : Crew → Crew) : (s.onCrew c f).flashWrites = s.flashWrites := rfl
@[simp] theorem State.onCrew_retrainLeft (s : State) (c : Fin 4) (f : Crew → Crew) : (s.onCrew c f).retrainLeft = s.retrainLeft := rfl
@[simp] theorem State.onCrew_rings (s : State) (c : Fin 4) (f : Crew → Crew) : (s.onCrew c f).rings = s.rings := rfl
@[simp] theorem State.onCrew_serviceCount (s : State) (c : Fin 4) (f : Crew → Crew) : (s.onCrew c f).serviceCount = s.serviceCount := rfl
@[simp] theorem State.onCrew_moveCount (s : State) (c : Fin 4) (f : Crew → Crew) : (s.onCrew c f).moveCount = s.moveCount := rfl
@[simp] theorem State.onCrew_trust (s : State) (c : Fin 4) (f : Crew → Crew) : (s.onCrew c f).trust = s.trust := rfl
@[simp] theorem State.onCrew_parts (s : State) (c : Fin 4) (f : Crew → Crew) : (s.onCrew c f).parts = s.parts := rfl
@[simp] theorem State.onCrew_boot (s : State) (c : Fin 4) (f : Crew → Crew) : (s.onCrew c f).boot = s.boot := rfl
@[simp] theorem State.onCrew_pacer (s : State) (c : Fin 4) (f : Crew → Crew) : (s.onCrew c f).pacer = s.pacer := rfl
@[simp] theorem State.onCrew_seat (s : State) (c : Fin 4) (f : Crew → Crew) : (s.onCrew c f).seat = s.seat := rfl
@[simp] theorem State.onCrew_sigDump (s : State) (c : Fin 4) (f : Crew → Crew) : (s.onCrew c f).sigDump = s.sigDump := rfl
@[simp] theorem State.onCrew_xefin (s : State) (c : Fin 4) (f : Crew → Crew) : (s.onCrew c f).xefin = s.xefin := rfl
@[simp] theorem State.onCrew_power (s : State) (c : Fin 4) (f : Crew → Crew) : (s.onCrew c f).power = s.power := rfl

/-! `State.onDie` -/

@[simp] theorem State.onDie_pending (s : State) (d : Fin 2) (f : Die → Die) : (s.onDie d f).pending = s.pending := rfl
@[simp] theorem State.onDie_dict (s : State) (d : Fin 2) (f : Die → Die) : (s.onDie d f).dict = s.dict := rfl
@[simp] theorem State.onDie_blobs (s : State) (d : Fin 2) (f : Die → Die) : (s.onDie d f).blobs = s.blobs := rfl
@[simp] theorem State.onDie_mem (s : State) (d : Fin 2) (f : Die → Die) : (s.onDie d f).mem = s.mem := rfl
@[simp] theorem State.onDie_draws (s : State) (d : Fin 2) (f : Die → Die) : (s.onDie d f).draws = s.draws := rfl
@[simp] theorem State.onDie_out (s : State) (d : Fin 2) (f : Die → Die) : (s.onDie d f).out = s.out := rfl
@[simp] theorem State.onDie_bladeMap (s : State) (d : Fin 2) (f : Die → Die) : (s.onDie d f).bladeMap = s.bladeMap := rfl
@[simp] theorem State.onDie_clock (s : State) (d : Fin 2) (f : Die → Die) : (s.onDie d f).clock = s.clock := rfl
@[simp] theorem State.onDie_log (s : State) (d : Fin 2) (f : Die → Die) : (s.onDie d f).log = s.log := rfl
@[simp] theorem State.onDie_ergs (s : State) (d : Fin 2) (f : Die → Die) : (s.onDie d f).ergs = s.ergs := rfl
@[simp] theorem State.onDie_capture (s : State) (d : Fin 2) (f : Die → Die) : (s.onDie d f).capture = s.capture := rfl
@[simp] theorem State.onDie_heats (s : State) (d : Fin 2) (f : Die → Die) : (s.onDie d f).heats = s.heats := rfl
@[simp] theorem State.onDie_crews (s : State) (d : Fin 2) (f : Die → Die) : (s.onDie d f).crews = s.crews := rfl
@[simp] theorem State.onDie_blades (s : State) (d : Fin 2) (f : Die → Die) : (s.onDie d f).blades = s.blades := rfl
@[simp] theorem State.onDie_sculls (s : State) (d : Fin 2) (f : Die → Die) : (s.onDie d f).sculls = s.sculls := rfl
@[simp] theorem State.onDie_engines (s : State) (d : Fin 2) (f : Die → Die) : (s.onDie d f).engines = s.engines := rfl
@[simp] theorem State.onDie_relayQueues (s : State) (d : Fin 2) (f : Die → Die) : (s.onDie d f).relayQueues = s.relayQueues := rfl
@[simp] theorem State.onDie_marshal (s : State) (d : Fin 2) (f : Die → Die) : (s.onDie d f).marshal = s.marshal := rfl
@[simp] theorem State.onDie_regions (s : State) (d : Fin 2) (f : Die → Die) : (s.onDie d f).regions = s.regions := rfl
@[simp] theorem State.onDie_channels (s : State) (d : Fin 2) (f : Die → Die) : (s.onDie d f).channels = s.channels := rfl
@[simp] theorem State.onDie_hbmStacks (s : State) (d : Fin 2) (f : Die → Die) : (s.onDie d f).hbmStacks = s.hbmStacks := rfl
@[simp] theorem State.onDie_retrainNext (s : State) (d : Fin 2) (f : Die → Die) : (s.onDie d f).retrainNext = s.retrainNext := rfl
@[simp] theorem State.onDie_scullRuns (s : State) (d : Fin 2) (f : Die → Die) : (s.onDie d f).scullRuns = s.scullRuns := rfl
@[simp] theorem State.onDie_oarlocks (s : State) (d : Fin 2) (f : Die → Die) : (s.onDie d f).oarlocks = s.oarlocks := rfl
@[simp] theorem State.onDie_sweeps (s : State) (d : Fin 2) (f : Die → Die) : (s.onDie d f).sweeps = s.sweeps := rfl
@[simp] theorem State.onDie_telem (s : State) (d : Fin 2) (f : Die → Die) : (s.onDie d f).telem = s.telem := rfl
@[simp] theorem State.onDie_peers (s : State) (d : Fin 2) (f : Die → Die) : (s.onDie d f).peers = s.peers := rfl
@[simp] theorem State.onDie_peersFull (s : State) (d : Fin 2) (f : Die → Die) : (s.onDie d f).peersFull = s.peersFull := rfl
@[simp] theorem State.onDie_heldFrames (s : State) (d : Fin 2) (f : Die → Die) : (s.onDie d f).heldFrames = s.heldFrames := rfl
@[simp] theorem State.onDie_linkTraining (s : State) (d : Fin 2) (f : Die → Die) : (s.onDie d f).linkTraining = s.linkTraining := rfl
@[simp] theorem State.onDie_tags (s : State) (d : Fin 2) (f : Die → Die) : (s.onDie d f).tags = s.tags := rfl
@[simp] theorem State.onDie_collectives (s : State) (d : Fin 2) (f : Die → Die) : (s.onDie d f).collectives = s.collectives := rfl
@[simp] theorem State.onDie_pools (s : State) (d : Fin 2) (f : Die → Die) : (s.onDie d f).pools = s.pools := rfl
@[simp] theorem State.onDie_unsent (s : State) (d : Fin 2) (f : Die → Die) : (s.onDie d f).unsent = s.unsent := rfl
@[simp] theorem State.onDie_slipways (s : State) (d : Fin 2) (f : Die → Die) : (s.onDie d f).slipways = s.slipways := rfl
@[simp] theorem State.onDie_signer (s : State) (d : Fin 2) (f : Die → Die) : (s.onDie d f).signer = s.signer := rfl
@[simp] theorem State.onDie_keys (s : State) (d : Fin 2) (f : Die → Die) : (s.onDie d f).keys = s.keys := rfl
@[simp] theorem State.onDie_flashWrites (s : State) (d : Fin 2) (f : Die → Die) : (s.onDie d f).flashWrites = s.flashWrites := rfl
@[simp] theorem State.onDie_retrainLeft (s : State) (d : Fin 2) (f : Die → Die) : (s.onDie d f).retrainLeft = s.retrainLeft := rfl
@[simp] theorem State.onDie_rings (s : State) (d : Fin 2) (f : Die → Die) : (s.onDie d f).rings = s.rings := rfl
@[simp] theorem State.onDie_serviceCount (s : State) (d : Fin 2) (f : Die → Die) : (s.onDie d f).serviceCount = s.serviceCount := rfl
@[simp] theorem State.onDie_moveCount (s : State) (d : Fin 2) (f : Die → Die) : (s.onDie d f).moveCount = s.moveCount := rfl
@[simp] theorem State.onDie_trust (s : State) (d : Fin 2) (f : Die → Die) : (s.onDie d f).trust = s.trust := rfl
@[simp] theorem State.onDie_parts (s : State) (d : Fin 2) (f : Die → Die) : (s.onDie d f).parts = s.parts := rfl
@[simp] theorem State.onDie_boot (s : State) (d : Fin 2) (f : Die → Die) : (s.onDie d f).boot = s.boot := rfl
@[simp] theorem State.onDie_pacer (s : State) (d : Fin 2) (f : Die → Die) : (s.onDie d f).pacer = s.pacer := rfl
@[simp] theorem State.onDie_seat (s : State) (d : Fin 2) (f : Die → Die) : (s.onDie d f).seat = s.seat := rfl
@[simp] theorem State.onDie_sigDump (s : State) (d : Fin 2) (f : Die → Die) : (s.onDie d f).sigDump = s.sigDump := rfl
@[simp] theorem State.onDie_xefin (s : State) (d : Fin 2) (f : Die → Die) : (s.onDie d f).xefin = s.xefin := rfl
@[simp] theorem State.onDie_power (s : State) (d : Fin 2) (f : Die → Die) : (s.onDie d f).power = s.power := rfl

/-! `State.onRegion` -/

@[simp] theorem State.onRegion_pending (s : State) (r : Fin 64) (f : Region → Region) : (s.onRegion r f).pending = s.pending := rfl
@[simp] theorem State.onRegion_dict (s : State) (r : Fin 64) (f : Region → Region) : (s.onRegion r f).dict = s.dict := rfl
@[simp] theorem State.onRegion_blobs (s : State) (r : Fin 64) (f : Region → Region) : (s.onRegion r f).blobs = s.blobs := rfl
@[simp] theorem State.onRegion_mem (s : State) (r : Fin 64) (f : Region → Region) : (s.onRegion r f).mem = s.mem := rfl
@[simp] theorem State.onRegion_draws (s : State) (r : Fin 64) (f : Region → Region) : (s.onRegion r f).draws = s.draws := rfl
@[simp] theorem State.onRegion_out (s : State) (r : Fin 64) (f : Region → Region) : (s.onRegion r f).out = s.out := rfl
@[simp] theorem State.onRegion_bladeMap (s : State) (r : Fin 64) (f : Region → Region) : (s.onRegion r f).bladeMap = s.bladeMap := rfl
@[simp] theorem State.onRegion_clock (s : State) (r : Fin 64) (f : Region → Region) : (s.onRegion r f).clock = s.clock := rfl
@[simp] theorem State.onRegion_log (s : State) (r : Fin 64) (f : Region → Region) : (s.onRegion r f).log = s.log := rfl
@[simp] theorem State.onRegion_ergs (s : State) (r : Fin 64) (f : Region → Region) : (s.onRegion r f).ergs = s.ergs := rfl
@[simp] theorem State.onRegion_capture (s : State) (r : Fin 64) (f : Region → Region) : (s.onRegion r f).capture = s.capture := rfl
@[simp] theorem State.onRegion_heats (s : State) (r : Fin 64) (f : Region → Region) : (s.onRegion r f).heats = s.heats := rfl
@[simp] theorem State.onRegion_crews (s : State) (r : Fin 64) (f : Region → Region) : (s.onRegion r f).crews = s.crews := rfl
@[simp] theorem State.onRegion_blades (s : State) (r : Fin 64) (f : Region → Region) : (s.onRegion r f).blades = s.blades := rfl
@[simp] theorem State.onRegion_sculls (s : State) (r : Fin 64) (f : Region → Region) : (s.onRegion r f).sculls = s.sculls := rfl
@[simp] theorem State.onRegion_engines (s : State) (r : Fin 64) (f : Region → Region) : (s.onRegion r f).engines = s.engines := rfl
@[simp] theorem State.onRegion_relayQueues (s : State) (r : Fin 64) (f : Region → Region) : (s.onRegion r f).relayQueues = s.relayQueues := rfl
@[simp] theorem State.onRegion_marshal (s : State) (r : Fin 64) (f : Region → Region) : (s.onRegion r f).marshal = s.marshal := rfl
@[simp] theorem State.onRegion_channels (s : State) (r : Fin 64) (f : Region → Region) : (s.onRegion r f).channels = s.channels := rfl
@[simp] theorem State.onRegion_hbmStacks (s : State) (r : Fin 64) (f : Region → Region) : (s.onRegion r f).hbmStacks = s.hbmStacks := rfl
@[simp] theorem State.onRegion_dies (s : State) (r : Fin 64) (f : Region → Region) : (s.onRegion r f).dies = s.dies := rfl
@[simp] theorem State.onRegion_retrainNext (s : State) (r : Fin 64) (f : Region → Region) : (s.onRegion r f).retrainNext = s.retrainNext := rfl
@[simp] theorem State.onRegion_scullRuns (s : State) (r : Fin 64) (f : Region → Region) : (s.onRegion r f).scullRuns = s.scullRuns := rfl
@[simp] theorem State.onRegion_oarlocks (s : State) (r : Fin 64) (f : Region → Region) : (s.onRegion r f).oarlocks = s.oarlocks := rfl
@[simp] theorem State.onRegion_sweeps (s : State) (r : Fin 64) (f : Region → Region) : (s.onRegion r f).sweeps = s.sweeps := rfl
@[simp] theorem State.onRegion_telem (s : State) (r : Fin 64) (f : Region → Region) : (s.onRegion r f).telem = s.telem := rfl
@[simp] theorem State.onRegion_peers (s : State) (r : Fin 64) (f : Region → Region) : (s.onRegion r f).peers = s.peers := rfl
@[simp] theorem State.onRegion_peersFull (s : State) (r : Fin 64) (f : Region → Region) : (s.onRegion r f).peersFull = s.peersFull := rfl
@[simp] theorem State.onRegion_heldFrames (s : State) (r : Fin 64) (f : Region → Region) : (s.onRegion r f).heldFrames = s.heldFrames := rfl
@[simp] theorem State.onRegion_linkTraining (s : State) (r : Fin 64) (f : Region → Region) : (s.onRegion r f).linkTraining = s.linkTraining := rfl
@[simp] theorem State.onRegion_tags (s : State) (r : Fin 64) (f : Region → Region) : (s.onRegion r f).tags = s.tags := rfl
@[simp] theorem State.onRegion_collectives (s : State) (r : Fin 64) (f : Region → Region) : (s.onRegion r f).collectives = s.collectives := rfl
@[simp] theorem State.onRegion_pools (s : State) (r : Fin 64) (f : Region → Region) : (s.onRegion r f).pools = s.pools := rfl
@[simp] theorem State.onRegion_unsent (s : State) (r : Fin 64) (f : Region → Region) : (s.onRegion r f).unsent = s.unsent := rfl
@[simp] theorem State.onRegion_slipways (s : State) (r : Fin 64) (f : Region → Region) : (s.onRegion r f).slipways = s.slipways := rfl
@[simp] theorem State.onRegion_signer (s : State) (r : Fin 64) (f : Region → Region) : (s.onRegion r f).signer = s.signer := rfl
@[simp] theorem State.onRegion_keys (s : State) (r : Fin 64) (f : Region → Region) : (s.onRegion r f).keys = s.keys := rfl
@[simp] theorem State.onRegion_flashWrites (s : State) (r : Fin 64) (f : Region → Region) : (s.onRegion r f).flashWrites = s.flashWrites := rfl
@[simp] theorem State.onRegion_retrainLeft (s : State) (r : Fin 64) (f : Region → Region) : (s.onRegion r f).retrainLeft = s.retrainLeft := rfl
@[simp] theorem State.onRegion_rings (s : State) (r : Fin 64) (f : Region → Region) : (s.onRegion r f).rings = s.rings := rfl
@[simp] theorem State.onRegion_serviceCount (s : State) (r : Fin 64) (f : Region → Region) : (s.onRegion r f).serviceCount = s.serviceCount := rfl
@[simp] theorem State.onRegion_moveCount (s : State) (r : Fin 64) (f : Region → Region) : (s.onRegion r f).moveCount = s.moveCount := rfl
@[simp] theorem State.onRegion_trust (s : State) (r : Fin 64) (f : Region → Region) : (s.onRegion r f).trust = s.trust := rfl
@[simp] theorem State.onRegion_parts (s : State) (r : Fin 64) (f : Region → Region) : (s.onRegion r f).parts = s.parts := rfl
@[simp] theorem State.onRegion_boot (s : State) (r : Fin 64) (f : Region → Region) : (s.onRegion r f).boot = s.boot := rfl
@[simp] theorem State.onRegion_pacer (s : State) (r : Fin 64) (f : Region → Region) : (s.onRegion r f).pacer = s.pacer := rfl
@[simp] theorem State.onRegion_seat (s : State) (r : Fin 64) (f : Region → Region) : (s.onRegion r f).seat = s.seat := rfl
@[simp] theorem State.onRegion_sigDump (s : State) (r : Fin 64) (f : Region → Region) : (s.onRegion r f).sigDump = s.sigDump := rfl
@[simp] theorem State.onRegion_xefin (s : State) (r : Fin 64) (f : Region → Region) : (s.onRegion r f).xefin = s.xefin := rfl
@[simp] theorem State.onRegion_power (s : State) (r : Fin 64) (f : Region → Region) : (s.onRegion r f).power = s.power := rfl

/-! `State.onChannel` -/

@[simp] theorem State.onChannel_pending (s : State) (c : Fin 384) (f : Channel → Channel) : (s.onChannel c f).pending = s.pending := rfl
@[simp] theorem State.onChannel_dict (s : State) (c : Fin 384) (f : Channel → Channel) : (s.onChannel c f).dict = s.dict := rfl
@[simp] theorem State.onChannel_blobs (s : State) (c : Fin 384) (f : Channel → Channel) : (s.onChannel c f).blobs = s.blobs := rfl
@[simp] theorem State.onChannel_mem (s : State) (c : Fin 384) (f : Channel → Channel) : (s.onChannel c f).mem = s.mem := rfl
@[simp] theorem State.onChannel_draws (s : State) (c : Fin 384) (f : Channel → Channel) : (s.onChannel c f).draws = s.draws := rfl
@[simp] theorem State.onChannel_out (s : State) (c : Fin 384) (f : Channel → Channel) : (s.onChannel c f).out = s.out := rfl
@[simp] theorem State.onChannel_bladeMap (s : State) (c : Fin 384) (f : Channel → Channel) : (s.onChannel c f).bladeMap = s.bladeMap := rfl
@[simp] theorem State.onChannel_clock (s : State) (c : Fin 384) (f : Channel → Channel) : (s.onChannel c f).clock = s.clock := rfl
@[simp] theorem State.onChannel_log (s : State) (c : Fin 384) (f : Channel → Channel) : (s.onChannel c f).log = s.log := rfl
@[simp] theorem State.onChannel_ergs (s : State) (c : Fin 384) (f : Channel → Channel) : (s.onChannel c f).ergs = s.ergs := rfl
@[simp] theorem State.onChannel_capture (s : State) (c : Fin 384) (f : Channel → Channel) : (s.onChannel c f).capture = s.capture := rfl
@[simp] theorem State.onChannel_heats (s : State) (c : Fin 384) (f : Channel → Channel) : (s.onChannel c f).heats = s.heats := rfl
@[simp] theorem State.onChannel_crews (s : State) (c : Fin 384) (f : Channel → Channel) : (s.onChannel c f).crews = s.crews := rfl
@[simp] theorem State.onChannel_blades (s : State) (c : Fin 384) (f : Channel → Channel) : (s.onChannel c f).blades = s.blades := rfl
@[simp] theorem State.onChannel_sculls (s : State) (c : Fin 384) (f : Channel → Channel) : (s.onChannel c f).sculls = s.sculls := rfl
@[simp] theorem State.onChannel_engines (s : State) (c : Fin 384) (f : Channel → Channel) : (s.onChannel c f).engines = s.engines := rfl
@[simp] theorem State.onChannel_relayQueues (s : State) (c : Fin 384) (f : Channel → Channel) : (s.onChannel c f).relayQueues = s.relayQueues := rfl
@[simp] theorem State.onChannel_marshal (s : State) (c : Fin 384) (f : Channel → Channel) : (s.onChannel c f).marshal = s.marshal := rfl
@[simp] theorem State.onChannel_regions (s : State) (c : Fin 384) (f : Channel → Channel) : (s.onChannel c f).regions = s.regions := rfl
@[simp] theorem State.onChannel_hbmStacks (s : State) (c : Fin 384) (f : Channel → Channel) : (s.onChannel c f).hbmStacks = s.hbmStacks := rfl
@[simp] theorem State.onChannel_dies (s : State) (c : Fin 384) (f : Channel → Channel) : (s.onChannel c f).dies = s.dies := rfl
@[simp] theorem State.onChannel_retrainNext (s : State) (c : Fin 384) (f : Channel → Channel) : (s.onChannel c f).retrainNext = s.retrainNext := rfl
@[simp] theorem State.onChannel_scullRuns (s : State) (c : Fin 384) (f : Channel → Channel) : (s.onChannel c f).scullRuns = s.scullRuns := rfl
@[simp] theorem State.onChannel_oarlocks (s : State) (c : Fin 384) (f : Channel → Channel) : (s.onChannel c f).oarlocks = s.oarlocks := rfl
@[simp] theorem State.onChannel_sweeps (s : State) (c : Fin 384) (f : Channel → Channel) : (s.onChannel c f).sweeps = s.sweeps := rfl
@[simp] theorem State.onChannel_telem (s : State) (c : Fin 384) (f : Channel → Channel) : (s.onChannel c f).telem = s.telem := rfl
@[simp] theorem State.onChannel_peers (s : State) (c : Fin 384) (f : Channel → Channel) : (s.onChannel c f).peers = s.peers := rfl
@[simp] theorem State.onChannel_peersFull (s : State) (c : Fin 384) (f : Channel → Channel) : (s.onChannel c f).peersFull = s.peersFull := rfl
@[simp] theorem State.onChannel_heldFrames (s : State) (c : Fin 384) (f : Channel → Channel) : (s.onChannel c f).heldFrames = s.heldFrames := rfl
@[simp] theorem State.onChannel_linkTraining (s : State) (c : Fin 384) (f : Channel → Channel) : (s.onChannel c f).linkTraining = s.linkTraining := rfl
@[simp] theorem State.onChannel_tags (s : State) (c : Fin 384) (f : Channel → Channel) : (s.onChannel c f).tags = s.tags := rfl
@[simp] theorem State.onChannel_collectives (s : State) (c : Fin 384) (f : Channel → Channel) : (s.onChannel c f).collectives = s.collectives := rfl
@[simp] theorem State.onChannel_pools (s : State) (c : Fin 384) (f : Channel → Channel) : (s.onChannel c f).pools = s.pools := rfl
@[simp] theorem State.onChannel_unsent (s : State) (c : Fin 384) (f : Channel → Channel) : (s.onChannel c f).unsent = s.unsent := rfl
@[simp] theorem State.onChannel_slipways (s : State) (c : Fin 384) (f : Channel → Channel) : (s.onChannel c f).slipways = s.slipways := rfl
@[simp] theorem State.onChannel_signer (s : State) (c : Fin 384) (f : Channel → Channel) : (s.onChannel c f).signer = s.signer := rfl
@[simp] theorem State.onChannel_keys (s : State) (c : Fin 384) (f : Channel → Channel) : (s.onChannel c f).keys = s.keys := rfl
@[simp] theorem State.onChannel_flashWrites (s : State) (c : Fin 384) (f : Channel → Channel) : (s.onChannel c f).flashWrites = s.flashWrites := rfl
@[simp] theorem State.onChannel_retrainLeft (s : State) (c : Fin 384) (f : Channel → Channel) : (s.onChannel c f).retrainLeft = s.retrainLeft := rfl
@[simp] theorem State.onChannel_rings (s : State) (c : Fin 384) (f : Channel → Channel) : (s.onChannel c f).rings = s.rings := rfl
@[simp] theorem State.onChannel_serviceCount (s : State) (c : Fin 384) (f : Channel → Channel) : (s.onChannel c f).serviceCount = s.serviceCount := rfl
@[simp] theorem State.onChannel_moveCount (s : State) (c : Fin 384) (f : Channel → Channel) : (s.onChannel c f).moveCount = s.moveCount := rfl
@[simp] theorem State.onChannel_trust (s : State) (c : Fin 384) (f : Channel → Channel) : (s.onChannel c f).trust = s.trust := rfl
@[simp] theorem State.onChannel_parts (s : State) (c : Fin 384) (f : Channel → Channel) : (s.onChannel c f).parts = s.parts := rfl
@[simp] theorem State.onChannel_boot (s : State) (c : Fin 384) (f : Channel → Channel) : (s.onChannel c f).boot = s.boot := rfl
@[simp] theorem State.onChannel_pacer (s : State) (c : Fin 384) (f : Channel → Channel) : (s.onChannel c f).pacer = s.pacer := rfl
@[simp] theorem State.onChannel_seat (s : State) (c : Fin 384) (f : Channel → Channel) : (s.onChannel c f).seat = s.seat := rfl
@[simp] theorem State.onChannel_sigDump (s : State) (c : Fin 384) (f : Channel → Channel) : (s.onChannel c f).sigDump = s.sigDump := rfl
@[simp] theorem State.onChannel_xefin (s : State) (c : Fin 384) (f : Channel → Channel) : (s.onChannel c f).xefin = s.xefin := rfl
@[simp] theorem State.onChannel_power (s : State) (c : Fin 384) (f : Channel → Channel) : (s.onChannel c f).power = s.power := rfl

/-! `State.onEngine` -/

@[simp] theorem State.onEngine_pending (s : State) (e : Fin 16) (f : Engine → Engine) : (s.onEngine e f).pending = s.pending := rfl
@[simp] theorem State.onEngine_dict (s : State) (e : Fin 16) (f : Engine → Engine) : (s.onEngine e f).dict = s.dict := rfl
@[simp] theorem State.onEngine_blobs (s : State) (e : Fin 16) (f : Engine → Engine) : (s.onEngine e f).blobs = s.blobs := rfl
@[simp] theorem State.onEngine_mem (s : State) (e : Fin 16) (f : Engine → Engine) : (s.onEngine e f).mem = s.mem := rfl
@[simp] theorem State.onEngine_draws (s : State) (e : Fin 16) (f : Engine → Engine) : (s.onEngine e f).draws = s.draws := rfl
@[simp] theorem State.onEngine_out (s : State) (e : Fin 16) (f : Engine → Engine) : (s.onEngine e f).out = s.out := rfl
@[simp] theorem State.onEngine_bladeMap (s : State) (e : Fin 16) (f : Engine → Engine) : (s.onEngine e f).bladeMap = s.bladeMap := rfl
@[simp] theorem State.onEngine_clock (s : State) (e : Fin 16) (f : Engine → Engine) : (s.onEngine e f).clock = s.clock := rfl
@[simp] theorem State.onEngine_log (s : State) (e : Fin 16) (f : Engine → Engine) : (s.onEngine e f).log = s.log := rfl
@[simp] theorem State.onEngine_ergs (s : State) (e : Fin 16) (f : Engine → Engine) : (s.onEngine e f).ergs = s.ergs := rfl
@[simp] theorem State.onEngine_capture (s : State) (e : Fin 16) (f : Engine → Engine) : (s.onEngine e f).capture = s.capture := rfl
@[simp] theorem State.onEngine_heats (s : State) (e : Fin 16) (f : Engine → Engine) : (s.onEngine e f).heats = s.heats := rfl
@[simp] theorem State.onEngine_crews (s : State) (e : Fin 16) (f : Engine → Engine) : (s.onEngine e f).crews = s.crews := rfl
@[simp] theorem State.onEngine_blades (s : State) (e : Fin 16) (f : Engine → Engine) : (s.onEngine e f).blades = s.blades := rfl
@[simp] theorem State.onEngine_sculls (s : State) (e : Fin 16) (f : Engine → Engine) : (s.onEngine e f).sculls = s.sculls := rfl
@[simp] theorem State.onEngine_relayQueues (s : State) (e : Fin 16) (f : Engine → Engine) : (s.onEngine e f).relayQueues = s.relayQueues := rfl
@[simp] theorem State.onEngine_marshal (s : State) (e : Fin 16) (f : Engine → Engine) : (s.onEngine e f).marshal = s.marshal := rfl
@[simp] theorem State.onEngine_regions (s : State) (e : Fin 16) (f : Engine → Engine) : (s.onEngine e f).regions = s.regions := rfl
@[simp] theorem State.onEngine_channels (s : State) (e : Fin 16) (f : Engine → Engine) : (s.onEngine e f).channels = s.channels := rfl
@[simp] theorem State.onEngine_hbmStacks (s : State) (e : Fin 16) (f : Engine → Engine) : (s.onEngine e f).hbmStacks = s.hbmStacks := rfl
@[simp] theorem State.onEngine_dies (s : State) (e : Fin 16) (f : Engine → Engine) : (s.onEngine e f).dies = s.dies := rfl
@[simp] theorem State.onEngine_retrainNext (s : State) (e : Fin 16) (f : Engine → Engine) : (s.onEngine e f).retrainNext = s.retrainNext := rfl
@[simp] theorem State.onEngine_scullRuns (s : State) (e : Fin 16) (f : Engine → Engine) : (s.onEngine e f).scullRuns = s.scullRuns := rfl
@[simp] theorem State.onEngine_oarlocks (s : State) (e : Fin 16) (f : Engine → Engine) : (s.onEngine e f).oarlocks = s.oarlocks := rfl
@[simp] theorem State.onEngine_sweeps (s : State) (e : Fin 16) (f : Engine → Engine) : (s.onEngine e f).sweeps = s.sweeps := rfl
@[simp] theorem State.onEngine_telem (s : State) (e : Fin 16) (f : Engine → Engine) : (s.onEngine e f).telem = s.telem := rfl
@[simp] theorem State.onEngine_peers (s : State) (e : Fin 16) (f : Engine → Engine) : (s.onEngine e f).peers = s.peers := rfl
@[simp] theorem State.onEngine_peersFull (s : State) (e : Fin 16) (f : Engine → Engine) : (s.onEngine e f).peersFull = s.peersFull := rfl
@[simp] theorem State.onEngine_heldFrames (s : State) (e : Fin 16) (f : Engine → Engine) : (s.onEngine e f).heldFrames = s.heldFrames := rfl
@[simp] theorem State.onEngine_linkTraining (s : State) (e : Fin 16) (f : Engine → Engine) : (s.onEngine e f).linkTraining = s.linkTraining := rfl
@[simp] theorem State.onEngine_tags (s : State) (e : Fin 16) (f : Engine → Engine) : (s.onEngine e f).tags = s.tags := rfl
@[simp] theorem State.onEngine_collectives (s : State) (e : Fin 16) (f : Engine → Engine) : (s.onEngine e f).collectives = s.collectives := rfl
@[simp] theorem State.onEngine_pools (s : State) (e : Fin 16) (f : Engine → Engine) : (s.onEngine e f).pools = s.pools := rfl
@[simp] theorem State.onEngine_unsent (s : State) (e : Fin 16) (f : Engine → Engine) : (s.onEngine e f).unsent = s.unsent := rfl
@[simp] theorem State.onEngine_slipways (s : State) (e : Fin 16) (f : Engine → Engine) : (s.onEngine e f).slipways = s.slipways := rfl
@[simp] theorem State.onEngine_signer (s : State) (e : Fin 16) (f : Engine → Engine) : (s.onEngine e f).signer = s.signer := rfl
@[simp] theorem State.onEngine_keys (s : State) (e : Fin 16) (f : Engine → Engine) : (s.onEngine e f).keys = s.keys := rfl
@[simp] theorem State.onEngine_flashWrites (s : State) (e : Fin 16) (f : Engine → Engine) : (s.onEngine e f).flashWrites = s.flashWrites := rfl
@[simp] theorem State.onEngine_retrainLeft (s : State) (e : Fin 16) (f : Engine → Engine) : (s.onEngine e f).retrainLeft = s.retrainLeft := rfl
@[simp] theorem State.onEngine_rings (s : State) (e : Fin 16) (f : Engine → Engine) : (s.onEngine e f).rings = s.rings := rfl
@[simp] theorem State.onEngine_serviceCount (s : State) (e : Fin 16) (f : Engine → Engine) : (s.onEngine e f).serviceCount = s.serviceCount := rfl
@[simp] theorem State.onEngine_moveCount (s : State) (e : Fin 16) (f : Engine → Engine) : (s.onEngine e f).moveCount = s.moveCount := rfl
@[simp] theorem State.onEngine_trust (s : State) (e : Fin 16) (f : Engine → Engine) : (s.onEngine e f).trust = s.trust := rfl
@[simp] theorem State.onEngine_parts (s : State) (e : Fin 16) (f : Engine → Engine) : (s.onEngine e f).parts = s.parts := rfl
@[simp] theorem State.onEngine_boot (s : State) (e : Fin 16) (f : Engine → Engine) : (s.onEngine e f).boot = s.boot := rfl
@[simp] theorem State.onEngine_pacer (s : State) (e : Fin 16) (f : Engine → Engine) : (s.onEngine e f).pacer = s.pacer := rfl
@[simp] theorem State.onEngine_seat (s : State) (e : Fin 16) (f : Engine → Engine) : (s.onEngine e f).seat = s.seat := rfl
@[simp] theorem State.onEngine_sigDump (s : State) (e : Fin 16) (f : Engine → Engine) : (s.onEngine e f).sigDump = s.sigDump := rfl
@[simp] theorem State.onEngine_xefin (s : State) (e : Fin 16) (f : Engine → Engine) : (s.onEngine e f).xefin = s.xefin := rfl
@[simp] theorem State.onEngine_power (s : State) (e : Fin 16) (f : Engine → Engine) : (s.onEngine e f).power = s.power := rfl

/-! `State.awaitSlice` -/

@[simp] theorem State.awaitSlice_pending (s : State) (u : Fin 36) : (s.awaitSlice u).pending = s.pending := rfl
@[simp] theorem State.awaitSlice_dict (s : State) (u : Fin 36) : (s.awaitSlice u).dict = s.dict := rfl
@[simp] theorem State.awaitSlice_blobs (s : State) (u : Fin 36) : (s.awaitSlice u).blobs = s.blobs := rfl
@[simp] theorem State.awaitSlice_mem (s : State) (u : Fin 36) : (s.awaitSlice u).mem = s.mem := rfl
@[simp] theorem State.awaitSlice_draws (s : State) (u : Fin 36) : (s.awaitSlice u).draws = s.draws := rfl
@[simp] theorem State.awaitSlice_out (s : State) (u : Fin 36) : (s.awaitSlice u).out = s.out := rfl
@[simp] theorem State.awaitSlice_bladeMap (s : State) (u : Fin 36) : (s.awaitSlice u).bladeMap = s.bladeMap := rfl
@[simp] theorem State.awaitSlice_clock (s : State) (u : Fin 36) : (s.awaitSlice u).clock = s.clock := rfl
@[simp] theorem State.awaitSlice_log (s : State) (u : Fin 36) : (s.awaitSlice u).log = s.log := rfl
@[simp] theorem State.awaitSlice_ergs (s : State) (u : Fin 36) : (s.awaitSlice u).ergs = s.ergs := rfl
@[simp] theorem State.awaitSlice_capture (s : State) (u : Fin 36) : (s.awaitSlice u).capture = s.capture := rfl
@[simp] theorem State.awaitSlice_heats (s : State) (u : Fin 36) : (s.awaitSlice u).heats = s.heats := rfl
@[simp] theorem State.awaitSlice_crews (s : State) (u : Fin 36) : (s.awaitSlice u).crews = s.crews := rfl
@[simp] theorem State.awaitSlice_blades (s : State) (u : Fin 36) : (s.awaitSlice u).blades = s.blades := rfl
@[simp] theorem State.awaitSlice_sculls (s : State) (u : Fin 36) : (s.awaitSlice u).sculls = s.sculls := rfl
@[simp] theorem State.awaitSlice_engines (s : State) (u : Fin 36) : (s.awaitSlice u).engines = s.engines := rfl
@[simp] theorem State.awaitSlice_relayQueues (s : State) (u : Fin 36) : (s.awaitSlice u).relayQueues = s.relayQueues := rfl
@[simp] theorem State.awaitSlice_marshal (s : State) (u : Fin 36) : (s.awaitSlice u).marshal = s.marshal := rfl
@[simp] theorem State.awaitSlice_regions (s : State) (u : Fin 36) : (s.awaitSlice u).regions = s.regions := rfl
@[simp] theorem State.awaitSlice_channels (s : State) (u : Fin 36) : (s.awaitSlice u).channels = s.channels := rfl
@[simp] theorem State.awaitSlice_hbmStacks (s : State) (u : Fin 36) : (s.awaitSlice u).hbmStacks = s.hbmStacks := rfl
@[simp] theorem State.awaitSlice_dies (s : State) (u : Fin 36) : (s.awaitSlice u).dies = s.dies := rfl
@[simp] theorem State.awaitSlice_retrainNext (s : State) (u : Fin 36) : (s.awaitSlice u).retrainNext = s.retrainNext := rfl
@[simp] theorem State.awaitSlice_scullRuns (s : State) (u : Fin 36) : (s.awaitSlice u).scullRuns = s.scullRuns := rfl
@[simp] theorem State.awaitSlice_oarlocks (s : State) (u : Fin 36) : (s.awaitSlice u).oarlocks = s.oarlocks := rfl
@[simp] theorem State.awaitSlice_sweeps (s : State) (u : Fin 36) : (s.awaitSlice u).sweeps = s.sweeps := rfl
@[simp] theorem State.awaitSlice_telem (s : State) (u : Fin 36) : (s.awaitSlice u).telem = s.telem := rfl
@[simp] theorem State.awaitSlice_peers (s : State) (u : Fin 36) : (s.awaitSlice u).peers = s.peers := rfl
@[simp] theorem State.awaitSlice_peersFull (s : State) (u : Fin 36) : (s.awaitSlice u).peersFull = s.peersFull := rfl
@[simp] theorem State.awaitSlice_heldFrames (s : State) (u : Fin 36) : (s.awaitSlice u).heldFrames = s.heldFrames := rfl
@[simp] theorem State.awaitSlice_linkTraining (s : State) (u : Fin 36) : (s.awaitSlice u).linkTraining = s.linkTraining := rfl
@[simp] theorem State.awaitSlice_tags (s : State) (u : Fin 36) : (s.awaitSlice u).tags = s.tags := rfl
@[simp] theorem State.awaitSlice_collectives (s : State) (u : Fin 36) : (s.awaitSlice u).collectives = s.collectives := rfl
@[simp] theorem State.awaitSlice_pools (s : State) (u : Fin 36) : (s.awaitSlice u).pools = s.pools := rfl
@[simp] theorem State.awaitSlice_unsent (s : State) (u : Fin 36) : (s.awaitSlice u).unsent = s.unsent := rfl
@[simp] theorem State.awaitSlice_slipways (s : State) (u : Fin 36) : (s.awaitSlice u).slipways = s.slipways := rfl
@[simp] theorem State.awaitSlice_signer (s : State) (u : Fin 36) : (s.awaitSlice u).signer = s.signer := rfl
@[simp] theorem State.awaitSlice_keys (s : State) (u : Fin 36) : (s.awaitSlice u).keys = s.keys := rfl
@[simp] theorem State.awaitSlice_flashWrites (s : State) (u : Fin 36) : (s.awaitSlice u).flashWrites = s.flashWrites := rfl
@[simp] theorem State.awaitSlice_retrainLeft (s : State) (u : Fin 36) : (s.awaitSlice u).retrainLeft = s.retrainLeft := rfl
@[simp] theorem State.awaitSlice_rings (s : State) (u : Fin 36) : (s.awaitSlice u).rings = s.rings := rfl
@[simp] theorem State.awaitSlice_serviceCount (s : State) (u : Fin 36) : (s.awaitSlice u).serviceCount = s.serviceCount := rfl
@[simp] theorem State.awaitSlice_moveCount (s : State) (u : Fin 36) : (s.awaitSlice u).moveCount = s.moveCount := rfl
@[simp] theorem State.awaitSlice_trust (s : State) (u : Fin 36) : (s.awaitSlice u).trust = s.trust := rfl
@[simp] theorem State.awaitSlice_parts (s : State) (u : Fin 36) : (s.awaitSlice u).parts = s.parts := rfl
@[simp] theorem State.awaitSlice_boot (s : State) (u : Fin 36) : (s.awaitSlice u).boot = s.boot := rfl
@[simp] theorem State.awaitSlice_pacer (s : State) (u : Fin 36) : (s.awaitSlice u).pacer = s.pacer := rfl
@[simp] theorem State.awaitSlice_sigDump (s : State) (u : Fin 36) : (s.awaitSlice u).sigDump = s.sigDump := rfl
@[simp] theorem State.awaitSlice_xefin (s : State) (u : Fin 36) : (s.awaitSlice u).xefin = s.xefin := rfl
@[simp] theorem State.awaitSlice_power (s : State) (u : Fin 36) : (s.awaitSlice u).power = s.power := rfl

/-! `State.stopLane` -/

@[simp] theorem State.stopLane_pending (s : State) (h : Fin 64) (l : Fin 4) (f : Lane → Lane) : (s.stopLane h l f).pending = s.pending := rfl
@[simp] theorem State.stopLane_dict (s : State) (h : Fin 64) (l : Fin 4) (f : Lane → Lane) : (s.stopLane h l f).dict = s.dict := rfl
@[simp] theorem State.stopLane_blobs (s : State) (h : Fin 64) (l : Fin 4) (f : Lane → Lane) : (s.stopLane h l f).blobs = s.blobs := rfl
@[simp] theorem State.stopLane_mem (s : State) (h : Fin 64) (l : Fin 4) (f : Lane → Lane) : (s.stopLane h l f).mem = s.mem := rfl
@[simp] theorem State.stopLane_draws (s : State) (h : Fin 64) (l : Fin 4) (f : Lane → Lane) : (s.stopLane h l f).draws = s.draws := rfl
@[simp] theorem State.stopLane_out (s : State) (h : Fin 64) (l : Fin 4) (f : Lane → Lane) : (s.stopLane h l f).out = s.out := rfl
@[simp] theorem State.stopLane_bladeMap (s : State) (h : Fin 64) (l : Fin 4) (f : Lane → Lane) : (s.stopLane h l f).bladeMap = s.bladeMap := rfl
@[simp] theorem State.stopLane_clock (s : State) (h : Fin 64) (l : Fin 4) (f : Lane → Lane) : (s.stopLane h l f).clock = s.clock := rfl
@[simp] theorem State.stopLane_log (s : State) (h : Fin 64) (l : Fin 4) (f : Lane → Lane) : (s.stopLane h l f).log = s.log := rfl
@[simp] theorem State.stopLane_ergs (s : State) (h : Fin 64) (l : Fin 4) (f : Lane → Lane) : (s.stopLane h l f).ergs = s.ergs := rfl
@[simp] theorem State.stopLane_capture (s : State) (h : Fin 64) (l : Fin 4) (f : Lane → Lane) : (s.stopLane h l f).capture = s.capture := rfl
@[simp] theorem State.stopLane_crews (s : State) (h : Fin 64) (l : Fin 4) (f : Lane → Lane) : (s.stopLane h l f).crews = s.crews := rfl
@[simp] theorem State.stopLane_blades (s : State) (h : Fin 64) (l : Fin 4) (f : Lane → Lane) : (s.stopLane h l f).blades = s.blades := rfl
@[simp] theorem State.stopLane_sculls (s : State) (h : Fin 64) (l : Fin 4) (f : Lane → Lane) : (s.stopLane h l f).sculls = s.sculls := rfl
@[simp] theorem State.stopLane_engines (s : State) (h : Fin 64) (l : Fin 4) (f : Lane → Lane) : (s.stopLane h l f).engines = s.engines := rfl
@[simp] theorem State.stopLane_relayQueues (s : State) (h : Fin 64) (l : Fin 4) (f : Lane → Lane) : (s.stopLane h l f).relayQueues = s.relayQueues := rfl
@[simp] theorem State.stopLane_marshal (s : State) (h : Fin 64) (l : Fin 4) (f : Lane → Lane) : (s.stopLane h l f).marshal = s.marshal := rfl
@[simp] theorem State.stopLane_regions (s : State) (h : Fin 64) (l : Fin 4) (f : Lane → Lane) : (s.stopLane h l f).regions = s.regions := rfl
@[simp] theorem State.stopLane_channels (s : State) (h : Fin 64) (l : Fin 4) (f : Lane → Lane) : (s.stopLane h l f).channels = s.channels := rfl
@[simp] theorem State.stopLane_hbmStacks (s : State) (h : Fin 64) (l : Fin 4) (f : Lane → Lane) : (s.stopLane h l f).hbmStacks = s.hbmStacks := rfl
@[simp] theorem State.stopLane_dies (s : State) (h : Fin 64) (l : Fin 4) (f : Lane → Lane) : (s.stopLane h l f).dies = s.dies := rfl
@[simp] theorem State.stopLane_retrainNext (s : State) (h : Fin 64) (l : Fin 4) (f : Lane → Lane) : (s.stopLane h l f).retrainNext = s.retrainNext := rfl
@[simp] theorem State.stopLane_scullRuns (s : State) (h : Fin 64) (l : Fin 4) (f : Lane → Lane) : (s.stopLane h l f).scullRuns = s.scullRuns := rfl
@[simp] theorem State.stopLane_oarlocks (s : State) (h : Fin 64) (l : Fin 4) (f : Lane → Lane) : (s.stopLane h l f).oarlocks = s.oarlocks := rfl
@[simp] theorem State.stopLane_sweeps (s : State) (h : Fin 64) (l : Fin 4) (f : Lane → Lane) : (s.stopLane h l f).sweeps = s.sweeps := rfl
@[simp] theorem State.stopLane_telem (s : State) (h : Fin 64) (l : Fin 4) (f : Lane → Lane) : (s.stopLane h l f).telem = s.telem := rfl
@[simp] theorem State.stopLane_peers (s : State) (h : Fin 64) (l : Fin 4) (f : Lane → Lane) : (s.stopLane h l f).peers = s.peers := rfl
@[simp] theorem State.stopLane_peersFull (s : State) (h : Fin 64) (l : Fin 4) (f : Lane → Lane) : (s.stopLane h l f).peersFull = s.peersFull := rfl
@[simp] theorem State.stopLane_heldFrames (s : State) (h : Fin 64) (l : Fin 4) (f : Lane → Lane) : (s.stopLane h l f).heldFrames = s.heldFrames := rfl
@[simp] theorem State.stopLane_linkTraining (s : State) (h : Fin 64) (l : Fin 4) (f : Lane → Lane) : (s.stopLane h l f).linkTraining = s.linkTraining := rfl
@[simp] theorem State.stopLane_tags (s : State) (h : Fin 64) (l : Fin 4) (f : Lane → Lane) : (s.stopLane h l f).tags = s.tags := rfl
@[simp] theorem State.stopLane_collectives (s : State) (h : Fin 64) (l : Fin 4) (f : Lane → Lane) : (s.stopLane h l f).collectives = s.collectives := rfl
@[simp] theorem State.stopLane_pools (s : State) (h : Fin 64) (l : Fin 4) (f : Lane → Lane) : (s.stopLane h l f).pools = s.pools := rfl
@[simp] theorem State.stopLane_unsent (s : State) (h : Fin 64) (l : Fin 4) (f : Lane → Lane) : (s.stopLane h l f).unsent = s.unsent := rfl
@[simp] theorem State.stopLane_slipways (s : State) (h : Fin 64) (l : Fin 4) (f : Lane → Lane) : (s.stopLane h l f).slipways = s.slipways := rfl
@[simp] theorem State.stopLane_signer (s : State) (h : Fin 64) (l : Fin 4) (f : Lane → Lane) : (s.stopLane h l f).signer = s.signer := rfl
@[simp] theorem State.stopLane_keys (s : State) (h : Fin 64) (l : Fin 4) (f : Lane → Lane) : (s.stopLane h l f).keys = s.keys := rfl
@[simp] theorem State.stopLane_flashWrites (s : State) (h : Fin 64) (l : Fin 4) (f : Lane → Lane) : (s.stopLane h l f).flashWrites = s.flashWrites := rfl
@[simp] theorem State.stopLane_retrainLeft (s : State) (h : Fin 64) (l : Fin 4) (f : Lane → Lane) : (s.stopLane h l f).retrainLeft = s.retrainLeft := rfl
@[simp] theorem State.stopLane_rings (s : State) (h : Fin 64) (l : Fin 4) (f : Lane → Lane) : (s.stopLane h l f).rings = s.rings := rfl
@[simp] theorem State.stopLane_serviceCount (s : State) (h : Fin 64) (l : Fin 4) (f : Lane → Lane) : (s.stopLane h l f).serviceCount = s.serviceCount := rfl
@[simp] theorem State.stopLane_moveCount (s : State) (h : Fin 64) (l : Fin 4) (f : Lane → Lane) : (s.stopLane h l f).moveCount = s.moveCount := rfl
@[simp] theorem State.stopLane_trust (s : State) (h : Fin 64) (l : Fin 4) (f : Lane → Lane) : (s.stopLane h l f).trust = s.trust := rfl
@[simp] theorem State.stopLane_parts (s : State) (h : Fin 64) (l : Fin 4) (f : Lane → Lane) : (s.stopLane h l f).parts = s.parts := rfl
@[simp] theorem State.stopLane_boot (s : State) (h : Fin 64) (l : Fin 4) (f : Lane → Lane) : (s.stopLane h l f).boot = s.boot := rfl
@[simp] theorem State.stopLane_pacer (s : State) (h : Fin 64) (l : Fin 4) (f : Lane → Lane) : (s.stopLane h l f).pacer = s.pacer := rfl
@[simp] theorem State.stopLane_seat (s : State) (h : Fin 64) (l : Fin 4) (f : Lane → Lane) : (s.stopLane h l f).seat = s.seat := rfl
@[simp] theorem State.stopLane_sigDump (s : State) (h : Fin 64) (l : Fin 4) (f : Lane → Lane) : (s.stopLane h l f).sigDump = s.sigDump := rfl
@[simp] theorem State.stopLane_xefin (s : State) (h : Fin 64) (l : Fin 4) (f : Lane → Lane) : (s.stopLane h l f).xefin = s.xefin := rfl
@[simp] theorem State.stopLane_power (s : State) (h : Fin 64) (l : Fin 4) (f : Lane → Lane) : (s.stopLane h l f).power = s.power := rfl

/-! `State.nextPc` -/

@[simp] theorem State.nextPc_pending (s : State) (h : Fin 64) (l : Fin 4) : (s.nextPc h l).pending = s.pending := rfl
@[simp] theorem State.nextPc_dict (s : State) (h : Fin 64) (l : Fin 4) : (s.nextPc h l).dict = s.dict := rfl
@[simp] theorem State.nextPc_blobs (s : State) (h : Fin 64) (l : Fin 4) : (s.nextPc h l).blobs = s.blobs := rfl
@[simp] theorem State.nextPc_mem (s : State) (h : Fin 64) (l : Fin 4) : (s.nextPc h l).mem = s.mem := rfl
@[simp] theorem State.nextPc_draws (s : State) (h : Fin 64) (l : Fin 4) : (s.nextPc h l).draws = s.draws := rfl
@[simp] theorem State.nextPc_out (s : State) (h : Fin 64) (l : Fin 4) : (s.nextPc h l).out = s.out := rfl
@[simp] theorem State.nextPc_bladeMap (s : State) (h : Fin 64) (l : Fin 4) : (s.nextPc h l).bladeMap = s.bladeMap := rfl
@[simp] theorem State.nextPc_clock (s : State) (h : Fin 64) (l : Fin 4) : (s.nextPc h l).clock = s.clock := rfl
@[simp] theorem State.nextPc_log (s : State) (h : Fin 64) (l : Fin 4) : (s.nextPc h l).log = s.log := rfl
@[simp] theorem State.nextPc_ergs (s : State) (h : Fin 64) (l : Fin 4) : (s.nextPc h l).ergs = s.ergs := rfl
@[simp] theorem State.nextPc_capture (s : State) (h : Fin 64) (l : Fin 4) : (s.nextPc h l).capture = s.capture := rfl
@[simp] theorem State.nextPc_crews (s : State) (h : Fin 64) (l : Fin 4) : (s.nextPc h l).crews = s.crews := rfl
@[simp] theorem State.nextPc_blades (s : State) (h : Fin 64) (l : Fin 4) : (s.nextPc h l).blades = s.blades := rfl
@[simp] theorem State.nextPc_sculls (s : State) (h : Fin 64) (l : Fin 4) : (s.nextPc h l).sculls = s.sculls := rfl
@[simp] theorem State.nextPc_engines (s : State) (h : Fin 64) (l : Fin 4) : (s.nextPc h l).engines = s.engines := rfl
@[simp] theorem State.nextPc_relayQueues (s : State) (h : Fin 64) (l : Fin 4) : (s.nextPc h l).relayQueues = s.relayQueues := rfl
@[simp] theorem State.nextPc_marshal (s : State) (h : Fin 64) (l : Fin 4) : (s.nextPc h l).marshal = s.marshal := rfl
@[simp] theorem State.nextPc_regions (s : State) (h : Fin 64) (l : Fin 4) : (s.nextPc h l).regions = s.regions := rfl
@[simp] theorem State.nextPc_channels (s : State) (h : Fin 64) (l : Fin 4) : (s.nextPc h l).channels = s.channels := rfl
@[simp] theorem State.nextPc_hbmStacks (s : State) (h : Fin 64) (l : Fin 4) : (s.nextPc h l).hbmStacks = s.hbmStacks := rfl
@[simp] theorem State.nextPc_dies (s : State) (h : Fin 64) (l : Fin 4) : (s.nextPc h l).dies = s.dies := rfl
@[simp] theorem State.nextPc_retrainNext (s : State) (h : Fin 64) (l : Fin 4) : (s.nextPc h l).retrainNext = s.retrainNext := rfl
@[simp] theorem State.nextPc_scullRuns (s : State) (h : Fin 64) (l : Fin 4) : (s.nextPc h l).scullRuns = s.scullRuns := rfl
@[simp] theorem State.nextPc_oarlocks (s : State) (h : Fin 64) (l : Fin 4) : (s.nextPc h l).oarlocks = s.oarlocks := rfl
@[simp] theorem State.nextPc_sweeps (s : State) (h : Fin 64) (l : Fin 4) : (s.nextPc h l).sweeps = s.sweeps := rfl
@[simp] theorem State.nextPc_telem (s : State) (h : Fin 64) (l : Fin 4) : (s.nextPc h l).telem = s.telem := rfl
@[simp] theorem State.nextPc_peers (s : State) (h : Fin 64) (l : Fin 4) : (s.nextPc h l).peers = s.peers := rfl
@[simp] theorem State.nextPc_peersFull (s : State) (h : Fin 64) (l : Fin 4) : (s.nextPc h l).peersFull = s.peersFull := rfl
@[simp] theorem State.nextPc_heldFrames (s : State) (h : Fin 64) (l : Fin 4) : (s.nextPc h l).heldFrames = s.heldFrames := rfl
@[simp] theorem State.nextPc_linkTraining (s : State) (h : Fin 64) (l : Fin 4) : (s.nextPc h l).linkTraining = s.linkTraining := rfl
@[simp] theorem State.nextPc_tags (s : State) (h : Fin 64) (l : Fin 4) : (s.nextPc h l).tags = s.tags := rfl
@[simp] theorem State.nextPc_collectives (s : State) (h : Fin 64) (l : Fin 4) : (s.nextPc h l).collectives = s.collectives := rfl
@[simp] theorem State.nextPc_pools (s : State) (h : Fin 64) (l : Fin 4) : (s.nextPc h l).pools = s.pools := rfl
@[simp] theorem State.nextPc_unsent (s : State) (h : Fin 64) (l : Fin 4) : (s.nextPc h l).unsent = s.unsent := rfl
@[simp] theorem State.nextPc_slipways (s : State) (h : Fin 64) (l : Fin 4) : (s.nextPc h l).slipways = s.slipways := rfl
@[simp] theorem State.nextPc_signer (s : State) (h : Fin 64) (l : Fin 4) : (s.nextPc h l).signer = s.signer := rfl
@[simp] theorem State.nextPc_keys (s : State) (h : Fin 64) (l : Fin 4) : (s.nextPc h l).keys = s.keys := rfl
@[simp] theorem State.nextPc_flashWrites (s : State) (h : Fin 64) (l : Fin 4) : (s.nextPc h l).flashWrites = s.flashWrites := rfl
@[simp] theorem State.nextPc_retrainLeft (s : State) (h : Fin 64) (l : Fin 4) : (s.nextPc h l).retrainLeft = s.retrainLeft := rfl
@[simp] theorem State.nextPc_rings (s : State) (h : Fin 64) (l : Fin 4) : (s.nextPc h l).rings = s.rings := rfl
@[simp] theorem State.nextPc_serviceCount (s : State) (h : Fin 64) (l : Fin 4) : (s.nextPc h l).serviceCount = s.serviceCount := rfl
@[simp] theorem State.nextPc_moveCount (s : State) (h : Fin 64) (l : Fin 4) : (s.nextPc h l).moveCount = s.moveCount := rfl
@[simp] theorem State.nextPc_trust (s : State) (h : Fin 64) (l : Fin 4) : (s.nextPc h l).trust = s.trust := rfl
@[simp] theorem State.nextPc_parts (s : State) (h : Fin 64) (l : Fin 4) : (s.nextPc h l).parts = s.parts := rfl
@[simp] theorem State.nextPc_boot (s : State) (h : Fin 64) (l : Fin 4) : (s.nextPc h l).boot = s.boot := rfl
@[simp] theorem State.nextPc_pacer (s : State) (h : Fin 64) (l : Fin 4) : (s.nextPc h l).pacer = s.pacer := rfl
@[simp] theorem State.nextPc_seat (s : State) (h : Fin 64) (l : Fin 4) : (s.nextPc h l).seat = s.seat := rfl
@[simp] theorem State.nextPc_sigDump (s : State) (h : Fin 64) (l : Fin 4) : (s.nextPc h l).sigDump = s.sigDump := rfl
@[simp] theorem State.nextPc_xefin (s : State) (h : Fin 64) (l : Fin 4) : (s.nextPc h l).xefin = s.xefin := rfl
@[simp] theorem State.nextPc_power (s : State) (h : Fin 64) (l : Fin 4) : (s.nextPc h l).power = s.power := rfl

/-! `State.bump` -/

@[simp] theorem State.bump_pending (s : State) (i j n : Nat) : (s.bump i j n).pending = s.pending := by unfold State.bump; split <;> rfl
@[simp] theorem State.bump_blobs (s : State) (i j n : Nat) : (s.bump i j n).blobs = s.blobs := by unfold State.bump; split <;> rfl
@[simp] theorem State.bump_mem (s : State) (i j n : Nat) : (s.bump i j n).mem = s.mem := by unfold State.bump; split <;> rfl
@[simp] theorem State.bump_draws (s : State) (i j n : Nat) : (s.bump i j n).draws = s.draws := by unfold State.bump; split <;> rfl
@[simp] theorem State.bump_out (s : State) (i j n : Nat) : (s.bump i j n).out = s.out := by unfold State.bump; split <;> rfl
@[simp] theorem State.bump_bladeMap (s : State) (i j n : Nat) : (s.bump i j n).bladeMap = s.bladeMap := by unfold State.bump; split <;> rfl
@[simp] theorem State.bump_clock (s : State) (i j n : Nat) : (s.bump i j n).clock = s.clock := by unfold State.bump; split <;> rfl
@[simp] theorem State.bump_log (s : State) (i j n : Nat) : (s.bump i j n).log = s.log := by unfold State.bump; split <;> rfl
@[simp] theorem State.bump_ergs (s : State) (i j n : Nat) : (s.bump i j n).ergs = s.ergs := by unfold State.bump; split <;> rfl
@[simp] theorem State.bump_capture (s : State) (i j n : Nat) : (s.bump i j n).capture = s.capture := by unfold State.bump; split <;> rfl
@[simp] theorem State.bump_heats (s : State) (i j n : Nat) : (s.bump i j n).heats = s.heats := by unfold State.bump; split <;> rfl
@[simp] theorem State.bump_crews (s : State) (i j n : Nat) : (s.bump i j n).crews = s.crews := by unfold State.bump; split <;> rfl
@[simp] theorem State.bump_blades (s : State) (i j n : Nat) : (s.bump i j n).blades = s.blades := by unfold State.bump; split <;> rfl
@[simp] theorem State.bump_sculls (s : State) (i j n : Nat) : (s.bump i j n).sculls = s.sculls := by unfold State.bump; split <;> rfl
@[simp] theorem State.bump_engines (s : State) (i j n : Nat) : (s.bump i j n).engines = s.engines := by unfold State.bump; split <;> rfl
@[simp] theorem State.bump_relayQueues (s : State) (i j n : Nat) : (s.bump i j n).relayQueues = s.relayQueues := by unfold State.bump; split <;> rfl
@[simp] theorem State.bump_marshal (s : State) (i j n : Nat) : (s.bump i j n).marshal = s.marshal := by unfold State.bump; split <;> rfl
@[simp] theorem State.bump_regions (s : State) (i j n : Nat) : (s.bump i j n).regions = s.regions := by unfold State.bump; split <;> rfl
@[simp] theorem State.bump_channels (s : State) (i j n : Nat) : (s.bump i j n).channels = s.channels := by unfold State.bump; split <;> rfl
@[simp] theorem State.bump_hbmStacks (s : State) (i j n : Nat) : (s.bump i j n).hbmStacks = s.hbmStacks := by unfold State.bump; split <;> rfl
@[simp] theorem State.bump_dies (s : State) (i j n : Nat) : (s.bump i j n).dies = s.dies := by unfold State.bump; split <;> rfl
@[simp] theorem State.bump_retrainNext (s : State) (i j n : Nat) : (s.bump i j n).retrainNext = s.retrainNext := by unfold State.bump; split <;> rfl
@[simp] theorem State.bump_scullRuns (s : State) (i j n : Nat) : (s.bump i j n).scullRuns = s.scullRuns := by unfold State.bump; split <;> rfl
@[simp] theorem State.bump_oarlocks (s : State) (i j n : Nat) : (s.bump i j n).oarlocks = s.oarlocks := by unfold State.bump; split <;> rfl
@[simp] theorem State.bump_sweeps (s : State) (i j n : Nat) : (s.bump i j n).sweeps = s.sweeps := by unfold State.bump; split <;> rfl
@[simp] theorem State.bump_telem (s : State) (i j n : Nat) : (s.bump i j n).telem = s.telem := by unfold State.bump; split <;> rfl
@[simp] theorem State.bump_peers (s : State) (i j n : Nat) : (s.bump i j n).peers = s.peers := by unfold State.bump; split <;> rfl
@[simp] theorem State.bump_peersFull (s : State) (i j n : Nat) : (s.bump i j n).peersFull = s.peersFull := by unfold State.bump; split <;> rfl
@[simp] theorem State.bump_heldFrames (s : State) (i j n : Nat) : (s.bump i j n).heldFrames = s.heldFrames := by unfold State.bump; split <;> rfl
@[simp] theorem State.bump_linkTraining (s : State) (i j n : Nat) : (s.bump i j n).linkTraining = s.linkTraining := by unfold State.bump; split <;> rfl
@[simp] theorem State.bump_tags (s : State) (i j n : Nat) : (s.bump i j n).tags = s.tags := by unfold State.bump; split <;> rfl
@[simp] theorem State.bump_collectives (s : State) (i j n : Nat) : (s.bump i j n).collectives = s.collectives := by unfold State.bump; split <;> rfl
@[simp] theorem State.bump_pools (s : State) (i j n : Nat) : (s.bump i j n).pools = s.pools := by unfold State.bump; split <;> rfl
@[simp] theorem State.bump_unsent (s : State) (i j n : Nat) : (s.bump i j n).unsent = s.unsent := by unfold State.bump; split <;> rfl
@[simp] theorem State.bump_slipways (s : State) (i j n : Nat) : (s.bump i j n).slipways = s.slipways := by unfold State.bump; split <;> rfl
@[simp] theorem State.bump_signer (s : State) (i j n : Nat) : (s.bump i j n).signer = s.signer := by unfold State.bump; split <;> rfl
@[simp] theorem State.bump_keys (s : State) (i j n : Nat) : (s.bump i j n).keys = s.keys := by unfold State.bump; split <;> rfl
@[simp] theorem State.bump_flashWrites (s : State) (i j n : Nat) : (s.bump i j n).flashWrites = s.flashWrites := by unfold State.bump; split <;> rfl
@[simp] theorem State.bump_retrainLeft (s : State) (i j n : Nat) : (s.bump i j n).retrainLeft = s.retrainLeft := by unfold State.bump; split <;> rfl
@[simp] theorem State.bump_rings (s : State) (i j n : Nat) : (s.bump i j n).rings = s.rings := by unfold State.bump; split <;> rfl
@[simp] theorem State.bump_serviceCount (s : State) (i j n : Nat) : (s.bump i j n).serviceCount = s.serviceCount := by unfold State.bump; split <;> rfl
@[simp] theorem State.bump_moveCount (s : State) (i j n : Nat) : (s.bump i j n).moveCount = s.moveCount := by unfold State.bump; split <;> rfl
@[simp] theorem State.bump_trust (s : State) (i j n : Nat) : (s.bump i j n).trust = s.trust := by unfold State.bump; split <;> rfl
@[simp] theorem State.bump_parts (s : State) (i j n : Nat) : (s.bump i j n).parts = s.parts := by unfold State.bump; split <;> rfl
@[simp] theorem State.bump_boot (s : State) (i j n : Nat) : (s.bump i j n).boot = s.boot := by unfold State.bump; split <;> rfl
@[simp] theorem State.bump_pacer (s : State) (i j n : Nat) : (s.bump i j n).pacer = s.pacer := by unfold State.bump; split <;> rfl
@[simp] theorem State.bump_seat (s : State) (i j n : Nat) : (s.bump i j n).seat = s.seat := by unfold State.bump; split <;> rfl
@[simp] theorem State.bump_sigDump (s : State) (i j n : Nat) : (s.bump i j n).sigDump = s.sigDump := by unfold State.bump; split <;> rfl
@[simp] theorem State.bump_xefin (s : State) (i j n : Nat) : (s.bump i j n).xefin = s.xefin := by unfold State.bump; split <;> rfl
@[simp] theorem State.bump_power (s : State) (i j n : Nat) : (s.bump i j n).power = s.power := by unfold State.bump; split <;> rfl

/-! `State.advanceTo` -/

@[simp] theorem State.advanceTo_pending (s : State) (t : Nat) : (s.advanceTo t).pending = s.pending := by unfold State.advanceTo; split <;> rfl
@[simp] theorem State.advanceTo_dict (s : State) (t : Nat) : (s.advanceTo t).dict = s.dict := by unfold State.advanceTo; split <;> rfl
@[simp] theorem State.advanceTo_blobs (s : State) (t : Nat) : (s.advanceTo t).blobs = s.blobs := by unfold State.advanceTo; split <;> rfl
@[simp] theorem State.advanceTo_mem (s : State) (t : Nat) : (s.advanceTo t).mem = s.mem := by unfold State.advanceTo; split <;> rfl
@[simp] theorem State.advanceTo_draws (s : State) (t : Nat) : (s.advanceTo t).draws = s.draws := by unfold State.advanceTo; split <;> rfl
@[simp] theorem State.advanceTo_out (s : State) (t : Nat) : (s.advanceTo t).out = s.out := by unfold State.advanceTo; split <;> rfl
@[simp] theorem State.advanceTo_bladeMap (s : State) (t : Nat) : (s.advanceTo t).bladeMap = s.bladeMap := by unfold State.advanceTo; split <;> rfl
@[simp] theorem State.advanceTo_log (s : State) (t : Nat) : (s.advanceTo t).log = s.log := by unfold State.advanceTo; split <;> rfl
@[simp] theorem State.advanceTo_ergs (s : State) (t : Nat) : (s.advanceTo t).ergs = s.ergs := by unfold State.advanceTo; split <;> rfl
@[simp] theorem State.advanceTo_capture (s : State) (t : Nat) : (s.advanceTo t).capture = s.capture := by unfold State.advanceTo; split <;> rfl
@[simp] theorem State.advanceTo_heats (s : State) (t : Nat) : (s.advanceTo t).heats = s.heats := by unfold State.advanceTo; split <;> rfl
@[simp] theorem State.advanceTo_crews (s : State) (t : Nat) : (s.advanceTo t).crews = s.crews := by unfold State.advanceTo; split <;> rfl
@[simp] theorem State.advanceTo_blades (s : State) (t : Nat) : (s.advanceTo t).blades = s.blades := by unfold State.advanceTo; split <;> rfl
@[simp] theorem State.advanceTo_sculls (s : State) (t : Nat) : (s.advanceTo t).sculls = s.sculls := by unfold State.advanceTo; split <;> rfl
@[simp] theorem State.advanceTo_engines (s : State) (t : Nat) : (s.advanceTo t).engines = s.engines := by unfold State.advanceTo; split <;> rfl
@[simp] theorem State.advanceTo_relayQueues (s : State) (t : Nat) : (s.advanceTo t).relayQueues = s.relayQueues := by unfold State.advanceTo; split <;> rfl
@[simp] theorem State.advanceTo_marshal (s : State) (t : Nat) : (s.advanceTo t).marshal = s.marshal := by unfold State.advanceTo; split <;> rfl
@[simp] theorem State.advanceTo_regions (s : State) (t : Nat) : (s.advanceTo t).regions = s.regions := by unfold State.advanceTo; split <;> rfl
@[simp] theorem State.advanceTo_channels (s : State) (t : Nat) : (s.advanceTo t).channels = s.channels := by unfold State.advanceTo; split <;> rfl
@[simp] theorem State.advanceTo_hbmStacks (s : State) (t : Nat) : (s.advanceTo t).hbmStacks = s.hbmStacks := by unfold State.advanceTo; split <;> rfl
@[simp] theorem State.advanceTo_dies (s : State) (t : Nat) : (s.advanceTo t).dies = s.dies := by unfold State.advanceTo; split <;> rfl
@[simp] theorem State.advanceTo_retrainNext (s : State) (t : Nat) : (s.advanceTo t).retrainNext = s.retrainNext := by unfold State.advanceTo; split <;> rfl
@[simp] theorem State.advanceTo_scullRuns (s : State) (t : Nat) : (s.advanceTo t).scullRuns = s.scullRuns := by unfold State.advanceTo; split <;> rfl
@[simp] theorem State.advanceTo_oarlocks (s : State) (t : Nat) : (s.advanceTo t).oarlocks = s.oarlocks := by unfold State.advanceTo; split <;> rfl
@[simp] theorem State.advanceTo_sweeps (s : State) (t : Nat) : (s.advanceTo t).sweeps = s.sweeps := by unfold State.advanceTo; split <;> rfl
@[simp] theorem State.advanceTo_telem (s : State) (t : Nat) : (s.advanceTo t).telem = s.telem := by unfold State.advanceTo; split <;> rfl
@[simp] theorem State.advanceTo_peers (s : State) (t : Nat) : (s.advanceTo t).peers = s.peers := by unfold State.advanceTo; split <;> rfl
@[simp] theorem State.advanceTo_peersFull (s : State) (t : Nat) : (s.advanceTo t).peersFull = s.peersFull := by unfold State.advanceTo; split <;> rfl
@[simp] theorem State.advanceTo_heldFrames (s : State) (t : Nat) : (s.advanceTo t).heldFrames = s.heldFrames := by unfold State.advanceTo; split <;> rfl
@[simp] theorem State.advanceTo_linkTraining (s : State) (t : Nat) : (s.advanceTo t).linkTraining = s.linkTraining := by unfold State.advanceTo; split <;> rfl
@[simp] theorem State.advanceTo_tags (s : State) (t : Nat) : (s.advanceTo t).tags = s.tags := by unfold State.advanceTo; split <;> rfl
@[simp] theorem State.advanceTo_collectives (s : State) (t : Nat) : (s.advanceTo t).collectives = s.collectives := by unfold State.advanceTo; split <;> rfl
@[simp] theorem State.advanceTo_pools (s : State) (t : Nat) : (s.advanceTo t).pools = s.pools := by unfold State.advanceTo; split <;> rfl
@[simp] theorem State.advanceTo_unsent (s : State) (t : Nat) : (s.advanceTo t).unsent = s.unsent := by unfold State.advanceTo; split <;> rfl
@[simp] theorem State.advanceTo_slipways (s : State) (t : Nat) : (s.advanceTo t).slipways = s.slipways := by unfold State.advanceTo; split <;> rfl
@[simp] theorem State.advanceTo_signer (s : State) (t : Nat) : (s.advanceTo t).signer = s.signer := by unfold State.advanceTo; split <;> rfl
@[simp] theorem State.advanceTo_keys (s : State) (t : Nat) : (s.advanceTo t).keys = s.keys := by unfold State.advanceTo; split <;> rfl
@[simp] theorem State.advanceTo_flashWrites (s : State) (t : Nat) : (s.advanceTo t).flashWrites = s.flashWrites := by unfold State.advanceTo; split <;> rfl
@[simp] theorem State.advanceTo_retrainLeft (s : State) (t : Nat) : (s.advanceTo t).retrainLeft = s.retrainLeft := by unfold State.advanceTo; split <;> rfl
@[simp] theorem State.advanceTo_rings (s : State) (t : Nat) : (s.advanceTo t).rings = s.rings := by unfold State.advanceTo; split <;> rfl
@[simp] theorem State.advanceTo_serviceCount (s : State) (t : Nat) : (s.advanceTo t).serviceCount = s.serviceCount := by unfold State.advanceTo; split <;> rfl
@[simp] theorem State.advanceTo_moveCount (s : State) (t : Nat) : (s.advanceTo t).moveCount = s.moveCount := by unfold State.advanceTo; split <;> rfl
@[simp] theorem State.advanceTo_trust (s : State) (t : Nat) : (s.advanceTo t).trust = s.trust := by unfold State.advanceTo; split <;> rfl
@[simp] theorem State.advanceTo_parts (s : State) (t : Nat) : (s.advanceTo t).parts = s.parts := by unfold State.advanceTo; split <;> rfl
@[simp] theorem State.advanceTo_boot (s : State) (t : Nat) : (s.advanceTo t).boot = s.boot := by unfold State.advanceTo; split <;> rfl
@[simp] theorem State.advanceTo_pacer (s : State) (t : Nat) : (s.advanceTo t).pacer = s.pacer := by unfold State.advanceTo; split <;> rfl
@[simp] theorem State.advanceTo_seat (s : State) (t : Nat) : (s.advanceTo t).seat = s.seat := by unfold State.advanceTo; split <;> rfl
@[simp] theorem State.advanceTo_sigDump (s : State) (t : Nat) : (s.advanceTo t).sigDump = s.sigDump := by unfold State.advanceTo; split <;> rfl
@[simp] theorem State.advanceTo_xefin (s : State) (t : Nat) : (s.advanceTo t).xefin = s.xefin := by unfold State.advanceTo; split <;> rfl
@[simp] theorem State.advanceTo_power (s : State) (t : Nat) : (s.advanceTo t).power = s.power := by unfold State.advanceTo; split <;> rfl

/-! `State.raiseOn` -/

@[simp] theorem State.raiseOn_pending (s : State) (d : Fin 2) (e : Event) : (s.raiseOn d e).pending = s.pending := by unfold State.raiseOn; dsimp only; split <;> simp
@[simp] theorem State.raiseOn_blobs (s : State) (d : Fin 2) (e : Event) : (s.raiseOn d e).blobs = s.blobs := by unfold State.raiseOn; dsimp only; split <;> simp
@[simp] theorem State.raiseOn_mem (s : State) (d : Fin 2) (e : Event) : (s.raiseOn d e).mem = s.mem := by unfold State.raiseOn; dsimp only; split <;> simp
@[simp] theorem State.raiseOn_draws (s : State) (d : Fin 2) (e : Event) : (s.raiseOn d e).draws = s.draws := by unfold State.raiseOn; dsimp only; split <;> simp
@[simp] theorem State.raiseOn_out (s : State) (d : Fin 2) (e : Event) : (s.raiseOn d e).out = s.out := by unfold State.raiseOn; dsimp only; split <;> simp
@[simp] theorem State.raiseOn_bladeMap (s : State) (d : Fin 2) (e : Event) : (s.raiseOn d e).bladeMap = s.bladeMap := by unfold State.raiseOn; dsimp only; split <;> simp
@[simp] theorem State.raiseOn_clock (s : State) (d : Fin 2) (e : Event) : (s.raiseOn d e).clock = s.clock := by unfold State.raiseOn; dsimp only; split <;> simp
@[simp] theorem State.raiseOn_ergs (s : State) (d : Fin 2) (e : Event) : (s.raiseOn d e).ergs = s.ergs := by unfold State.raiseOn; dsimp only; split <;> simp
@[simp] theorem State.raiseOn_capture (s : State) (d : Fin 2) (e : Event) : (s.raiseOn d e).capture = s.capture := by unfold State.raiseOn; dsimp only; split <;> simp
@[simp] theorem State.raiseOn_heats (s : State) (d : Fin 2) (e : Event) : (s.raiseOn d e).heats = s.heats := by unfold State.raiseOn; dsimp only; split <;> simp
@[simp] theorem State.raiseOn_crews (s : State) (d : Fin 2) (e : Event) : (s.raiseOn d e).crews = s.crews := by unfold State.raiseOn; dsimp only; split <;> simp
@[simp] theorem State.raiseOn_blades (s : State) (d : Fin 2) (e : Event) : (s.raiseOn d e).blades = s.blades := by unfold State.raiseOn; dsimp only; split <;> simp
@[simp] theorem State.raiseOn_sculls (s : State) (d : Fin 2) (e : Event) : (s.raiseOn d e).sculls = s.sculls := by unfold State.raiseOn; dsimp only; split <;> simp
@[simp] theorem State.raiseOn_engines (s : State) (d : Fin 2) (e : Event) : (s.raiseOn d e).engines = s.engines := by unfold State.raiseOn; dsimp only; split <;> simp
@[simp] theorem State.raiseOn_relayQueues (s : State) (d : Fin 2) (e : Event) : (s.raiseOn d e).relayQueues = s.relayQueues := by unfold State.raiseOn; dsimp only; split <;> simp
@[simp] theorem State.raiseOn_marshal (s : State) (d : Fin 2) (e : Event) : (s.raiseOn d e).marshal = s.marshal := by unfold State.raiseOn; dsimp only; split <;> simp
@[simp] theorem State.raiseOn_regions (s : State) (d : Fin 2) (e : Event) : (s.raiseOn d e).regions = s.regions := by unfold State.raiseOn; dsimp only; split <;> simp
@[simp] theorem State.raiseOn_channels (s : State) (d : Fin 2) (e : Event) : (s.raiseOn d e).channels = s.channels := by unfold State.raiseOn; dsimp only; split <;> simp
@[simp] theorem State.raiseOn_hbmStacks (s : State) (d : Fin 2) (e : Event) : (s.raiseOn d e).hbmStacks = s.hbmStacks := by unfold State.raiseOn; dsimp only; split <;> simp
@[simp] theorem State.raiseOn_dies (s : State) (d : Fin 2) (e : Event) : (s.raiseOn d e).dies = s.dies := by unfold State.raiseOn; dsimp only; split <;> simp
@[simp] theorem State.raiseOn_retrainNext (s : State) (d : Fin 2) (e : Event) : (s.raiseOn d e).retrainNext = s.retrainNext := by unfold State.raiseOn; dsimp only; split <;> simp
@[simp] theorem State.raiseOn_scullRuns (s : State) (d : Fin 2) (e : Event) : (s.raiseOn d e).scullRuns = s.scullRuns := by unfold State.raiseOn; dsimp only; split <;> simp
@[simp] theorem State.raiseOn_oarlocks (s : State) (d : Fin 2) (e : Event) : (s.raiseOn d e).oarlocks = s.oarlocks := by unfold State.raiseOn; dsimp only; split <;> simp
@[simp] theorem State.raiseOn_sweeps (s : State) (d : Fin 2) (e : Event) : (s.raiseOn d e).sweeps = s.sweeps := by unfold State.raiseOn; dsimp only; split <;> simp
@[simp] theorem State.raiseOn_telem (s : State) (d : Fin 2) (e : Event) : (s.raiseOn d e).telem = s.telem := by unfold State.raiseOn; dsimp only; split <;> simp
@[simp] theorem State.raiseOn_peers (s : State) (d : Fin 2) (e : Event) : (s.raiseOn d e).peers = s.peers := by unfold State.raiseOn; dsimp only; split <;> simp
@[simp] theorem State.raiseOn_peersFull (s : State) (d : Fin 2) (e : Event) : (s.raiseOn d e).peersFull = s.peersFull := by unfold State.raiseOn; dsimp only; split <;> simp
@[simp] theorem State.raiseOn_heldFrames (s : State) (d : Fin 2) (e : Event) : (s.raiseOn d e).heldFrames = s.heldFrames := by unfold State.raiseOn; dsimp only; split <;> simp
@[simp] theorem State.raiseOn_linkTraining (s : State) (d : Fin 2) (e : Event) : (s.raiseOn d e).linkTraining = s.linkTraining := by unfold State.raiseOn; dsimp only; split <;> simp
@[simp] theorem State.raiseOn_tags (s : State) (d : Fin 2) (e : Event) : (s.raiseOn d e).tags = s.tags := by unfold State.raiseOn; dsimp only; split <;> simp
@[simp] theorem State.raiseOn_collectives (s : State) (d : Fin 2) (e : Event) : (s.raiseOn d e).collectives = s.collectives := by unfold State.raiseOn; dsimp only; split <;> simp
@[simp] theorem State.raiseOn_pools (s : State) (d : Fin 2) (e : Event) : (s.raiseOn d e).pools = s.pools := by unfold State.raiseOn; dsimp only; split <;> simp
@[simp] theorem State.raiseOn_unsent (s : State) (d : Fin 2) (e : Event) : (s.raiseOn d e).unsent = s.unsent := by unfold State.raiseOn; dsimp only; split <;> simp
@[simp] theorem State.raiseOn_slipways (s : State) (d : Fin 2) (e : Event) : (s.raiseOn d e).slipways = s.slipways := by unfold State.raiseOn; dsimp only; split <;> simp
@[simp] theorem State.raiseOn_signer (s : State) (d : Fin 2) (e : Event) : (s.raiseOn d e).signer = s.signer := by unfold State.raiseOn; dsimp only; split <;> simp
@[simp] theorem State.raiseOn_keys (s : State) (d : Fin 2) (e : Event) : (s.raiseOn d e).keys = s.keys := by unfold State.raiseOn; dsimp only; split <;> simp
@[simp] theorem State.raiseOn_flashWrites (s : State) (d : Fin 2) (e : Event) : (s.raiseOn d e).flashWrites = s.flashWrites := by unfold State.raiseOn; dsimp only; split <;> simp
@[simp] theorem State.raiseOn_retrainLeft (s : State) (d : Fin 2) (e : Event) : (s.raiseOn d e).retrainLeft = s.retrainLeft := by unfold State.raiseOn; dsimp only; split <;> simp
@[simp] theorem State.raiseOn_rings (s : State) (d : Fin 2) (e : Event) : (s.raiseOn d e).rings = s.rings := by unfold State.raiseOn; dsimp only; split <;> simp
@[simp] theorem State.raiseOn_serviceCount (s : State) (d : Fin 2) (e : Event) : (s.raiseOn d e).serviceCount = s.serviceCount := by unfold State.raiseOn; dsimp only; split <;> simp
@[simp] theorem State.raiseOn_moveCount (s : State) (d : Fin 2) (e : Event) : (s.raiseOn d e).moveCount = s.moveCount := by unfold State.raiseOn; dsimp only; split <;> simp
@[simp] theorem State.raiseOn_trust (s : State) (d : Fin 2) (e : Event) : (s.raiseOn d e).trust = s.trust := by unfold State.raiseOn; dsimp only; split <;> simp
@[simp] theorem State.raiseOn_parts (s : State) (d : Fin 2) (e : Event) : (s.raiseOn d e).parts = s.parts := by unfold State.raiseOn; dsimp only; split <;> simp
@[simp] theorem State.raiseOn_boot (s : State) (d : Fin 2) (e : Event) : (s.raiseOn d e).boot = s.boot := by unfold State.raiseOn; dsimp only; split <;> simp
@[simp] theorem State.raiseOn_pacer (s : State) (d : Fin 2) (e : Event) : (s.raiseOn d e).pacer = s.pacer := by unfold State.raiseOn; dsimp only; split <;> simp
@[simp] theorem State.raiseOn_seat (s : State) (d : Fin 2) (e : Event) : (s.raiseOn d e).seat = s.seat := by unfold State.raiseOn; dsimp only; split <;> simp
@[simp] theorem State.raiseOn_sigDump (s : State) (d : Fin 2) (e : Event) : (s.raiseOn d e).sigDump = s.sigDump := by unfold State.raiseOn; dsimp only; split <;> simp
@[simp] theorem State.raiseOn_xefin (s : State) (d : Fin 2) (e : Event) : (s.raiseOn d e).xefin = s.xefin := by unfold State.raiseOn; dsimp only; split <;> simp
@[simp] theorem State.raiseOn_power (s : State) (d : Fin 2) (e : Event) : (s.raiseOn d e).power = s.power := by unfold State.raiseOn; dsimp only; split <;> simp

/-! `State.raise` -/

@[simp] theorem State.raise_pending (s : State) (c : Nat) (p : List Int) : (s.raise c p).pending = s.pending := by simp [State.raise]
@[simp] theorem State.raise_blobs (s : State) (c : Nat) (p : List Int) : (s.raise c p).blobs = s.blobs := by simp [State.raise]
@[simp] theorem State.raise_mem (s : State) (c : Nat) (p : List Int) : (s.raise c p).mem = s.mem := by simp [State.raise]
@[simp] theorem State.raise_draws (s : State) (c : Nat) (p : List Int) : (s.raise c p).draws = s.draws := by simp [State.raise]
@[simp] theorem State.raise_out (s : State) (c : Nat) (p : List Int) : (s.raise c p).out = s.out := by simp [State.raise]
@[simp] theorem State.raise_bladeMap (s : State) (c : Nat) (p : List Int) : (s.raise c p).bladeMap = s.bladeMap := by simp [State.raise]
@[simp] theorem State.raise_clock (s : State) (c : Nat) (p : List Int) : (s.raise c p).clock = s.clock := by simp [State.raise]
@[simp] theorem State.raise_ergs (s : State) (c : Nat) (p : List Int) : (s.raise c p).ergs = s.ergs := by simp [State.raise]
@[simp] theorem State.raise_capture (s : State) (c : Nat) (p : List Int) : (s.raise c p).capture = s.capture := by simp [State.raise]
@[simp] theorem State.raise_heats (s : State) (c : Nat) (p : List Int) : (s.raise c p).heats = s.heats := by simp [State.raise]
@[simp] theorem State.raise_crews (s : State) (c : Nat) (p : List Int) : (s.raise c p).crews = s.crews := by simp [State.raise]
@[simp] theorem State.raise_blades (s : State) (c : Nat) (p : List Int) : (s.raise c p).blades = s.blades := by simp [State.raise]
@[simp] theorem State.raise_sculls (s : State) (c : Nat) (p : List Int) : (s.raise c p).sculls = s.sculls := by simp [State.raise]
@[simp] theorem State.raise_engines (s : State) (c : Nat) (p : List Int) : (s.raise c p).engines = s.engines := by simp [State.raise]
@[simp] theorem State.raise_relayQueues (s : State) (c : Nat) (p : List Int) : (s.raise c p).relayQueues = s.relayQueues := by simp [State.raise]
@[simp] theorem State.raise_marshal (s : State) (c : Nat) (p : List Int) : (s.raise c p).marshal = s.marshal := by simp [State.raise]
@[simp] theorem State.raise_regions (s : State) (c : Nat) (p : List Int) : (s.raise c p).regions = s.regions := by simp [State.raise]
@[simp] theorem State.raise_channels (s : State) (c : Nat) (p : List Int) : (s.raise c p).channels = s.channels := by simp [State.raise]
@[simp] theorem State.raise_hbmStacks (s : State) (c : Nat) (p : List Int) : (s.raise c p).hbmStacks = s.hbmStacks := by simp [State.raise]
@[simp] theorem State.raise_dies (s : State) (c : Nat) (p : List Int) : (s.raise c p).dies = s.dies := by simp [State.raise]
@[simp] theorem State.raise_retrainNext (s : State) (c : Nat) (p : List Int) : (s.raise c p).retrainNext = s.retrainNext := by simp [State.raise]
@[simp] theorem State.raise_scullRuns (s : State) (c : Nat) (p : List Int) : (s.raise c p).scullRuns = s.scullRuns := by simp [State.raise]
@[simp] theorem State.raise_oarlocks (s : State) (c : Nat) (p : List Int) : (s.raise c p).oarlocks = s.oarlocks := by simp [State.raise]
@[simp] theorem State.raise_sweeps (s : State) (c : Nat) (p : List Int) : (s.raise c p).sweeps = s.sweeps := by simp [State.raise]
@[simp] theorem State.raise_telem (s : State) (c : Nat) (p : List Int) : (s.raise c p).telem = s.telem := by simp [State.raise]
@[simp] theorem State.raise_peers (s : State) (c : Nat) (p : List Int) : (s.raise c p).peers = s.peers := by simp [State.raise]
@[simp] theorem State.raise_peersFull (s : State) (c : Nat) (p : List Int) : (s.raise c p).peersFull = s.peersFull := by simp [State.raise]
@[simp] theorem State.raise_heldFrames (s : State) (c : Nat) (p : List Int) : (s.raise c p).heldFrames = s.heldFrames := by simp [State.raise]
@[simp] theorem State.raise_linkTraining (s : State) (c : Nat) (p : List Int) : (s.raise c p).linkTraining = s.linkTraining := by simp [State.raise]
@[simp] theorem State.raise_tags (s : State) (c : Nat) (p : List Int) : (s.raise c p).tags = s.tags := by simp [State.raise]
@[simp] theorem State.raise_collectives (s : State) (c : Nat) (p : List Int) : (s.raise c p).collectives = s.collectives := by simp [State.raise]
@[simp] theorem State.raise_pools (s : State) (c : Nat) (p : List Int) : (s.raise c p).pools = s.pools := by simp [State.raise]
@[simp] theorem State.raise_unsent (s : State) (c : Nat) (p : List Int) : (s.raise c p).unsent = s.unsent := by simp [State.raise]
@[simp] theorem State.raise_slipways (s : State) (c : Nat) (p : List Int) : (s.raise c p).slipways = s.slipways := by simp [State.raise]
@[simp] theorem State.raise_signer (s : State) (c : Nat) (p : List Int) : (s.raise c p).signer = s.signer := by simp [State.raise]
@[simp] theorem State.raise_keys (s : State) (c : Nat) (p : List Int) : (s.raise c p).keys = s.keys := by simp [State.raise]
@[simp] theorem State.raise_flashWrites (s : State) (c : Nat) (p : List Int) : (s.raise c p).flashWrites = s.flashWrites := by simp [State.raise]
@[simp] theorem State.raise_retrainLeft (s : State) (c : Nat) (p : List Int) : (s.raise c p).retrainLeft = s.retrainLeft := by simp [State.raise]
@[simp] theorem State.raise_rings (s : State) (c : Nat) (p : List Int) : (s.raise c p).rings = s.rings := by simp [State.raise]
@[simp] theorem State.raise_serviceCount (s : State) (c : Nat) (p : List Int) : (s.raise c p).serviceCount = s.serviceCount := by simp [State.raise]
@[simp] theorem State.raise_moveCount (s : State) (c : Nat) (p : List Int) : (s.raise c p).moveCount = s.moveCount := by simp [State.raise]
@[simp] theorem State.raise_trust (s : State) (c : Nat) (p : List Int) : (s.raise c p).trust = s.trust := by simp [State.raise]
@[simp] theorem State.raise_parts (s : State) (c : Nat) (p : List Int) : (s.raise c p).parts = s.parts := by simp [State.raise]
@[simp] theorem State.raise_boot (s : State) (c : Nat) (p : List Int) : (s.raise c p).boot = s.boot := by simp [State.raise]
@[simp] theorem State.raise_pacer (s : State) (c : Nat) (p : List Int) : (s.raise c p).pacer = s.pacer := by simp [State.raise]
@[simp] theorem State.raise_seat (s : State) (c : Nat) (p : List Int) : (s.raise c p).seat = s.seat := by simp [State.raise]
@[simp] theorem State.raise_sigDump (s : State) (c : Nat) (p : List Int) : (s.raise c p).sigDump = s.sigDump := by simp [State.raise]
@[simp] theorem State.raise_xefin (s : State) (c : Nat) (p : List Int) : (s.raise c p).xefin = s.xefin := by simp [State.raise]
@[simp] theorem State.raise_power (s : State) (c : Nat) (p : List Int) : (s.raise c p).power = s.power := by simp [State.raise]

/-! `State.raiseHeat` -/

@[simp] theorem State.raiseHeat_pending (s : State) (h : Fin 64) (c : Nat) (p : List Int) : (s.raiseHeat h c p).pending = s.pending := by simp [State.raiseHeat]
@[simp] theorem State.raiseHeat_blobs (s : State) (h : Fin 64) (c : Nat) (p : List Int) : (s.raiseHeat h c p).blobs = s.blobs := by simp [State.raiseHeat]
@[simp] theorem State.raiseHeat_mem (s : State) (h : Fin 64) (c : Nat) (p : List Int) : (s.raiseHeat h c p).mem = s.mem := by simp [State.raiseHeat]
@[simp] theorem State.raiseHeat_draws (s : State) (h : Fin 64) (c : Nat) (p : List Int) : (s.raiseHeat h c p).draws = s.draws := by simp [State.raiseHeat]
@[simp] theorem State.raiseHeat_out (s : State) (h : Fin 64) (c : Nat) (p : List Int) : (s.raiseHeat h c p).out = s.out := by simp [State.raiseHeat]
@[simp] theorem State.raiseHeat_bladeMap (s : State) (h : Fin 64) (c : Nat) (p : List Int) : (s.raiseHeat h c p).bladeMap = s.bladeMap := by simp [State.raiseHeat]
@[simp] theorem State.raiseHeat_clock (s : State) (h : Fin 64) (c : Nat) (p : List Int) : (s.raiseHeat h c p).clock = s.clock := by simp [State.raiseHeat]
@[simp] theorem State.raiseHeat_ergs (s : State) (h : Fin 64) (c : Nat) (p : List Int) : (s.raiseHeat h c p).ergs = s.ergs := by simp [State.raiseHeat]
@[simp] theorem State.raiseHeat_capture (s : State) (h : Fin 64) (c : Nat) (p : List Int) : (s.raiseHeat h c p).capture = s.capture := by simp [State.raiseHeat]
@[simp] theorem State.raiseHeat_heats (s : State) (h : Fin 64) (c : Nat) (p : List Int) : (s.raiseHeat h c p).heats = s.heats := by simp [State.raiseHeat]
@[simp] theorem State.raiseHeat_crews (s : State) (h : Fin 64) (c : Nat) (p : List Int) : (s.raiseHeat h c p).crews = s.crews := by simp [State.raiseHeat]
@[simp] theorem State.raiseHeat_blades (s : State) (h : Fin 64) (c : Nat) (p : List Int) : (s.raiseHeat h c p).blades = s.blades := by simp [State.raiseHeat]
@[simp] theorem State.raiseHeat_sculls (s : State) (h : Fin 64) (c : Nat) (p : List Int) : (s.raiseHeat h c p).sculls = s.sculls := by simp [State.raiseHeat]
@[simp] theorem State.raiseHeat_engines (s : State) (h : Fin 64) (c : Nat) (p : List Int) : (s.raiseHeat h c p).engines = s.engines := by simp [State.raiseHeat]
@[simp] theorem State.raiseHeat_relayQueues (s : State) (h : Fin 64) (c : Nat) (p : List Int) : (s.raiseHeat h c p).relayQueues = s.relayQueues := by simp [State.raiseHeat]
@[simp] theorem State.raiseHeat_marshal (s : State) (h : Fin 64) (c : Nat) (p : List Int) : (s.raiseHeat h c p).marshal = s.marshal := by simp [State.raiseHeat]
@[simp] theorem State.raiseHeat_regions (s : State) (h : Fin 64) (c : Nat) (p : List Int) : (s.raiseHeat h c p).regions = s.regions := by simp [State.raiseHeat]
@[simp] theorem State.raiseHeat_channels (s : State) (h : Fin 64) (c : Nat) (p : List Int) : (s.raiseHeat h c p).channels = s.channels := by simp [State.raiseHeat]
@[simp] theorem State.raiseHeat_hbmStacks (s : State) (h : Fin 64) (c : Nat) (p : List Int) : (s.raiseHeat h c p).hbmStacks = s.hbmStacks := by simp [State.raiseHeat]
@[simp] theorem State.raiseHeat_dies (s : State) (h : Fin 64) (c : Nat) (p : List Int) : (s.raiseHeat h c p).dies = s.dies := by simp [State.raiseHeat]
@[simp] theorem State.raiseHeat_retrainNext (s : State) (h : Fin 64) (c : Nat) (p : List Int) : (s.raiseHeat h c p).retrainNext = s.retrainNext := by simp [State.raiseHeat]
@[simp] theorem State.raiseHeat_scullRuns (s : State) (h : Fin 64) (c : Nat) (p : List Int) : (s.raiseHeat h c p).scullRuns = s.scullRuns := by simp [State.raiseHeat]
@[simp] theorem State.raiseHeat_oarlocks (s : State) (h : Fin 64) (c : Nat) (p : List Int) : (s.raiseHeat h c p).oarlocks = s.oarlocks := by simp [State.raiseHeat]
@[simp] theorem State.raiseHeat_sweeps (s : State) (h : Fin 64) (c : Nat) (p : List Int) : (s.raiseHeat h c p).sweeps = s.sweeps := by simp [State.raiseHeat]
@[simp] theorem State.raiseHeat_telem (s : State) (h : Fin 64) (c : Nat) (p : List Int) : (s.raiseHeat h c p).telem = s.telem := by simp [State.raiseHeat]
@[simp] theorem State.raiseHeat_peers (s : State) (h : Fin 64) (c : Nat) (p : List Int) : (s.raiseHeat h c p).peers = s.peers := by simp [State.raiseHeat]
@[simp] theorem State.raiseHeat_peersFull (s : State) (h : Fin 64) (c : Nat) (p : List Int) : (s.raiseHeat h c p).peersFull = s.peersFull := by simp [State.raiseHeat]
@[simp] theorem State.raiseHeat_heldFrames (s : State) (h : Fin 64) (c : Nat) (p : List Int) : (s.raiseHeat h c p).heldFrames = s.heldFrames := by simp [State.raiseHeat]
@[simp] theorem State.raiseHeat_linkTraining (s : State) (h : Fin 64) (c : Nat) (p : List Int) : (s.raiseHeat h c p).linkTraining = s.linkTraining := by simp [State.raiseHeat]
@[simp] theorem State.raiseHeat_tags (s : State) (h : Fin 64) (c : Nat) (p : List Int) : (s.raiseHeat h c p).tags = s.tags := by simp [State.raiseHeat]
@[simp] theorem State.raiseHeat_collectives (s : State) (h : Fin 64) (c : Nat) (p : List Int) : (s.raiseHeat h c p).collectives = s.collectives := by simp [State.raiseHeat]
@[simp] theorem State.raiseHeat_pools (s : State) (h : Fin 64) (c : Nat) (p : List Int) : (s.raiseHeat h c p).pools = s.pools := by simp [State.raiseHeat]
@[simp] theorem State.raiseHeat_unsent (s : State) (h : Fin 64) (c : Nat) (p : List Int) : (s.raiseHeat h c p).unsent = s.unsent := by simp [State.raiseHeat]
@[simp] theorem State.raiseHeat_slipways (s : State) (h : Fin 64) (c : Nat) (p : List Int) : (s.raiseHeat h c p).slipways = s.slipways := by simp [State.raiseHeat]
@[simp] theorem State.raiseHeat_signer (s : State) (h : Fin 64) (c : Nat) (p : List Int) : (s.raiseHeat h c p).signer = s.signer := by simp [State.raiseHeat]
@[simp] theorem State.raiseHeat_keys (s : State) (h : Fin 64) (c : Nat) (p : List Int) : (s.raiseHeat h c p).keys = s.keys := by simp [State.raiseHeat]
@[simp] theorem State.raiseHeat_flashWrites (s : State) (h : Fin 64) (c : Nat) (p : List Int) : (s.raiseHeat h c p).flashWrites = s.flashWrites := by simp [State.raiseHeat]
@[simp] theorem State.raiseHeat_retrainLeft (s : State) (h : Fin 64) (c : Nat) (p : List Int) : (s.raiseHeat h c p).retrainLeft = s.retrainLeft := by simp [State.raiseHeat]
@[simp] theorem State.raiseHeat_rings (s : State) (h : Fin 64) (c : Nat) (p : List Int) : (s.raiseHeat h c p).rings = s.rings := by simp [State.raiseHeat]
@[simp] theorem State.raiseHeat_serviceCount (s : State) (h : Fin 64) (c : Nat) (p : List Int) : (s.raiseHeat h c p).serviceCount = s.serviceCount := by simp [State.raiseHeat]
@[simp] theorem State.raiseHeat_moveCount (s : State) (h : Fin 64) (c : Nat) (p : List Int) : (s.raiseHeat h c p).moveCount = s.moveCount := by simp [State.raiseHeat]
@[simp] theorem State.raiseHeat_trust (s : State) (h : Fin 64) (c : Nat) (p : List Int) : (s.raiseHeat h c p).trust = s.trust := by simp [State.raiseHeat]
@[simp] theorem State.raiseHeat_parts (s : State) (h : Fin 64) (c : Nat) (p : List Int) : (s.raiseHeat h c p).parts = s.parts := by simp [State.raiseHeat]
@[simp] theorem State.raiseHeat_boot (s : State) (h : Fin 64) (c : Nat) (p : List Int) : (s.raiseHeat h c p).boot = s.boot := by simp [State.raiseHeat]
@[simp] theorem State.raiseHeat_pacer (s : State) (h : Fin 64) (c : Nat) (p : List Int) : (s.raiseHeat h c p).pacer = s.pacer := by simp [State.raiseHeat]
@[simp] theorem State.raiseHeat_seat (s : State) (h : Fin 64) (c : Nat) (p : List Int) : (s.raiseHeat h c p).seat = s.seat := by simp [State.raiseHeat]
@[simp] theorem State.raiseHeat_sigDump (s : State) (h : Fin 64) (c : Nat) (p : List Int) : (s.raiseHeat h c p).sigDump = s.sigDump := by simp [State.raiseHeat]
@[simp] theorem State.raiseHeat_xefin (s : State) (h : Fin 64) (c : Nat) (p : List Int) : (s.raiseHeat h c p).xefin = s.xefin := by simp [State.raiseHeat]
@[simp] theorem State.raiseHeat_power (s : State) (h : Fin 64) (c : Nat) (p : List Int) : (s.raiseHeat h c p).power = s.power := by simp [State.raiseHeat]

/-! `State.raiseUnit` -/

@[simp] theorem State.raiseUnit_pending (s : State) (d : Fin 2) (c u i : Nat) (p : List Int) : (s.raiseUnit d c u i p).pending = s.pending := by simp [State.raiseUnit]
@[simp] theorem State.raiseUnit_blobs (s : State) (d : Fin 2) (c u i : Nat) (p : List Int) : (s.raiseUnit d c u i p).blobs = s.blobs := by simp [State.raiseUnit]
@[simp] theorem State.raiseUnit_mem (s : State) (d : Fin 2) (c u i : Nat) (p : List Int) : (s.raiseUnit d c u i p).mem = s.mem := by simp [State.raiseUnit]
@[simp] theorem State.raiseUnit_draws (s : State) (d : Fin 2) (c u i : Nat) (p : List Int) : (s.raiseUnit d c u i p).draws = s.draws := by simp [State.raiseUnit]
@[simp] theorem State.raiseUnit_out (s : State) (d : Fin 2) (c u i : Nat) (p : List Int) : (s.raiseUnit d c u i p).out = s.out := by simp [State.raiseUnit]
@[simp] theorem State.raiseUnit_bladeMap (s : State) (d : Fin 2) (c u i : Nat) (p : List Int) : (s.raiseUnit d c u i p).bladeMap = s.bladeMap := by simp [State.raiseUnit]
@[simp] theorem State.raiseUnit_clock (s : State) (d : Fin 2) (c u i : Nat) (p : List Int) : (s.raiseUnit d c u i p).clock = s.clock := by simp [State.raiseUnit]
@[simp] theorem State.raiseUnit_ergs (s : State) (d : Fin 2) (c u i : Nat) (p : List Int) : (s.raiseUnit d c u i p).ergs = s.ergs := by simp [State.raiseUnit]
@[simp] theorem State.raiseUnit_capture (s : State) (d : Fin 2) (c u i : Nat) (p : List Int) : (s.raiseUnit d c u i p).capture = s.capture := by simp [State.raiseUnit]
@[simp] theorem State.raiseUnit_heats (s : State) (d : Fin 2) (c u i : Nat) (p : List Int) : (s.raiseUnit d c u i p).heats = s.heats := by simp [State.raiseUnit]
@[simp] theorem State.raiseUnit_crews (s : State) (d : Fin 2) (c u i : Nat) (p : List Int) : (s.raiseUnit d c u i p).crews = s.crews := by simp [State.raiseUnit]
@[simp] theorem State.raiseUnit_blades (s : State) (d : Fin 2) (c u i : Nat) (p : List Int) : (s.raiseUnit d c u i p).blades = s.blades := by simp [State.raiseUnit]
@[simp] theorem State.raiseUnit_sculls (s : State) (d : Fin 2) (c u i : Nat) (p : List Int) : (s.raiseUnit d c u i p).sculls = s.sculls := by simp [State.raiseUnit]
@[simp] theorem State.raiseUnit_engines (s : State) (d : Fin 2) (c u i : Nat) (p : List Int) : (s.raiseUnit d c u i p).engines = s.engines := by simp [State.raiseUnit]
@[simp] theorem State.raiseUnit_relayQueues (s : State) (d : Fin 2) (c u i : Nat) (p : List Int) : (s.raiseUnit d c u i p).relayQueues = s.relayQueues := by simp [State.raiseUnit]
@[simp] theorem State.raiseUnit_marshal (s : State) (d : Fin 2) (c u i : Nat) (p : List Int) : (s.raiseUnit d c u i p).marshal = s.marshal := by simp [State.raiseUnit]
@[simp] theorem State.raiseUnit_regions (s : State) (d : Fin 2) (c u i : Nat) (p : List Int) : (s.raiseUnit d c u i p).regions = s.regions := by simp [State.raiseUnit]
@[simp] theorem State.raiseUnit_channels (s : State) (d : Fin 2) (c u i : Nat) (p : List Int) : (s.raiseUnit d c u i p).channels = s.channels := by simp [State.raiseUnit]
@[simp] theorem State.raiseUnit_hbmStacks (s : State) (d : Fin 2) (c u i : Nat) (p : List Int) : (s.raiseUnit d c u i p).hbmStacks = s.hbmStacks := by simp [State.raiseUnit]
@[simp] theorem State.raiseUnit_dies (s : State) (d : Fin 2) (c u i : Nat) (p : List Int) : (s.raiseUnit d c u i p).dies = s.dies := by simp [State.raiseUnit]
@[simp] theorem State.raiseUnit_retrainNext (s : State) (d : Fin 2) (c u i : Nat) (p : List Int) : (s.raiseUnit d c u i p).retrainNext = s.retrainNext := by simp [State.raiseUnit]
@[simp] theorem State.raiseUnit_scullRuns (s : State) (d : Fin 2) (c u i : Nat) (p : List Int) : (s.raiseUnit d c u i p).scullRuns = s.scullRuns := by simp [State.raiseUnit]
@[simp] theorem State.raiseUnit_oarlocks (s : State) (d : Fin 2) (c u i : Nat) (p : List Int) : (s.raiseUnit d c u i p).oarlocks = s.oarlocks := by simp [State.raiseUnit]
@[simp] theorem State.raiseUnit_sweeps (s : State) (d : Fin 2) (c u i : Nat) (p : List Int) : (s.raiseUnit d c u i p).sweeps = s.sweeps := by simp [State.raiseUnit]
@[simp] theorem State.raiseUnit_telem (s : State) (d : Fin 2) (c u i : Nat) (p : List Int) : (s.raiseUnit d c u i p).telem = s.telem := by simp [State.raiseUnit]
@[simp] theorem State.raiseUnit_peers (s : State) (d : Fin 2) (c u i : Nat) (p : List Int) : (s.raiseUnit d c u i p).peers = s.peers := by simp [State.raiseUnit]
@[simp] theorem State.raiseUnit_peersFull (s : State) (d : Fin 2) (c u i : Nat) (p : List Int) : (s.raiseUnit d c u i p).peersFull = s.peersFull := by simp [State.raiseUnit]
@[simp] theorem State.raiseUnit_heldFrames (s : State) (d : Fin 2) (c u i : Nat) (p : List Int) : (s.raiseUnit d c u i p).heldFrames = s.heldFrames := by simp [State.raiseUnit]
@[simp] theorem State.raiseUnit_linkTraining (s : State) (d : Fin 2) (c u i : Nat) (p : List Int) : (s.raiseUnit d c u i p).linkTraining = s.linkTraining := by simp [State.raiseUnit]
@[simp] theorem State.raiseUnit_tags (s : State) (d : Fin 2) (c u i : Nat) (p : List Int) : (s.raiseUnit d c u i p).tags = s.tags := by simp [State.raiseUnit]
@[simp] theorem State.raiseUnit_collectives (s : State) (d : Fin 2) (c u i : Nat) (p : List Int) : (s.raiseUnit d c u i p).collectives = s.collectives := by simp [State.raiseUnit]
@[simp] theorem State.raiseUnit_pools (s : State) (d : Fin 2) (c u i : Nat) (p : List Int) : (s.raiseUnit d c u i p).pools = s.pools := by simp [State.raiseUnit]
@[simp] theorem State.raiseUnit_unsent (s : State) (d : Fin 2) (c u i : Nat) (p : List Int) : (s.raiseUnit d c u i p).unsent = s.unsent := by simp [State.raiseUnit]
@[simp] theorem State.raiseUnit_slipways (s : State) (d : Fin 2) (c u i : Nat) (p : List Int) : (s.raiseUnit d c u i p).slipways = s.slipways := by simp [State.raiseUnit]
@[simp] theorem State.raiseUnit_signer (s : State) (d : Fin 2) (c u i : Nat) (p : List Int) : (s.raiseUnit d c u i p).signer = s.signer := by simp [State.raiseUnit]
@[simp] theorem State.raiseUnit_keys (s : State) (d : Fin 2) (c u i : Nat) (p : List Int) : (s.raiseUnit d c u i p).keys = s.keys := by simp [State.raiseUnit]
@[simp] theorem State.raiseUnit_flashWrites (s : State) (d : Fin 2) (c u i : Nat) (p : List Int) : (s.raiseUnit d c u i p).flashWrites = s.flashWrites := by simp [State.raiseUnit]
@[simp] theorem State.raiseUnit_retrainLeft (s : State) (d : Fin 2) (c u i : Nat) (p : List Int) : (s.raiseUnit d c u i p).retrainLeft = s.retrainLeft := by simp [State.raiseUnit]
@[simp] theorem State.raiseUnit_rings (s : State) (d : Fin 2) (c u i : Nat) (p : List Int) : (s.raiseUnit d c u i p).rings = s.rings := by simp [State.raiseUnit]
@[simp] theorem State.raiseUnit_serviceCount (s : State) (d : Fin 2) (c u i : Nat) (p : List Int) : (s.raiseUnit d c u i p).serviceCount = s.serviceCount := by simp [State.raiseUnit]
@[simp] theorem State.raiseUnit_moveCount (s : State) (d : Fin 2) (c u i : Nat) (p : List Int) : (s.raiseUnit d c u i p).moveCount = s.moveCount := by simp [State.raiseUnit]
@[simp] theorem State.raiseUnit_trust (s : State) (d : Fin 2) (c u i : Nat) (p : List Int) : (s.raiseUnit d c u i p).trust = s.trust := by simp [State.raiseUnit]
@[simp] theorem State.raiseUnit_parts (s : State) (d : Fin 2) (c u i : Nat) (p : List Int) : (s.raiseUnit d c u i p).parts = s.parts := by simp [State.raiseUnit]
@[simp] theorem State.raiseUnit_boot (s : State) (d : Fin 2) (c u i : Nat) (p : List Int) : (s.raiseUnit d c u i p).boot = s.boot := by simp [State.raiseUnit]
@[simp] theorem State.raiseUnit_pacer (s : State) (d : Fin 2) (c u i : Nat) (p : List Int) : (s.raiseUnit d c u i p).pacer = s.pacer := by simp [State.raiseUnit]
@[simp] theorem State.raiseUnit_seat (s : State) (d : Fin 2) (c u i : Nat) (p : List Int) : (s.raiseUnit d c u i p).seat = s.seat := by simp [State.raiseUnit]
@[simp] theorem State.raiseUnit_sigDump (s : State) (d : Fin 2) (c u i : Nat) (p : List Int) : (s.raiseUnit d c u i p).sigDump = s.sigDump := by simp [State.raiseUnit]
@[simp] theorem State.raiseUnit_xefin (s : State) (d : Fin 2) (c u i : Nat) (p : List Int) : (s.raiseUnit d c u i p).xefin = s.xefin := by simp [State.raiseUnit]
@[simp] theorem State.raiseUnit_power (s : State) (d : Fin 2) (c u i : Nat) (p : List Int) : (s.raiseUnit d c u i p).power = s.power := by simp [State.raiseUnit]

/-! `State.raiseRegion` -/

@[simp] theorem State.raiseRegion_pending (s : State) (r : Fin 64) (c : Nat) (p : List Int) : (s.raiseRegion r c p).pending = s.pending := by simp [State.raiseRegion]
@[simp] theorem State.raiseRegion_blobs (s : State) (r : Fin 64) (c : Nat) (p : List Int) : (s.raiseRegion r c p).blobs = s.blobs := by simp [State.raiseRegion]
@[simp] theorem State.raiseRegion_mem (s : State) (r : Fin 64) (c : Nat) (p : List Int) : (s.raiseRegion r c p).mem = s.mem := by simp [State.raiseRegion]
@[simp] theorem State.raiseRegion_draws (s : State) (r : Fin 64) (c : Nat) (p : List Int) : (s.raiseRegion r c p).draws = s.draws := by simp [State.raiseRegion]
@[simp] theorem State.raiseRegion_out (s : State) (r : Fin 64) (c : Nat) (p : List Int) : (s.raiseRegion r c p).out = s.out := by simp [State.raiseRegion]
@[simp] theorem State.raiseRegion_bladeMap (s : State) (r : Fin 64) (c : Nat) (p : List Int) : (s.raiseRegion r c p).bladeMap = s.bladeMap := by simp [State.raiseRegion]
@[simp] theorem State.raiseRegion_clock (s : State) (r : Fin 64) (c : Nat) (p : List Int) : (s.raiseRegion r c p).clock = s.clock := by simp [State.raiseRegion]
@[simp] theorem State.raiseRegion_ergs (s : State) (r : Fin 64) (c : Nat) (p : List Int) : (s.raiseRegion r c p).ergs = s.ergs := by simp [State.raiseRegion]
@[simp] theorem State.raiseRegion_capture (s : State) (r : Fin 64) (c : Nat) (p : List Int) : (s.raiseRegion r c p).capture = s.capture := by simp [State.raiseRegion]
@[simp] theorem State.raiseRegion_heats (s : State) (r : Fin 64) (c : Nat) (p : List Int) : (s.raiseRegion r c p).heats = s.heats := by simp [State.raiseRegion]
@[simp] theorem State.raiseRegion_crews (s : State) (r : Fin 64) (c : Nat) (p : List Int) : (s.raiseRegion r c p).crews = s.crews := by simp [State.raiseRegion]
@[simp] theorem State.raiseRegion_blades (s : State) (r : Fin 64) (c : Nat) (p : List Int) : (s.raiseRegion r c p).blades = s.blades := by simp [State.raiseRegion]
@[simp] theorem State.raiseRegion_sculls (s : State) (r : Fin 64) (c : Nat) (p : List Int) : (s.raiseRegion r c p).sculls = s.sculls := by simp [State.raiseRegion]
@[simp] theorem State.raiseRegion_engines (s : State) (r : Fin 64) (c : Nat) (p : List Int) : (s.raiseRegion r c p).engines = s.engines := by simp [State.raiseRegion]
@[simp] theorem State.raiseRegion_relayQueues (s : State) (r : Fin 64) (c : Nat) (p : List Int) : (s.raiseRegion r c p).relayQueues = s.relayQueues := by simp [State.raiseRegion]
@[simp] theorem State.raiseRegion_marshal (s : State) (r : Fin 64) (c : Nat) (p : List Int) : (s.raiseRegion r c p).marshal = s.marshal := by simp [State.raiseRegion]
@[simp] theorem State.raiseRegion_regions (s : State) (r : Fin 64) (c : Nat) (p : List Int) : (s.raiseRegion r c p).regions = s.regions := by simp [State.raiseRegion]
@[simp] theorem State.raiseRegion_channels (s : State) (r : Fin 64) (c : Nat) (p : List Int) : (s.raiseRegion r c p).channels = s.channels := by simp [State.raiseRegion]
@[simp] theorem State.raiseRegion_hbmStacks (s : State) (r : Fin 64) (c : Nat) (p : List Int) : (s.raiseRegion r c p).hbmStacks = s.hbmStacks := by simp [State.raiseRegion]
@[simp] theorem State.raiseRegion_dies (s : State) (r : Fin 64) (c : Nat) (p : List Int) : (s.raiseRegion r c p).dies = s.dies := by simp [State.raiseRegion]
@[simp] theorem State.raiseRegion_retrainNext (s : State) (r : Fin 64) (c : Nat) (p : List Int) : (s.raiseRegion r c p).retrainNext = s.retrainNext := by simp [State.raiseRegion]
@[simp] theorem State.raiseRegion_scullRuns (s : State) (r : Fin 64) (c : Nat) (p : List Int) : (s.raiseRegion r c p).scullRuns = s.scullRuns := by simp [State.raiseRegion]
@[simp] theorem State.raiseRegion_oarlocks (s : State) (r : Fin 64) (c : Nat) (p : List Int) : (s.raiseRegion r c p).oarlocks = s.oarlocks := by simp [State.raiseRegion]
@[simp] theorem State.raiseRegion_sweeps (s : State) (r : Fin 64) (c : Nat) (p : List Int) : (s.raiseRegion r c p).sweeps = s.sweeps := by simp [State.raiseRegion]
@[simp] theorem State.raiseRegion_telem (s : State) (r : Fin 64) (c : Nat) (p : List Int) : (s.raiseRegion r c p).telem = s.telem := by simp [State.raiseRegion]
@[simp] theorem State.raiseRegion_peers (s : State) (r : Fin 64) (c : Nat) (p : List Int) : (s.raiseRegion r c p).peers = s.peers := by simp [State.raiseRegion]
@[simp] theorem State.raiseRegion_peersFull (s : State) (r : Fin 64) (c : Nat) (p : List Int) : (s.raiseRegion r c p).peersFull = s.peersFull := by simp [State.raiseRegion]
@[simp] theorem State.raiseRegion_heldFrames (s : State) (r : Fin 64) (c : Nat) (p : List Int) : (s.raiseRegion r c p).heldFrames = s.heldFrames := by simp [State.raiseRegion]
@[simp] theorem State.raiseRegion_linkTraining (s : State) (r : Fin 64) (c : Nat) (p : List Int) : (s.raiseRegion r c p).linkTraining = s.linkTraining := by simp [State.raiseRegion]
@[simp] theorem State.raiseRegion_tags (s : State) (r : Fin 64) (c : Nat) (p : List Int) : (s.raiseRegion r c p).tags = s.tags := by simp [State.raiseRegion]
@[simp] theorem State.raiseRegion_collectives (s : State) (r : Fin 64) (c : Nat) (p : List Int) : (s.raiseRegion r c p).collectives = s.collectives := by simp [State.raiseRegion]
@[simp] theorem State.raiseRegion_pools (s : State) (r : Fin 64) (c : Nat) (p : List Int) : (s.raiseRegion r c p).pools = s.pools := by simp [State.raiseRegion]
@[simp] theorem State.raiseRegion_unsent (s : State) (r : Fin 64) (c : Nat) (p : List Int) : (s.raiseRegion r c p).unsent = s.unsent := by simp [State.raiseRegion]
@[simp] theorem State.raiseRegion_slipways (s : State) (r : Fin 64) (c : Nat) (p : List Int) : (s.raiseRegion r c p).slipways = s.slipways := by simp [State.raiseRegion]
@[simp] theorem State.raiseRegion_signer (s : State) (r : Fin 64) (c : Nat) (p : List Int) : (s.raiseRegion r c p).signer = s.signer := by simp [State.raiseRegion]
@[simp] theorem State.raiseRegion_keys (s : State) (r : Fin 64) (c : Nat) (p : List Int) : (s.raiseRegion r c p).keys = s.keys := by simp [State.raiseRegion]
@[simp] theorem State.raiseRegion_flashWrites (s : State) (r : Fin 64) (c : Nat) (p : List Int) : (s.raiseRegion r c p).flashWrites = s.flashWrites := by simp [State.raiseRegion]
@[simp] theorem State.raiseRegion_retrainLeft (s : State) (r : Fin 64) (c : Nat) (p : List Int) : (s.raiseRegion r c p).retrainLeft = s.retrainLeft := by simp [State.raiseRegion]
@[simp] theorem State.raiseRegion_rings (s : State) (r : Fin 64) (c : Nat) (p : List Int) : (s.raiseRegion r c p).rings = s.rings := by simp [State.raiseRegion]
@[simp] theorem State.raiseRegion_serviceCount (s : State) (r : Fin 64) (c : Nat) (p : List Int) : (s.raiseRegion r c p).serviceCount = s.serviceCount := by simp [State.raiseRegion]
@[simp] theorem State.raiseRegion_moveCount (s : State) (r : Fin 64) (c : Nat) (p : List Int) : (s.raiseRegion r c p).moveCount = s.moveCount := by simp [State.raiseRegion]
@[simp] theorem State.raiseRegion_trust (s : State) (r : Fin 64) (c : Nat) (p : List Int) : (s.raiseRegion r c p).trust = s.trust := by simp [State.raiseRegion]
@[simp] theorem State.raiseRegion_parts (s : State) (r : Fin 64) (c : Nat) (p : List Int) : (s.raiseRegion r c p).parts = s.parts := by simp [State.raiseRegion]
@[simp] theorem State.raiseRegion_boot (s : State) (r : Fin 64) (c : Nat) (p : List Int) : (s.raiseRegion r c p).boot = s.boot := by simp [State.raiseRegion]
@[simp] theorem State.raiseRegion_pacer (s : State) (r : Fin 64) (c : Nat) (p : List Int) : (s.raiseRegion r c p).pacer = s.pacer := by simp [State.raiseRegion]
@[simp] theorem State.raiseRegion_seat (s : State) (r : Fin 64) (c : Nat) (p : List Int) : (s.raiseRegion r c p).seat = s.seat := by simp [State.raiseRegion]
@[simp] theorem State.raiseRegion_sigDump (s : State) (r : Fin 64) (c : Nat) (p : List Int) : (s.raiseRegion r c p).sigDump = s.sigDump := by simp [State.raiseRegion]
@[simp] theorem State.raiseRegion_xefin (s : State) (r : Fin 64) (c : Nat) (p : List Int) : (s.raiseRegion r c p).xefin = s.xefin := by simp [State.raiseRegion]
@[simp] theorem State.raiseRegion_power (s : State) (r : Fin 64) (c : Nat) (p : List Int) : (s.raiseRegion r c p).power = s.power := by simp [State.raiseRegion]

/-! `State.raiseBlade` -/

@[simp] theorem State.raiseBlade_pending (s : State) (n : Fin 4) (h : Fin 64) (c : Nat) (p : List Int) : (s.raiseBlade n h c p).pending = s.pending := by simp [State.raiseBlade]
@[simp] theorem State.raiseBlade_blobs (s : State) (n : Fin 4) (h : Fin 64) (c : Nat) (p : List Int) : (s.raiseBlade n h c p).blobs = s.blobs := by simp [State.raiseBlade]
@[simp] theorem State.raiseBlade_mem (s : State) (n : Fin 4) (h : Fin 64) (c : Nat) (p : List Int) : (s.raiseBlade n h c p).mem = s.mem := by simp [State.raiseBlade]
@[simp] theorem State.raiseBlade_draws (s : State) (n : Fin 4) (h : Fin 64) (c : Nat) (p : List Int) : (s.raiseBlade n h c p).draws = s.draws := by simp [State.raiseBlade]
@[simp] theorem State.raiseBlade_out (s : State) (n : Fin 4) (h : Fin 64) (c : Nat) (p : List Int) : (s.raiseBlade n h c p).out = s.out := by simp [State.raiseBlade]
@[simp] theorem State.raiseBlade_bladeMap (s : State) (n : Fin 4) (h : Fin 64) (c : Nat) (p : List Int) : (s.raiseBlade n h c p).bladeMap = s.bladeMap := by simp [State.raiseBlade]
@[simp] theorem State.raiseBlade_clock (s : State) (n : Fin 4) (h : Fin 64) (c : Nat) (p : List Int) : (s.raiseBlade n h c p).clock = s.clock := by simp [State.raiseBlade]
@[simp] theorem State.raiseBlade_ergs (s : State) (n : Fin 4) (h : Fin 64) (c : Nat) (p : List Int) : (s.raiseBlade n h c p).ergs = s.ergs := by simp [State.raiseBlade]
@[simp] theorem State.raiseBlade_capture (s : State) (n : Fin 4) (h : Fin 64) (c : Nat) (p : List Int) : (s.raiseBlade n h c p).capture = s.capture := by simp [State.raiseBlade]
@[simp] theorem State.raiseBlade_heats (s : State) (n : Fin 4) (h : Fin 64) (c : Nat) (p : List Int) : (s.raiseBlade n h c p).heats = s.heats := by simp [State.raiseBlade]
@[simp] theorem State.raiseBlade_crews (s : State) (n : Fin 4) (h : Fin 64) (c : Nat) (p : List Int) : (s.raiseBlade n h c p).crews = s.crews := by simp [State.raiseBlade]
@[simp] theorem State.raiseBlade_blades (s : State) (n : Fin 4) (h : Fin 64) (c : Nat) (p : List Int) : (s.raiseBlade n h c p).blades = s.blades := by simp [State.raiseBlade]
@[simp] theorem State.raiseBlade_sculls (s : State) (n : Fin 4) (h : Fin 64) (c : Nat) (p : List Int) : (s.raiseBlade n h c p).sculls = s.sculls := by simp [State.raiseBlade]
@[simp] theorem State.raiseBlade_engines (s : State) (n : Fin 4) (h : Fin 64) (c : Nat) (p : List Int) : (s.raiseBlade n h c p).engines = s.engines := by simp [State.raiseBlade]
@[simp] theorem State.raiseBlade_relayQueues (s : State) (n : Fin 4) (h : Fin 64) (c : Nat) (p : List Int) : (s.raiseBlade n h c p).relayQueues = s.relayQueues := by simp [State.raiseBlade]
@[simp] theorem State.raiseBlade_marshal (s : State) (n : Fin 4) (h : Fin 64) (c : Nat) (p : List Int) : (s.raiseBlade n h c p).marshal = s.marshal := by simp [State.raiseBlade]
@[simp] theorem State.raiseBlade_regions (s : State) (n : Fin 4) (h : Fin 64) (c : Nat) (p : List Int) : (s.raiseBlade n h c p).regions = s.regions := by simp [State.raiseBlade]
@[simp] theorem State.raiseBlade_channels (s : State) (n : Fin 4) (h : Fin 64) (c : Nat) (p : List Int) : (s.raiseBlade n h c p).channels = s.channels := by simp [State.raiseBlade]
@[simp] theorem State.raiseBlade_hbmStacks (s : State) (n : Fin 4) (h : Fin 64) (c : Nat) (p : List Int) : (s.raiseBlade n h c p).hbmStacks = s.hbmStacks := by simp [State.raiseBlade]
@[simp] theorem State.raiseBlade_dies (s : State) (n : Fin 4) (h : Fin 64) (c : Nat) (p : List Int) : (s.raiseBlade n h c p).dies = s.dies := by simp [State.raiseBlade]
@[simp] theorem State.raiseBlade_retrainNext (s : State) (n : Fin 4) (h : Fin 64) (c : Nat) (p : List Int) : (s.raiseBlade n h c p).retrainNext = s.retrainNext := by simp [State.raiseBlade]
@[simp] theorem State.raiseBlade_scullRuns (s : State) (n : Fin 4) (h : Fin 64) (c : Nat) (p : List Int) : (s.raiseBlade n h c p).scullRuns = s.scullRuns := by simp [State.raiseBlade]
@[simp] theorem State.raiseBlade_oarlocks (s : State) (n : Fin 4) (h : Fin 64) (c : Nat) (p : List Int) : (s.raiseBlade n h c p).oarlocks = s.oarlocks := by simp [State.raiseBlade]
@[simp] theorem State.raiseBlade_sweeps (s : State) (n : Fin 4) (h : Fin 64) (c : Nat) (p : List Int) : (s.raiseBlade n h c p).sweeps = s.sweeps := by simp [State.raiseBlade]
@[simp] theorem State.raiseBlade_telem (s : State) (n : Fin 4) (h : Fin 64) (c : Nat) (p : List Int) : (s.raiseBlade n h c p).telem = s.telem := by simp [State.raiseBlade]
@[simp] theorem State.raiseBlade_peers (s : State) (n : Fin 4) (h : Fin 64) (c : Nat) (p : List Int) : (s.raiseBlade n h c p).peers = s.peers := by simp [State.raiseBlade]
@[simp] theorem State.raiseBlade_peersFull (s : State) (n : Fin 4) (h : Fin 64) (c : Nat) (p : List Int) : (s.raiseBlade n h c p).peersFull = s.peersFull := by simp [State.raiseBlade]
@[simp] theorem State.raiseBlade_heldFrames (s : State) (n : Fin 4) (h : Fin 64) (c : Nat) (p : List Int) : (s.raiseBlade n h c p).heldFrames = s.heldFrames := by simp [State.raiseBlade]
@[simp] theorem State.raiseBlade_linkTraining (s : State) (n : Fin 4) (h : Fin 64) (c : Nat) (p : List Int) : (s.raiseBlade n h c p).linkTraining = s.linkTraining := by simp [State.raiseBlade]
@[simp] theorem State.raiseBlade_tags (s : State) (n : Fin 4) (h : Fin 64) (c : Nat) (p : List Int) : (s.raiseBlade n h c p).tags = s.tags := by simp [State.raiseBlade]
@[simp] theorem State.raiseBlade_collectives (s : State) (n : Fin 4) (h : Fin 64) (c : Nat) (p : List Int) : (s.raiseBlade n h c p).collectives = s.collectives := by simp [State.raiseBlade]
@[simp] theorem State.raiseBlade_pools (s : State) (n : Fin 4) (h : Fin 64) (c : Nat) (p : List Int) : (s.raiseBlade n h c p).pools = s.pools := by simp [State.raiseBlade]
@[simp] theorem State.raiseBlade_unsent (s : State) (n : Fin 4) (h : Fin 64) (c : Nat) (p : List Int) : (s.raiseBlade n h c p).unsent = s.unsent := by simp [State.raiseBlade]
@[simp] theorem State.raiseBlade_slipways (s : State) (n : Fin 4) (h : Fin 64) (c : Nat) (p : List Int) : (s.raiseBlade n h c p).slipways = s.slipways := by simp [State.raiseBlade]
@[simp] theorem State.raiseBlade_signer (s : State) (n : Fin 4) (h : Fin 64) (c : Nat) (p : List Int) : (s.raiseBlade n h c p).signer = s.signer := by simp [State.raiseBlade]
@[simp] theorem State.raiseBlade_keys (s : State) (n : Fin 4) (h : Fin 64) (c : Nat) (p : List Int) : (s.raiseBlade n h c p).keys = s.keys := by simp [State.raiseBlade]
@[simp] theorem State.raiseBlade_flashWrites (s : State) (n : Fin 4) (h : Fin 64) (c : Nat) (p : List Int) : (s.raiseBlade n h c p).flashWrites = s.flashWrites := by simp [State.raiseBlade]
@[simp] theorem State.raiseBlade_retrainLeft (s : State) (n : Fin 4) (h : Fin 64) (c : Nat) (p : List Int) : (s.raiseBlade n h c p).retrainLeft = s.retrainLeft := by simp [State.raiseBlade]
@[simp] theorem State.raiseBlade_rings (s : State) (n : Fin 4) (h : Fin 64) (c : Nat) (p : List Int) : (s.raiseBlade n h c p).rings = s.rings := by simp [State.raiseBlade]
@[simp] theorem State.raiseBlade_serviceCount (s : State) (n : Fin 4) (h : Fin 64) (c : Nat) (p : List Int) : (s.raiseBlade n h c p).serviceCount = s.serviceCount := by simp [State.raiseBlade]
@[simp] theorem State.raiseBlade_moveCount (s : State) (n : Fin 4) (h : Fin 64) (c : Nat) (p : List Int) : (s.raiseBlade n h c p).moveCount = s.moveCount := by simp [State.raiseBlade]
@[simp] theorem State.raiseBlade_trust (s : State) (n : Fin 4) (h : Fin 64) (c : Nat) (p : List Int) : (s.raiseBlade n h c p).trust = s.trust := by simp [State.raiseBlade]
@[simp] theorem State.raiseBlade_parts (s : State) (n : Fin 4) (h : Fin 64) (c : Nat) (p : List Int) : (s.raiseBlade n h c p).parts = s.parts := by simp [State.raiseBlade]
@[simp] theorem State.raiseBlade_boot (s : State) (n : Fin 4) (h : Fin 64) (c : Nat) (p : List Int) : (s.raiseBlade n h c p).boot = s.boot := by simp [State.raiseBlade]
@[simp] theorem State.raiseBlade_pacer (s : State) (n : Fin 4) (h : Fin 64) (c : Nat) (p : List Int) : (s.raiseBlade n h c p).pacer = s.pacer := by simp [State.raiseBlade]
@[simp] theorem State.raiseBlade_seat (s : State) (n : Fin 4) (h : Fin 64) (c : Nat) (p : List Int) : (s.raiseBlade n h c p).seat = s.seat := by simp [State.raiseBlade]
@[simp] theorem State.raiseBlade_sigDump (s : State) (n : Fin 4) (h : Fin 64) (c : Nat) (p : List Int) : (s.raiseBlade n h c p).sigDump = s.sigDump := by simp [State.raiseBlade]
@[simp] theorem State.raiseBlade_xefin (s : State) (n : Fin 4) (h : Fin 64) (c : Nat) (p : List Int) : (s.raiseBlade n h c p).xefin = s.xefin := by simp [State.raiseBlade]
@[simp] theorem State.raiseBlade_power (s : State) (n : Fin 4) (h : Fin 64) (c : Nat) (p : List Int) : (s.raiseBlade n h c p).power = s.power := by simp [State.raiseBlade]

/-! `State.setQueue` -/

@[simp] theorem State.setQueue_pending (s : State) (u : UnitId) (q : UnitQueue) : (s.setQueue u q).pending = s.pending := by cases u <;> rfl
@[simp] theorem State.setQueue_dict (s : State) (u : UnitId) (q : UnitQueue) : (s.setQueue u q).dict = s.dict := by cases u <;> rfl
@[simp] theorem State.setQueue_blobs (s : State) (u : UnitId) (q : UnitQueue) : (s.setQueue u q).blobs = s.blobs := by cases u <;> rfl
@[simp] theorem State.setQueue_mem (s : State) (u : UnitId) (q : UnitQueue) : (s.setQueue u q).mem = s.mem := by cases u <;> rfl
@[simp] theorem State.setQueue_draws (s : State) (u : UnitId) (q : UnitQueue) : (s.setQueue u q).draws = s.draws := by cases u <;> rfl
@[simp] theorem State.setQueue_out (s : State) (u : UnitId) (q : UnitQueue) : (s.setQueue u q).out = s.out := by cases u <;> rfl
@[simp] theorem State.setQueue_bladeMap (s : State) (u : UnitId) (q : UnitQueue) : (s.setQueue u q).bladeMap = s.bladeMap := by cases u <;> rfl
@[simp] theorem State.setQueue_clock (s : State) (u : UnitId) (q : UnitQueue) : (s.setQueue u q).clock = s.clock := by cases u <;> rfl
@[simp] theorem State.setQueue_log (s : State) (u : UnitId) (q : UnitQueue) : (s.setQueue u q).log = s.log := by cases u <;> rfl
@[simp] theorem State.setQueue_ergs (s : State) (u : UnitId) (q : UnitQueue) : (s.setQueue u q).ergs = s.ergs := by cases u <;> rfl
@[simp] theorem State.setQueue_capture (s : State) (u : UnitId) (q : UnitQueue) : (s.setQueue u q).capture = s.capture := by cases u <;> rfl
@[simp] theorem State.setQueue_heats (s : State) (u : UnitId) (q : UnitQueue) : (s.setQueue u q).heats = s.heats := by cases u <;> rfl
@[simp] theorem State.setQueue_crews (s : State) (u : UnitId) (q : UnitQueue) : (s.setQueue u q).crews = s.crews := by cases u <;> rfl
@[simp] theorem State.setQueue_marshal (s : State) (u : UnitId) (q : UnitQueue) : (s.setQueue u q).marshal = s.marshal := by cases u <;> rfl
@[simp] theorem State.setQueue_regions (s : State) (u : UnitId) (q : UnitQueue) : (s.setQueue u q).regions = s.regions := by cases u <;> rfl
@[simp] theorem State.setQueue_channels (s : State) (u : UnitId) (q : UnitQueue) : (s.setQueue u q).channels = s.channels := by cases u <;> rfl
@[simp] theorem State.setQueue_hbmStacks (s : State) (u : UnitId) (q : UnitQueue) : (s.setQueue u q).hbmStacks = s.hbmStacks := by cases u <;> rfl
@[simp] theorem State.setQueue_dies (s : State) (u : UnitId) (q : UnitQueue) : (s.setQueue u q).dies = s.dies := by cases u <;> rfl
@[simp] theorem State.setQueue_retrainNext (s : State) (u : UnitId) (q : UnitQueue) : (s.setQueue u q).retrainNext = s.retrainNext := by cases u <;> rfl
@[simp] theorem State.setQueue_scullRuns (s : State) (u : UnitId) (q : UnitQueue) : (s.setQueue u q).scullRuns = s.scullRuns := by cases u <;> rfl
@[simp] theorem State.setQueue_oarlocks (s : State) (u : UnitId) (q : UnitQueue) : (s.setQueue u q).oarlocks = s.oarlocks := by cases u <;> rfl
@[simp] theorem State.setQueue_sweeps (s : State) (u : UnitId) (q : UnitQueue) : (s.setQueue u q).sweeps = s.sweeps := by cases u <;> rfl
@[simp] theorem State.setQueue_telem (s : State) (u : UnitId) (q : UnitQueue) : (s.setQueue u q).telem = s.telem := by cases u <;> rfl
@[simp] theorem State.setQueue_peers (s : State) (u : UnitId) (q : UnitQueue) : (s.setQueue u q).peers = s.peers := by cases u <;> rfl
@[simp] theorem State.setQueue_peersFull (s : State) (u : UnitId) (q : UnitQueue) : (s.setQueue u q).peersFull = s.peersFull := by cases u <;> rfl
@[simp] theorem State.setQueue_heldFrames (s : State) (u : UnitId) (q : UnitQueue) : (s.setQueue u q).heldFrames = s.heldFrames := by cases u <;> rfl
@[simp] theorem State.setQueue_linkTraining (s : State) (u : UnitId) (q : UnitQueue) : (s.setQueue u q).linkTraining = s.linkTraining := by cases u <;> rfl
@[simp] theorem State.setQueue_tags (s : State) (u : UnitId) (q : UnitQueue) : (s.setQueue u q).tags = s.tags := by cases u <;> rfl
@[simp] theorem State.setQueue_collectives (s : State) (u : UnitId) (q : UnitQueue) : (s.setQueue u q).collectives = s.collectives := by cases u <;> rfl
@[simp] theorem State.setQueue_pools (s : State) (u : UnitId) (q : UnitQueue) : (s.setQueue u q).pools = s.pools := by cases u <;> rfl
@[simp] theorem State.setQueue_unsent (s : State) (u : UnitId) (q : UnitQueue) : (s.setQueue u q).unsent = s.unsent := by cases u <;> rfl
@[simp] theorem State.setQueue_slipways (s : State) (u : UnitId) (q : UnitQueue) : (s.setQueue u q).slipways = s.slipways := by cases u <;> rfl
@[simp] theorem State.setQueue_signer (s : State) (u : UnitId) (q : UnitQueue) : (s.setQueue u q).signer = s.signer := by cases u <;> rfl
@[simp] theorem State.setQueue_keys (s : State) (u : UnitId) (q : UnitQueue) : (s.setQueue u q).keys = s.keys := by cases u <;> rfl
@[simp] theorem State.setQueue_flashWrites (s : State) (u : UnitId) (q : UnitQueue) : (s.setQueue u q).flashWrites = s.flashWrites := by cases u <;> rfl
@[simp] theorem State.setQueue_retrainLeft (s : State) (u : UnitId) (q : UnitQueue) : (s.setQueue u q).retrainLeft = s.retrainLeft := by cases u <;> rfl
@[simp] theorem State.setQueue_rings (s : State) (u : UnitId) (q : UnitQueue) : (s.setQueue u q).rings = s.rings := by cases u <;> rfl
@[simp] theorem State.setQueue_serviceCount (s : State) (u : UnitId) (q : UnitQueue) : (s.setQueue u q).serviceCount = s.serviceCount := by cases u <;> rfl
@[simp] theorem State.setQueue_moveCount (s : State) (u : UnitId) (q : UnitQueue) : (s.setQueue u q).moveCount = s.moveCount := by cases u <;> rfl
@[simp] theorem State.setQueue_trust (s : State) (u : UnitId) (q : UnitQueue) : (s.setQueue u q).trust = s.trust := by cases u <;> rfl
@[simp] theorem State.setQueue_parts (s : State) (u : UnitId) (q : UnitQueue) : (s.setQueue u q).parts = s.parts := by cases u <;> rfl
@[simp] theorem State.setQueue_boot (s : State) (u : UnitId) (q : UnitQueue) : (s.setQueue u q).boot = s.boot := by cases u <;> rfl
@[simp] theorem State.setQueue_pacer (s : State) (u : UnitId) (q : UnitQueue) : (s.setQueue u q).pacer = s.pacer := by cases u <;> rfl
@[simp] theorem State.setQueue_seat (s : State) (u : UnitId) (q : UnitQueue) : (s.setQueue u q).seat = s.seat := by cases u <;> rfl
@[simp] theorem State.setQueue_sigDump (s : State) (u : UnitId) (q : UnitQueue) : (s.setQueue u q).sigDump = s.sigDump := by cases u <;> rfl
@[simp] theorem State.setQueue_xefin (s : State) (u : UnitId) (q : UnitQueue) : (s.setQueue u q).xefin = s.xefin := by cases u <;> rfl
@[simp] theorem State.setQueue_power (s : State) (u : UnitId) (q : UnitQueue) : (s.setQueue u q).power = s.power := by cases u <;> rfl

/-! `State.setSem` -/

@[simp] theorem State.setSem_pending (s : State) (h : Fin 64) (k v : Nat) : (s.setSem h k v).pending = s.pending := by unfold State.setSem; split <;> rfl
@[simp] theorem State.setSem_dict (s : State) (h : Fin 64) (k v : Nat) : (s.setSem h k v).dict = s.dict := by unfold State.setSem; split <;> rfl
@[simp] theorem State.setSem_blobs (s : State) (h : Fin 64) (k v : Nat) : (s.setSem h k v).blobs = s.blobs := by unfold State.setSem; split <;> rfl
@[simp] theorem State.setSem_mem (s : State) (h : Fin 64) (k v : Nat) : (s.setSem h k v).mem = s.mem := by unfold State.setSem; split <;> rfl
@[simp] theorem State.setSem_draws (s : State) (h : Fin 64) (k v : Nat) : (s.setSem h k v).draws = s.draws := by unfold State.setSem; split <;> rfl
@[simp] theorem State.setSem_out (s : State) (h : Fin 64) (k v : Nat) : (s.setSem h k v).out = s.out := by unfold State.setSem; split <;> rfl
@[simp] theorem State.setSem_bladeMap (s : State) (h : Fin 64) (k v : Nat) : (s.setSem h k v).bladeMap = s.bladeMap := by unfold State.setSem; split <;> rfl
@[simp] theorem State.setSem_clock (s : State) (h : Fin 64) (k v : Nat) : (s.setSem h k v).clock = s.clock := by unfold State.setSem; split <;> rfl
@[simp] theorem State.setSem_log (s : State) (h : Fin 64) (k v : Nat) : (s.setSem h k v).log = s.log := by unfold State.setSem; split <;> rfl
@[simp] theorem State.setSem_ergs (s : State) (h : Fin 64) (k v : Nat) : (s.setSem h k v).ergs = s.ergs := by unfold State.setSem; split <;> rfl
@[simp] theorem State.setSem_capture (s : State) (h : Fin 64) (k v : Nat) : (s.setSem h k v).capture = s.capture := by unfold State.setSem; split <;> rfl
@[simp] theorem State.setSem_blades (s : State) (h : Fin 64) (k v : Nat) : (s.setSem h k v).blades = s.blades := by unfold State.setSem; split <;> rfl
@[simp] theorem State.setSem_sculls (s : State) (h : Fin 64) (k v : Nat) : (s.setSem h k v).sculls = s.sculls := by unfold State.setSem; split <;> rfl
@[simp] theorem State.setSem_engines (s : State) (h : Fin 64) (k v : Nat) : (s.setSem h k v).engines = s.engines := by unfold State.setSem; split <;> rfl
@[simp] theorem State.setSem_relayQueues (s : State) (h : Fin 64) (k v : Nat) : (s.setSem h k v).relayQueues = s.relayQueues := by unfold State.setSem; split <;> rfl
@[simp] theorem State.setSem_marshal (s : State) (h : Fin 64) (k v : Nat) : (s.setSem h k v).marshal = s.marshal := by unfold State.setSem; split <;> rfl
@[simp] theorem State.setSem_regions (s : State) (h : Fin 64) (k v : Nat) : (s.setSem h k v).regions = s.regions := by unfold State.setSem; split <;> rfl
@[simp] theorem State.setSem_channels (s : State) (h : Fin 64) (k v : Nat) : (s.setSem h k v).channels = s.channels := by unfold State.setSem; split <;> rfl
@[simp] theorem State.setSem_hbmStacks (s : State) (h : Fin 64) (k v : Nat) : (s.setSem h k v).hbmStacks = s.hbmStacks := by unfold State.setSem; split <;> rfl
@[simp] theorem State.setSem_dies (s : State) (h : Fin 64) (k v : Nat) : (s.setSem h k v).dies = s.dies := by unfold State.setSem; split <;> rfl
@[simp] theorem State.setSem_retrainNext (s : State) (h : Fin 64) (k v : Nat) : (s.setSem h k v).retrainNext = s.retrainNext := by unfold State.setSem; split <;> rfl
@[simp] theorem State.setSem_scullRuns (s : State) (h : Fin 64) (k v : Nat) : (s.setSem h k v).scullRuns = s.scullRuns := by unfold State.setSem; split <;> rfl
@[simp] theorem State.setSem_oarlocks (s : State) (h : Fin 64) (k v : Nat) : (s.setSem h k v).oarlocks = s.oarlocks := by unfold State.setSem; split <;> rfl
@[simp] theorem State.setSem_sweeps (s : State) (h : Fin 64) (k v : Nat) : (s.setSem h k v).sweeps = s.sweeps := by unfold State.setSem; split <;> rfl
@[simp] theorem State.setSem_telem (s : State) (h : Fin 64) (k v : Nat) : (s.setSem h k v).telem = s.telem := by unfold State.setSem; split <;> rfl
@[simp] theorem State.setSem_peers (s : State) (h : Fin 64) (k v : Nat) : (s.setSem h k v).peers = s.peers := by unfold State.setSem; split <;> rfl
@[simp] theorem State.setSem_peersFull (s : State) (h : Fin 64) (k v : Nat) : (s.setSem h k v).peersFull = s.peersFull := by unfold State.setSem; split <;> rfl
@[simp] theorem State.setSem_heldFrames (s : State) (h : Fin 64) (k v : Nat) : (s.setSem h k v).heldFrames = s.heldFrames := by unfold State.setSem; split <;> rfl
@[simp] theorem State.setSem_linkTraining (s : State) (h : Fin 64) (k v : Nat) : (s.setSem h k v).linkTraining = s.linkTraining := by unfold State.setSem; split <;> rfl
@[simp] theorem State.setSem_tags (s : State) (h : Fin 64) (k v : Nat) : (s.setSem h k v).tags = s.tags := by unfold State.setSem; split <;> rfl
@[simp] theorem State.setSem_collectives (s : State) (h : Fin 64) (k v : Nat) : (s.setSem h k v).collectives = s.collectives := by unfold State.setSem; split <;> rfl
@[simp] theorem State.setSem_pools (s : State) (h : Fin 64) (k v : Nat) : (s.setSem h k v).pools = s.pools := by unfold State.setSem; split <;> rfl
@[simp] theorem State.setSem_unsent (s : State) (h : Fin 64) (k v : Nat) : (s.setSem h k v).unsent = s.unsent := by unfold State.setSem; split <;> rfl
@[simp] theorem State.setSem_slipways (s : State) (h : Fin 64) (k v : Nat) : (s.setSem h k v).slipways = s.slipways := by unfold State.setSem; split <;> rfl
@[simp] theorem State.setSem_signer (s : State) (h : Fin 64) (k v : Nat) : (s.setSem h k v).signer = s.signer := by unfold State.setSem; split <;> rfl
@[simp] theorem State.setSem_keys (s : State) (h : Fin 64) (k v : Nat) : (s.setSem h k v).keys = s.keys := by unfold State.setSem; split <;> rfl
@[simp] theorem State.setSem_flashWrites (s : State) (h : Fin 64) (k v : Nat) : (s.setSem h k v).flashWrites = s.flashWrites := by unfold State.setSem; split <;> rfl
@[simp] theorem State.setSem_retrainLeft (s : State) (h : Fin 64) (k v : Nat) : (s.setSem h k v).retrainLeft = s.retrainLeft := by unfold State.setSem; split <;> rfl
@[simp] theorem State.setSem_rings (s : State) (h : Fin 64) (k v : Nat) : (s.setSem h k v).rings = s.rings := by unfold State.setSem; split <;> rfl
@[simp] theorem State.setSem_serviceCount (s : State) (h : Fin 64) (k v : Nat) : (s.setSem h k v).serviceCount = s.serviceCount := by unfold State.setSem; split <;> rfl
@[simp] theorem State.setSem_moveCount (s : State) (h : Fin 64) (k v : Nat) : (s.setSem h k v).moveCount = s.moveCount := by unfold State.setSem; split <;> rfl
@[simp] theorem State.setSem_trust (s : State) (h : Fin 64) (k v : Nat) : (s.setSem h k v).trust = s.trust := by unfold State.setSem; split <;> rfl
@[simp] theorem State.setSem_parts (s : State) (h : Fin 64) (k v : Nat) : (s.setSem h k v).parts = s.parts := by unfold State.setSem; split <;> rfl
@[simp] theorem State.setSem_boot (s : State) (h : Fin 64) (k v : Nat) : (s.setSem h k v).boot = s.boot := by unfold State.setSem; split <;> rfl
@[simp] theorem State.setSem_pacer (s : State) (h : Fin 64) (k v : Nat) : (s.setSem h k v).pacer = s.pacer := by unfold State.setSem; split <;> rfl
@[simp] theorem State.setSem_seat (s : State) (h : Fin 64) (k v : Nat) : (s.setSem h k v).seat = s.seat := by unfold State.setSem; split <;> rfl
@[simp] theorem State.setSem_sigDump (s : State) (h : Fin 64) (k v : Nat) : (s.setSem h k v).sigDump = s.sigDump := by unfold State.setSem; split <;> rfl
@[simp] theorem State.setSem_xefin (s : State) (h : Fin 64) (k v : Nat) : (s.setSem h k v).xefin = s.xefin := by unfold State.setSem; split <;> rfl
@[simp] theorem State.setSem_power (s : State) (h : Fin 64) (k v : Nat) : (s.setSem h k v).power = s.power := by unfold State.setSem; split <;> rfl

/-! `State.noteWin` -/

@[simp] theorem State.noteWin_pending (s : State) (k now r : Nat) (rs : List Nat) (len : Nat) : (s.noteWin k now r rs len).pending = s.pending := rfl
@[simp] theorem State.noteWin_dict (s : State) (k now r : Nat) (rs : List Nat) (len : Nat) : (s.noteWin k now r rs len).dict = s.dict := rfl
@[simp] theorem State.noteWin_blobs (s : State) (k now r : Nat) (rs : List Nat) (len : Nat) : (s.noteWin k now r rs len).blobs = s.blobs := rfl
@[simp] theorem State.noteWin_mem (s : State) (k now r : Nat) (rs : List Nat) (len : Nat) : (s.noteWin k now r rs len).mem = s.mem := rfl
@[simp] theorem State.noteWin_draws (s : State) (k now r : Nat) (rs : List Nat) (len : Nat) : (s.noteWin k now r rs len).draws = s.draws := rfl
@[simp] theorem State.noteWin_out (s : State) (k now r : Nat) (rs : List Nat) (len : Nat) : (s.noteWin k now r rs len).out = s.out := rfl
@[simp] theorem State.noteWin_bladeMap (s : State) (k now r : Nat) (rs : List Nat) (len : Nat) : (s.noteWin k now r rs len).bladeMap = s.bladeMap := rfl
@[simp] theorem State.noteWin_clock (s : State) (k now r : Nat) (rs : List Nat) (len : Nat) : (s.noteWin k now r rs len).clock = s.clock := rfl
@[simp] theorem State.noteWin_log (s : State) (k now r : Nat) (rs : List Nat) (len : Nat) : (s.noteWin k now r rs len).log = s.log := rfl
@[simp] theorem State.noteWin_ergs (s : State) (k now r : Nat) (rs : List Nat) (len : Nat) : (s.noteWin k now r rs len).ergs = s.ergs := rfl
@[simp] theorem State.noteWin_capture (s : State) (k now r : Nat) (rs : List Nat) (len : Nat) : (s.noteWin k now r rs len).capture = s.capture := rfl
@[simp] theorem State.noteWin_heats (s : State) (k now r : Nat) (rs : List Nat) (len : Nat) : (s.noteWin k now r rs len).heats = s.heats := rfl
@[simp] theorem State.noteWin_crews (s : State) (k now r : Nat) (rs : List Nat) (len : Nat) : (s.noteWin k now r rs len).crews = s.crews := rfl
@[simp] theorem State.noteWin_blades (s : State) (k now r : Nat) (rs : List Nat) (len : Nat) : (s.noteWin k now r rs len).blades = s.blades := rfl
@[simp] theorem State.noteWin_sculls (s : State) (k now r : Nat) (rs : List Nat) (len : Nat) : (s.noteWin k now r rs len).sculls = s.sculls := rfl
@[simp] theorem State.noteWin_engines (s : State) (k now r : Nat) (rs : List Nat) (len : Nat) : (s.noteWin k now r rs len).engines = s.engines := rfl
@[simp] theorem State.noteWin_relayQueues (s : State) (k now r : Nat) (rs : List Nat) (len : Nat) : (s.noteWin k now r rs len).relayQueues = s.relayQueues := rfl
@[simp] theorem State.noteWin_regions (s : State) (k now r : Nat) (rs : List Nat) (len : Nat) : (s.noteWin k now r rs len).regions = s.regions := rfl
@[simp] theorem State.noteWin_channels (s : State) (k now r : Nat) (rs : List Nat) (len : Nat) : (s.noteWin k now r rs len).channels = s.channels := rfl
@[simp] theorem State.noteWin_hbmStacks (s : State) (k now r : Nat) (rs : List Nat) (len : Nat) : (s.noteWin k now r rs len).hbmStacks = s.hbmStacks := rfl
@[simp] theorem State.noteWin_dies (s : State) (k now r : Nat) (rs : List Nat) (len : Nat) : (s.noteWin k now r rs len).dies = s.dies := rfl
@[simp] theorem State.noteWin_retrainNext (s : State) (k now r : Nat) (rs : List Nat) (len : Nat) : (s.noteWin k now r rs len).retrainNext = s.retrainNext := rfl
@[simp] theorem State.noteWin_scullRuns (s : State) (k now r : Nat) (rs : List Nat) (len : Nat) : (s.noteWin k now r rs len).scullRuns = s.scullRuns := rfl
@[simp] theorem State.noteWin_oarlocks (s : State) (k now r : Nat) (rs : List Nat) (len : Nat) : (s.noteWin k now r rs len).oarlocks = s.oarlocks := rfl
@[simp] theorem State.noteWin_sweeps (s : State) (k now r : Nat) (rs : List Nat) (len : Nat) : (s.noteWin k now r rs len).sweeps = s.sweeps := rfl
@[simp] theorem State.noteWin_telem (s : State) (k now r : Nat) (rs : List Nat) (len : Nat) : (s.noteWin k now r rs len).telem = s.telem := rfl
@[simp] theorem State.noteWin_peers (s : State) (k now r : Nat) (rs : List Nat) (len : Nat) : (s.noteWin k now r rs len).peers = s.peers := rfl
@[simp] theorem State.noteWin_peersFull (s : State) (k now r : Nat) (rs : List Nat) (len : Nat) : (s.noteWin k now r rs len).peersFull = s.peersFull := rfl
@[simp] theorem State.noteWin_heldFrames (s : State) (k now r : Nat) (rs : List Nat) (len : Nat) : (s.noteWin k now r rs len).heldFrames = s.heldFrames := rfl
@[simp] theorem State.noteWin_linkTraining (s : State) (k now r : Nat) (rs : List Nat) (len : Nat) : (s.noteWin k now r rs len).linkTraining = s.linkTraining := rfl
@[simp] theorem State.noteWin_tags (s : State) (k now r : Nat) (rs : List Nat) (len : Nat) : (s.noteWin k now r rs len).tags = s.tags := rfl
@[simp] theorem State.noteWin_collectives (s : State) (k now r : Nat) (rs : List Nat) (len : Nat) : (s.noteWin k now r rs len).collectives = s.collectives := rfl
@[simp] theorem State.noteWin_pools (s : State) (k now r : Nat) (rs : List Nat) (len : Nat) : (s.noteWin k now r rs len).pools = s.pools := rfl
@[simp] theorem State.noteWin_unsent (s : State) (k now r : Nat) (rs : List Nat) (len : Nat) : (s.noteWin k now r rs len).unsent = s.unsent := rfl
@[simp] theorem State.noteWin_slipways (s : State) (k now r : Nat) (rs : List Nat) (len : Nat) : (s.noteWin k now r rs len).slipways = s.slipways := rfl
@[simp] theorem State.noteWin_signer (s : State) (k now r : Nat) (rs : List Nat) (len : Nat) : (s.noteWin k now r rs len).signer = s.signer := rfl
@[simp] theorem State.noteWin_keys (s : State) (k now r : Nat) (rs : List Nat) (len : Nat) : (s.noteWin k now r rs len).keys = s.keys := rfl
@[simp] theorem State.noteWin_flashWrites (s : State) (k now r : Nat) (rs : List Nat) (len : Nat) : (s.noteWin k now r rs len).flashWrites = s.flashWrites := rfl
@[simp] theorem State.noteWin_retrainLeft (s : State) (k now r : Nat) (rs : List Nat) (len : Nat) : (s.noteWin k now r rs len).retrainLeft = s.retrainLeft := rfl
@[simp] theorem State.noteWin_rings (s : State) (k now r : Nat) (rs : List Nat) (len : Nat) : (s.noteWin k now r rs len).rings = s.rings := rfl
@[simp] theorem State.noteWin_serviceCount (s : State) (k now r : Nat) (rs : List Nat) (len : Nat) : (s.noteWin k now r rs len).serviceCount = s.serviceCount := rfl
@[simp] theorem State.noteWin_moveCount (s : State) (k now r : Nat) (rs : List Nat) (len : Nat) : (s.noteWin k now r rs len).moveCount = s.moveCount := rfl
@[simp] theorem State.noteWin_trust (s : State) (k now r : Nat) (rs : List Nat) (len : Nat) : (s.noteWin k now r rs len).trust = s.trust := rfl
@[simp] theorem State.noteWin_parts (s : State) (k now r : Nat) (rs : List Nat) (len : Nat) : (s.noteWin k now r rs len).parts = s.parts := rfl
@[simp] theorem State.noteWin_boot (s : State) (k now r : Nat) (rs : List Nat) (len : Nat) : (s.noteWin k now r rs len).boot = s.boot := rfl
@[simp] theorem State.noteWin_pacer (s : State) (k now r : Nat) (rs : List Nat) (len : Nat) : (s.noteWin k now r rs len).pacer = s.pacer := rfl
@[simp] theorem State.noteWin_seat (s : State) (k now r : Nat) (rs : List Nat) (len : Nat) : (s.noteWin k now r rs len).seat = s.seat := rfl
@[simp] theorem State.noteWin_sigDump (s : State) (k now r : Nat) (rs : List Nat) (len : Nat) : (s.noteWin k now r rs len).sigDump = s.sigDump := rfl
@[simp] theorem State.noteWin_xefin (s : State) (k now r : Nat) (rs : List Nat) (len : Nat) : (s.noteWin k now r rs len).xefin = s.xefin := rfl
@[simp] theorem State.noteWin_power (s : State) (k now r : Nat) (rs : List Nat) (len : Nat) : (s.noteWin k now r rs len).power = s.power := rfl

/-! `State.setHolder` -/

@[simp] theorem State.setHolder_pending (s : State) (h : Fin 64) (k : Nat) : (s.setHolder h k).pending = s.pending := by unfold State.setHolder; split <;> rfl
@[simp] theorem State.setHolder_dict (s : State) (h : Fin 64) (k : Nat) : (s.setHolder h k).dict = s.dict := by unfold State.setHolder; split <;> rfl
@[simp] theorem State.setHolder_blobs (s : State) (h : Fin 64) (k : Nat) : (s.setHolder h k).blobs = s.blobs := by unfold State.setHolder; split <;> rfl
@[simp] theorem State.setHolder_mem (s : State) (h : Fin 64) (k : Nat) : (s.setHolder h k).mem = s.mem := by unfold State.setHolder; split <;> rfl
@[simp] theorem State.setHolder_draws (s : State) (h : Fin 64) (k : Nat) : (s.setHolder h k).draws = s.draws := by unfold State.setHolder; split <;> rfl
@[simp] theorem State.setHolder_out (s : State) (h : Fin 64) (k : Nat) : (s.setHolder h k).out = s.out := by unfold State.setHolder; split <;> rfl
@[simp] theorem State.setHolder_bladeMap (s : State) (h : Fin 64) (k : Nat) : (s.setHolder h k).bladeMap = s.bladeMap := by unfold State.setHolder; split <;> rfl
@[simp] theorem State.setHolder_clock (s : State) (h : Fin 64) (k : Nat) : (s.setHolder h k).clock = s.clock := by unfold State.setHolder; split <;> rfl
@[simp] theorem State.setHolder_log (s : State) (h : Fin 64) (k : Nat) : (s.setHolder h k).log = s.log := by unfold State.setHolder; split <;> rfl
@[simp] theorem State.setHolder_ergs (s : State) (h : Fin 64) (k : Nat) : (s.setHolder h k).ergs = s.ergs := by unfold State.setHolder; split <;> rfl
@[simp] theorem State.setHolder_capture (s : State) (h : Fin 64) (k : Nat) : (s.setHolder h k).capture = s.capture := by unfold State.setHolder; split <;> rfl
@[simp] theorem State.setHolder_heats (s : State) (h : Fin 64) (k : Nat) : (s.setHolder h k).heats = s.heats := by unfold State.setHolder; split <;> rfl
@[simp] theorem State.setHolder_blades (s : State) (h : Fin 64) (k : Nat) : (s.setHolder h k).blades = s.blades := by unfold State.setHolder; split <;> rfl
@[simp] theorem State.setHolder_sculls (s : State) (h : Fin 64) (k : Nat) : (s.setHolder h k).sculls = s.sculls := by unfold State.setHolder; split <;> rfl
@[simp] theorem State.setHolder_engines (s : State) (h : Fin 64) (k : Nat) : (s.setHolder h k).engines = s.engines := by unfold State.setHolder; split <;> rfl
@[simp] theorem State.setHolder_relayQueues (s : State) (h : Fin 64) (k : Nat) : (s.setHolder h k).relayQueues = s.relayQueues := by unfold State.setHolder; split <;> rfl
@[simp] theorem State.setHolder_marshal (s : State) (h : Fin 64) (k : Nat) : (s.setHolder h k).marshal = s.marshal := by unfold State.setHolder; split <;> rfl
@[simp] theorem State.setHolder_regions (s : State) (h : Fin 64) (k : Nat) : (s.setHolder h k).regions = s.regions := by unfold State.setHolder; split <;> rfl
@[simp] theorem State.setHolder_channels (s : State) (h : Fin 64) (k : Nat) : (s.setHolder h k).channels = s.channels := by unfold State.setHolder; split <;> rfl
@[simp] theorem State.setHolder_hbmStacks (s : State) (h : Fin 64) (k : Nat) : (s.setHolder h k).hbmStacks = s.hbmStacks := by unfold State.setHolder; split <;> rfl
@[simp] theorem State.setHolder_dies (s : State) (h : Fin 64) (k : Nat) : (s.setHolder h k).dies = s.dies := by unfold State.setHolder; split <;> rfl
@[simp] theorem State.setHolder_retrainNext (s : State) (h : Fin 64) (k : Nat) : (s.setHolder h k).retrainNext = s.retrainNext := by unfold State.setHolder; split <;> rfl
@[simp] theorem State.setHolder_scullRuns (s : State) (h : Fin 64) (k : Nat) : (s.setHolder h k).scullRuns = s.scullRuns := by unfold State.setHolder; split <;> rfl
@[simp] theorem State.setHolder_oarlocks (s : State) (h : Fin 64) (k : Nat) : (s.setHolder h k).oarlocks = s.oarlocks := by unfold State.setHolder; split <;> rfl
@[simp] theorem State.setHolder_sweeps (s : State) (h : Fin 64) (k : Nat) : (s.setHolder h k).sweeps = s.sweeps := by unfold State.setHolder; split <;> rfl
@[simp] theorem State.setHolder_telem (s : State) (h : Fin 64) (k : Nat) : (s.setHolder h k).telem = s.telem := by unfold State.setHolder; split <;> rfl
@[simp] theorem State.setHolder_peers (s : State) (h : Fin 64) (k : Nat) : (s.setHolder h k).peers = s.peers := by unfold State.setHolder; split <;> rfl
@[simp] theorem State.setHolder_peersFull (s : State) (h : Fin 64) (k : Nat) : (s.setHolder h k).peersFull = s.peersFull := by unfold State.setHolder; split <;> rfl
@[simp] theorem State.setHolder_heldFrames (s : State) (h : Fin 64) (k : Nat) : (s.setHolder h k).heldFrames = s.heldFrames := by unfold State.setHolder; split <;> rfl
@[simp] theorem State.setHolder_linkTraining (s : State) (h : Fin 64) (k : Nat) : (s.setHolder h k).linkTraining = s.linkTraining := by unfold State.setHolder; split <;> rfl
@[simp] theorem State.setHolder_tags (s : State) (h : Fin 64) (k : Nat) : (s.setHolder h k).tags = s.tags := by unfold State.setHolder; split <;> rfl
@[simp] theorem State.setHolder_collectives (s : State) (h : Fin 64) (k : Nat) : (s.setHolder h k).collectives = s.collectives := by unfold State.setHolder; split <;> rfl
@[simp] theorem State.setHolder_pools (s : State) (h : Fin 64) (k : Nat) : (s.setHolder h k).pools = s.pools := by unfold State.setHolder; split <;> rfl
@[simp] theorem State.setHolder_unsent (s : State) (h : Fin 64) (k : Nat) : (s.setHolder h k).unsent = s.unsent := by unfold State.setHolder; split <;> rfl
@[simp] theorem State.setHolder_slipways (s : State) (h : Fin 64) (k : Nat) : (s.setHolder h k).slipways = s.slipways := by unfold State.setHolder; split <;> rfl
@[simp] theorem State.setHolder_signer (s : State) (h : Fin 64) (k : Nat) : (s.setHolder h k).signer = s.signer := by unfold State.setHolder; split <;> rfl
@[simp] theorem State.setHolder_keys (s : State) (h : Fin 64) (k : Nat) : (s.setHolder h k).keys = s.keys := by unfold State.setHolder; split <;> rfl
@[simp] theorem State.setHolder_flashWrites (s : State) (h : Fin 64) (k : Nat) : (s.setHolder h k).flashWrites = s.flashWrites := by unfold State.setHolder; split <;> rfl
@[simp] theorem State.setHolder_retrainLeft (s : State) (h : Fin 64) (k : Nat) : (s.setHolder h k).retrainLeft = s.retrainLeft := by unfold State.setHolder; split <;> rfl
@[simp] theorem State.setHolder_rings (s : State) (h : Fin 64) (k : Nat) : (s.setHolder h k).rings = s.rings := by unfold State.setHolder; split <;> rfl
@[simp] theorem State.setHolder_serviceCount (s : State) (h : Fin 64) (k : Nat) : (s.setHolder h k).serviceCount = s.serviceCount := by unfold State.setHolder; split <;> rfl
@[simp] theorem State.setHolder_moveCount (s : State) (h : Fin 64) (k : Nat) : (s.setHolder h k).moveCount = s.moveCount := by unfold State.setHolder; split <;> rfl
@[simp] theorem State.setHolder_trust (s : State) (h : Fin 64) (k : Nat) : (s.setHolder h k).trust = s.trust := by unfold State.setHolder; split <;> rfl
@[simp] theorem State.setHolder_parts (s : State) (h : Fin 64) (k : Nat) : (s.setHolder h k).parts = s.parts := by unfold State.setHolder; split <;> rfl
@[simp] theorem State.setHolder_boot (s : State) (h : Fin 64) (k : Nat) : (s.setHolder h k).boot = s.boot := by unfold State.setHolder; split <;> rfl
@[simp] theorem State.setHolder_pacer (s : State) (h : Fin 64) (k : Nat) : (s.setHolder h k).pacer = s.pacer := by unfold State.setHolder; split <;> rfl
@[simp] theorem State.setHolder_seat (s : State) (h : Fin 64) (k : Nat) : (s.setHolder h k).seat = s.seat := by unfold State.setHolder; split <;> rfl
@[simp] theorem State.setHolder_sigDump (s : State) (h : Fin 64) (k : Nat) : (s.setHolder h k).sigDump = s.sigDump := by unfold State.setHolder; split <;> rfl
@[simp] theorem State.setHolder_xefin (s : State) (h : Fin 64) (k : Nat) : (s.setHolder h k).xefin = s.xefin := by unfold State.setHolder; split <;> rfl
@[simp] theorem State.setHolder_power (s : State) (h : Fin 64) (k : Nat) : (s.setHolder h k).power = s.power := by unfold State.setHolder; split <;> rfl

/-! `State.feed` -/

@[simp] theorem State.feed_pending (s : State) (a b : Nat) (v : Int) : (s.feed a b v).pending = s.pending := by unfold State.feed; rfl
@[simp] theorem State.feed_dict (s : State) (a b : Nat) (v : Int) : (s.feed a b v).dict = s.dict := by unfold State.feed; rfl
@[simp] theorem State.feed_blobs (s : State) (a b : Nat) (v : Int) : (s.feed a b v).blobs = s.blobs := by unfold State.feed; rfl
@[simp] theorem State.feed_mem (s : State) (a b : Nat) (v : Int) : (s.feed a b v).mem = s.mem := by unfold State.feed; rfl
@[simp] theorem State.feed_draws (s : State) (a b : Nat) (v : Int) : (s.feed a b v).draws = s.draws := by unfold State.feed; rfl
@[simp] theorem State.feed_out (s : State) (a b : Nat) (v : Int) : (s.feed a b v).out = s.out := by unfold State.feed; rfl
@[simp] theorem State.feed_bladeMap (s : State) (a b : Nat) (v : Int) : (s.feed a b v).bladeMap = s.bladeMap := by unfold State.feed; rfl
@[simp] theorem State.feed_clock (s : State) (a b : Nat) (v : Int) : (s.feed a b v).clock = s.clock := by unfold State.feed; rfl
@[simp] theorem State.feed_log (s : State) (a b : Nat) (v : Int) : (s.feed a b v).log = s.log := by unfold State.feed; rfl
@[simp] theorem State.feed_capture (s : State) (a b : Nat) (v : Int) : (s.feed a b v).capture = s.capture := by unfold State.feed; rfl
@[simp] theorem State.feed_heats (s : State) (a b : Nat) (v : Int) : (s.feed a b v).heats = s.heats := by unfold State.feed; rfl
@[simp] theorem State.feed_crews (s : State) (a b : Nat) (v : Int) : (s.feed a b v).crews = s.crews := by unfold State.feed; rfl
@[simp] theorem State.feed_blades (s : State) (a b : Nat) (v : Int) : (s.feed a b v).blades = s.blades := by unfold State.feed; rfl
@[simp] theorem State.feed_sculls (s : State) (a b : Nat) (v : Int) : (s.feed a b v).sculls = s.sculls := by unfold State.feed; rfl
@[simp] theorem State.feed_engines (s : State) (a b : Nat) (v : Int) : (s.feed a b v).engines = s.engines := by unfold State.feed; rfl
@[simp] theorem State.feed_relayQueues (s : State) (a b : Nat) (v : Int) : (s.feed a b v).relayQueues = s.relayQueues := by unfold State.feed; rfl
@[simp] theorem State.feed_marshal (s : State) (a b : Nat) (v : Int) : (s.feed a b v).marshal = s.marshal := by unfold State.feed; rfl
@[simp] theorem State.feed_regions (s : State) (a b : Nat) (v : Int) : (s.feed a b v).regions = s.regions := by unfold State.feed; rfl
@[simp] theorem State.feed_channels (s : State) (a b : Nat) (v : Int) : (s.feed a b v).channels = s.channels := by unfold State.feed; rfl
@[simp] theorem State.feed_hbmStacks (s : State) (a b : Nat) (v : Int) : (s.feed a b v).hbmStacks = s.hbmStacks := by unfold State.feed; rfl
@[simp] theorem State.feed_dies (s : State) (a b : Nat) (v : Int) : (s.feed a b v).dies = s.dies := by unfold State.feed; rfl
@[simp] theorem State.feed_retrainNext (s : State) (a b : Nat) (v : Int) : (s.feed a b v).retrainNext = s.retrainNext := by unfold State.feed; rfl
@[simp] theorem State.feed_scullRuns (s : State) (a b : Nat) (v : Int) : (s.feed a b v).scullRuns = s.scullRuns := by unfold State.feed; rfl
@[simp] theorem State.feed_oarlocks (s : State) (a b : Nat) (v : Int) : (s.feed a b v).oarlocks = s.oarlocks := by unfold State.feed; rfl
@[simp] theorem State.feed_sweeps (s : State) (a b : Nat) (v : Int) : (s.feed a b v).sweeps = s.sweeps := by unfold State.feed; rfl
@[simp] theorem State.feed_telem (s : State) (a b : Nat) (v : Int) : (s.feed a b v).telem = s.telem := by unfold State.feed; rfl
@[simp] theorem State.feed_peers (s : State) (a b : Nat) (v : Int) : (s.feed a b v).peers = s.peers := by unfold State.feed; rfl
@[simp] theorem State.feed_peersFull (s : State) (a b : Nat) (v : Int) : (s.feed a b v).peersFull = s.peersFull := by unfold State.feed; rfl
@[simp] theorem State.feed_heldFrames (s : State) (a b : Nat) (v : Int) : (s.feed a b v).heldFrames = s.heldFrames := by unfold State.feed; rfl
@[simp] theorem State.feed_linkTraining (s : State) (a b : Nat) (v : Int) : (s.feed a b v).linkTraining = s.linkTraining := by unfold State.feed; rfl
@[simp] theorem State.feed_tags (s : State) (a b : Nat) (v : Int) : (s.feed a b v).tags = s.tags := by unfold State.feed; rfl
@[simp] theorem State.feed_collectives (s : State) (a b : Nat) (v : Int) : (s.feed a b v).collectives = s.collectives := by unfold State.feed; rfl
@[simp] theorem State.feed_pools (s : State) (a b : Nat) (v : Int) : (s.feed a b v).pools = s.pools := by unfold State.feed; rfl
@[simp] theorem State.feed_unsent (s : State) (a b : Nat) (v : Int) : (s.feed a b v).unsent = s.unsent := by unfold State.feed; rfl
@[simp] theorem State.feed_slipways (s : State) (a b : Nat) (v : Int) : (s.feed a b v).slipways = s.slipways := by unfold State.feed; rfl
@[simp] theorem State.feed_signer (s : State) (a b : Nat) (v : Int) : (s.feed a b v).signer = s.signer := by unfold State.feed; rfl
@[simp] theorem State.feed_keys (s : State) (a b : Nat) (v : Int) : (s.feed a b v).keys = s.keys := by unfold State.feed; rfl
@[simp] theorem State.feed_flashWrites (s : State) (a b : Nat) (v : Int) : (s.feed a b v).flashWrites = s.flashWrites := by unfold State.feed; rfl
@[simp] theorem State.feed_retrainLeft (s : State) (a b : Nat) (v : Int) : (s.feed a b v).retrainLeft = s.retrainLeft := by unfold State.feed; rfl
@[simp] theorem State.feed_rings (s : State) (a b : Nat) (v : Int) : (s.feed a b v).rings = s.rings := by unfold State.feed; rfl
@[simp] theorem State.feed_serviceCount (s : State) (a b : Nat) (v : Int) : (s.feed a b v).serviceCount = s.serviceCount := by unfold State.feed; rfl
@[simp] theorem State.feed_moveCount (s : State) (a b : Nat) (v : Int) : (s.feed a b v).moveCount = s.moveCount := by unfold State.feed; rfl
@[simp] theorem State.feed_trust (s : State) (a b : Nat) (v : Int) : (s.feed a b v).trust = s.trust := by unfold State.feed; rfl
@[simp] theorem State.feed_parts (s : State) (a b : Nat) (v : Int) : (s.feed a b v).parts = s.parts := by unfold State.feed; rfl
@[simp] theorem State.feed_boot (s : State) (a b : Nat) (v : Int) : (s.feed a b v).boot = s.boot := by unfold State.feed; rfl
@[simp] theorem State.feed_pacer (s : State) (a b : Nat) (v : Int) : (s.feed a b v).pacer = s.pacer := by unfold State.feed; rfl
@[simp] theorem State.feed_seat (s : State) (a b : Nat) (v : Int) : (s.feed a b v).seat = s.seat := by unfold State.feed; rfl
@[simp] theorem State.feed_sigDump (s : State) (a b : Nat) (v : Int) : (s.feed a b v).sigDump = s.sigDump := by unfold State.feed; rfl
@[simp] theorem State.feed_xefin (s : State) (a b : Nat) (v : Int) : (s.feed a b v).xefin = s.xefin := by unfold State.feed; rfl
@[simp] theorem State.feed_power (s : State) (a b : Nat) (v : Int) : (s.feed a b v).power = s.power := by unfold State.feed; rfl

/-! `State.lateExchange` -/

@[simp] theorem State.lateExchange_pending (s : State) (h : Fin 64) (l : Fin 4) (a b w : Nat) : (s.lateExchange h l a b w).pending = s.pending := by unfold State.lateExchange; split <;> simp
@[simp] theorem State.lateExchange_blobs (s : State) (h : Fin 64) (l : Fin 4) (a b w : Nat) : (s.lateExchange h l a b w).blobs = s.blobs := by unfold State.lateExchange; split <;> simp
@[simp] theorem State.lateExchange_mem (s : State) (h : Fin 64) (l : Fin 4) (a b w : Nat) : (s.lateExchange h l a b w).mem = s.mem := by unfold State.lateExchange; split <;> simp
@[simp] theorem State.lateExchange_draws (s : State) (h : Fin 64) (l : Fin 4) (a b w : Nat) : (s.lateExchange h l a b w).draws = s.draws := by unfold State.lateExchange; split <;> simp
@[simp] theorem State.lateExchange_out (s : State) (h : Fin 64) (l : Fin 4) (a b w : Nat) : (s.lateExchange h l a b w).out = s.out := by unfold State.lateExchange; split <;> simp
@[simp] theorem State.lateExchange_bladeMap (s : State) (h : Fin 64) (l : Fin 4) (a b w : Nat) : (s.lateExchange h l a b w).bladeMap = s.bladeMap := by unfold State.lateExchange; split <;> simp
@[simp] theorem State.lateExchange_clock (s : State) (h : Fin 64) (l : Fin 4) (a b w : Nat) : (s.lateExchange h l a b w).clock = s.clock := by unfold State.lateExchange; split <;> simp
@[simp] theorem State.lateExchange_ergs (s : State) (h : Fin 64) (l : Fin 4) (a b w : Nat) : (s.lateExchange h l a b w).ergs = s.ergs := by unfold State.lateExchange; split <;> simp
@[simp] theorem State.lateExchange_capture (s : State) (h : Fin 64) (l : Fin 4) (a b w : Nat) : (s.lateExchange h l a b w).capture = s.capture := by unfold State.lateExchange; split <;> simp
@[simp] theorem State.lateExchange_heats (s : State) (h : Fin 64) (l : Fin 4) (a b w : Nat) : (s.lateExchange h l a b w).heats = s.heats := by unfold State.lateExchange; split <;> simp
@[simp] theorem State.lateExchange_crews (s : State) (h : Fin 64) (l : Fin 4) (a b w : Nat) : (s.lateExchange h l a b w).crews = s.crews := by unfold State.lateExchange; split <;> simp
@[simp] theorem State.lateExchange_blades (s : State) (h : Fin 64) (l : Fin 4) (a b w : Nat) : (s.lateExchange h l a b w).blades = s.blades := by unfold State.lateExchange; split <;> simp
@[simp] theorem State.lateExchange_sculls (s : State) (h : Fin 64) (l : Fin 4) (a b w : Nat) : (s.lateExchange h l a b w).sculls = s.sculls := by unfold State.lateExchange; split <;> simp
@[simp] theorem State.lateExchange_engines (s : State) (h : Fin 64) (l : Fin 4) (a b w : Nat) : (s.lateExchange h l a b w).engines = s.engines := by unfold State.lateExchange; split <;> simp
@[simp] theorem State.lateExchange_relayQueues (s : State) (h : Fin 64) (l : Fin 4) (a b w : Nat) : (s.lateExchange h l a b w).relayQueues = s.relayQueues := by unfold State.lateExchange; split <;> simp
@[simp] theorem State.lateExchange_marshal (s : State) (h : Fin 64) (l : Fin 4) (a b w : Nat) : (s.lateExchange h l a b w).marshal = s.marshal := by unfold State.lateExchange; split <;> simp
@[simp] theorem State.lateExchange_regions (s : State) (h : Fin 64) (l : Fin 4) (a b w : Nat) : (s.lateExchange h l a b w).regions = s.regions := by unfold State.lateExchange; split <;> simp
@[simp] theorem State.lateExchange_channels (s : State) (h : Fin 64) (l : Fin 4) (a b w : Nat) : (s.lateExchange h l a b w).channels = s.channels := by unfold State.lateExchange; split <;> simp
@[simp] theorem State.lateExchange_hbmStacks (s : State) (h : Fin 64) (l : Fin 4) (a b w : Nat) : (s.lateExchange h l a b w).hbmStacks = s.hbmStacks := by unfold State.lateExchange; split <;> simp
@[simp] theorem State.lateExchange_dies (s : State) (h : Fin 64) (l : Fin 4) (a b w : Nat) : (s.lateExchange h l a b w).dies = s.dies := by unfold State.lateExchange; split <;> simp
@[simp] theorem State.lateExchange_retrainNext (s : State) (h : Fin 64) (l : Fin 4) (a b w : Nat) : (s.lateExchange h l a b w).retrainNext = s.retrainNext := by unfold State.lateExchange; split <;> simp
@[simp] theorem State.lateExchange_scullRuns (s : State) (h : Fin 64) (l : Fin 4) (a b w : Nat) : (s.lateExchange h l a b w).scullRuns = s.scullRuns := by unfold State.lateExchange; split <;> simp
@[simp] theorem State.lateExchange_oarlocks (s : State) (h : Fin 64) (l : Fin 4) (a b w : Nat) : (s.lateExchange h l a b w).oarlocks = s.oarlocks := by unfold State.lateExchange; split <;> simp
@[simp] theorem State.lateExchange_sweeps (s : State) (h : Fin 64) (l : Fin 4) (a b w : Nat) : (s.lateExchange h l a b w).sweeps = s.sweeps := by unfold State.lateExchange; split <;> simp
@[simp] theorem State.lateExchange_telem (s : State) (h : Fin 64) (l : Fin 4) (a b w : Nat) : (s.lateExchange h l a b w).telem = s.telem := by unfold State.lateExchange; split <;> simp
@[simp] theorem State.lateExchange_peers (s : State) (h : Fin 64) (l : Fin 4) (a b w : Nat) : (s.lateExchange h l a b w).peers = s.peers := by unfold State.lateExchange; split <;> simp
@[simp] theorem State.lateExchange_peersFull (s : State) (h : Fin 64) (l : Fin 4) (a b w : Nat) : (s.lateExchange h l a b w).peersFull = s.peersFull := by unfold State.lateExchange; split <;> simp
@[simp] theorem State.lateExchange_heldFrames (s : State) (h : Fin 64) (l : Fin 4) (a b w : Nat) : (s.lateExchange h l a b w).heldFrames = s.heldFrames := by unfold State.lateExchange; split <;> simp
@[simp] theorem State.lateExchange_linkTraining (s : State) (h : Fin 64) (l : Fin 4) (a b w : Nat) : (s.lateExchange h l a b w).linkTraining = s.linkTraining := by unfold State.lateExchange; split <;> simp
@[simp] theorem State.lateExchange_tags (s : State) (h : Fin 64) (l : Fin 4) (a b w : Nat) : (s.lateExchange h l a b w).tags = s.tags := by unfold State.lateExchange; split <;> simp
@[simp] theorem State.lateExchange_collectives (s : State) (h : Fin 64) (l : Fin 4) (a b w : Nat) : (s.lateExchange h l a b w).collectives = s.collectives := by unfold State.lateExchange; split <;> simp
@[simp] theorem State.lateExchange_pools (s : State) (h : Fin 64) (l : Fin 4) (a b w : Nat) : (s.lateExchange h l a b w).pools = s.pools := by unfold State.lateExchange; split <;> simp
@[simp] theorem State.lateExchange_unsent (s : State) (h : Fin 64) (l : Fin 4) (a b w : Nat) : (s.lateExchange h l a b w).unsent = s.unsent := by unfold State.lateExchange; split <;> simp
@[simp] theorem State.lateExchange_slipways (s : State) (h : Fin 64) (l : Fin 4) (a b w : Nat) : (s.lateExchange h l a b w).slipways = s.slipways := by unfold State.lateExchange; split <;> simp
@[simp] theorem State.lateExchange_signer (s : State) (h : Fin 64) (l : Fin 4) (a b w : Nat) : (s.lateExchange h l a b w).signer = s.signer := by unfold State.lateExchange; split <;> simp
@[simp] theorem State.lateExchange_keys (s : State) (h : Fin 64) (l : Fin 4) (a b w : Nat) : (s.lateExchange h l a b w).keys = s.keys := by unfold State.lateExchange; split <;> simp
@[simp] theorem State.lateExchange_flashWrites (s : State) (h : Fin 64) (l : Fin 4) (a b w : Nat) : (s.lateExchange h l a b w).flashWrites = s.flashWrites := by unfold State.lateExchange; split <;> simp
@[simp] theorem State.lateExchange_retrainLeft (s : State) (h : Fin 64) (l : Fin 4) (a b w : Nat) : (s.lateExchange h l a b w).retrainLeft = s.retrainLeft := by unfold State.lateExchange; split <;> simp
@[simp] theorem State.lateExchange_rings (s : State) (h : Fin 64) (l : Fin 4) (a b w : Nat) : (s.lateExchange h l a b w).rings = s.rings := by unfold State.lateExchange; split <;> simp
@[simp] theorem State.lateExchange_serviceCount (s : State) (h : Fin 64) (l : Fin 4) (a b w : Nat) : (s.lateExchange h l a b w).serviceCount = s.serviceCount := by unfold State.lateExchange; split <;> simp
@[simp] theorem State.lateExchange_moveCount (s : State) (h : Fin 64) (l : Fin 4) (a b w : Nat) : (s.lateExchange h l a b w).moveCount = s.moveCount := by unfold State.lateExchange; split <;> simp
@[simp] theorem State.lateExchange_trust (s : State) (h : Fin 64) (l : Fin 4) (a b w : Nat) : (s.lateExchange h l a b w).trust = s.trust := by unfold State.lateExchange; split <;> simp
@[simp] theorem State.lateExchange_parts (s : State) (h : Fin 64) (l : Fin 4) (a b w : Nat) : (s.lateExchange h l a b w).parts = s.parts := by unfold State.lateExchange; split <;> simp
@[simp] theorem State.lateExchange_boot (s : State) (h : Fin 64) (l : Fin 4) (a b w : Nat) : (s.lateExchange h l a b w).boot = s.boot := by unfold State.lateExchange; split <;> simp
@[simp] theorem State.lateExchange_pacer (s : State) (h : Fin 64) (l : Fin 4) (a b w : Nat) : (s.lateExchange h l a b w).pacer = s.pacer := by unfold State.lateExchange; split <;> simp
@[simp] theorem State.lateExchange_seat (s : State) (h : Fin 64) (l : Fin 4) (a b w : Nat) : (s.lateExchange h l a b w).seat = s.seat := by unfold State.lateExchange; split <;> simp
@[simp] theorem State.lateExchange_sigDump (s : State) (h : Fin 64) (l : Fin 4) (a b w : Nat) : (s.lateExchange h l a b w).sigDump = s.sigDump := by unfold State.lateExchange; split <;> simp
@[simp] theorem State.lateExchange_xefin (s : State) (h : Fin 64) (l : Fin 4) (a b w : Nat) : (s.lateExchange h l a b w).xefin = s.xefin := by unfold State.lateExchange; split <;> simp
@[simp] theorem State.lateExchange_power (s : State) (h : Fin 64) (l : Fin 4) (a b w : Nat) : (s.lateExchange h l a b w).power = s.power := by unfold State.lateExchange; split <;> simp

/-! `State.countExchange` -/

@[simp] theorem State.countExchange_pending (s : State) (h : Fin 64) (l : Fin 4) (a b w : Nat) : (s.countExchange h l a b w).pending = s.pending := by simp [State.countExchange]
@[simp] theorem State.countExchange_blobs (s : State) (h : Fin 64) (l : Fin 4) (a b w : Nat) : (s.countExchange h l a b w).blobs = s.blobs := by simp [State.countExchange]
@[simp] theorem State.countExchange_mem (s : State) (h : Fin 64) (l : Fin 4) (a b w : Nat) : (s.countExchange h l a b w).mem = s.mem := by simp [State.countExchange]
@[simp] theorem State.countExchange_draws (s : State) (h : Fin 64) (l : Fin 4) (a b w : Nat) : (s.countExchange h l a b w).draws = s.draws := by simp [State.countExchange]
@[simp] theorem State.countExchange_out (s : State) (h : Fin 64) (l : Fin 4) (a b w : Nat) : (s.countExchange h l a b w).out = s.out := by simp [State.countExchange]
@[simp] theorem State.countExchange_bladeMap (s : State) (h : Fin 64) (l : Fin 4) (a b w : Nat) : (s.countExchange h l a b w).bladeMap = s.bladeMap := by simp [State.countExchange]
@[simp] theorem State.countExchange_clock (s : State) (h : Fin 64) (l : Fin 4) (a b w : Nat) : (s.countExchange h l a b w).clock = s.clock := by simp [State.countExchange]
@[simp] theorem State.countExchange_capture (s : State) (h : Fin 64) (l : Fin 4) (a b w : Nat) : (s.countExchange h l a b w).capture = s.capture := by simp [State.countExchange]
@[simp] theorem State.countExchange_heats (s : State) (h : Fin 64) (l : Fin 4) (a b w : Nat) : (s.countExchange h l a b w).heats = s.heats := by simp [State.countExchange]
@[simp] theorem State.countExchange_crews (s : State) (h : Fin 64) (l : Fin 4) (a b w : Nat) : (s.countExchange h l a b w).crews = s.crews := by simp [State.countExchange]
@[simp] theorem State.countExchange_blades (s : State) (h : Fin 64) (l : Fin 4) (a b w : Nat) : (s.countExchange h l a b w).blades = s.blades := by simp [State.countExchange]
@[simp] theorem State.countExchange_sculls (s : State) (h : Fin 64) (l : Fin 4) (a b w : Nat) : (s.countExchange h l a b w).sculls = s.sculls := by simp [State.countExchange]
@[simp] theorem State.countExchange_engines (s : State) (h : Fin 64) (l : Fin 4) (a b w : Nat) : (s.countExchange h l a b w).engines = s.engines := by simp [State.countExchange]
@[simp] theorem State.countExchange_relayQueues (s : State) (h : Fin 64) (l : Fin 4) (a b w : Nat) : (s.countExchange h l a b w).relayQueues = s.relayQueues := by simp [State.countExchange]
@[simp] theorem State.countExchange_marshal (s : State) (h : Fin 64) (l : Fin 4) (a b w : Nat) : (s.countExchange h l a b w).marshal = s.marshal := by simp [State.countExchange]
@[simp] theorem State.countExchange_regions (s : State) (h : Fin 64) (l : Fin 4) (a b w : Nat) : (s.countExchange h l a b w).regions = s.regions := by simp [State.countExchange]
@[simp] theorem State.countExchange_channels (s : State) (h : Fin 64) (l : Fin 4) (a b w : Nat) : (s.countExchange h l a b w).channels = s.channels := by simp [State.countExchange]
@[simp] theorem State.countExchange_hbmStacks (s : State) (h : Fin 64) (l : Fin 4) (a b w : Nat) : (s.countExchange h l a b w).hbmStacks = s.hbmStacks := by simp [State.countExchange]
@[simp] theorem State.countExchange_dies (s : State) (h : Fin 64) (l : Fin 4) (a b w : Nat) : (s.countExchange h l a b w).dies = s.dies := by simp [State.countExchange]
@[simp] theorem State.countExchange_retrainNext (s : State) (h : Fin 64) (l : Fin 4) (a b w : Nat) : (s.countExchange h l a b w).retrainNext = s.retrainNext := by simp [State.countExchange]
@[simp] theorem State.countExchange_scullRuns (s : State) (h : Fin 64) (l : Fin 4) (a b w : Nat) : (s.countExchange h l a b w).scullRuns = s.scullRuns := by simp [State.countExchange]
@[simp] theorem State.countExchange_oarlocks (s : State) (h : Fin 64) (l : Fin 4) (a b w : Nat) : (s.countExchange h l a b w).oarlocks = s.oarlocks := by simp [State.countExchange]
@[simp] theorem State.countExchange_sweeps (s : State) (h : Fin 64) (l : Fin 4) (a b w : Nat) : (s.countExchange h l a b w).sweeps = s.sweeps := by simp [State.countExchange]
@[simp] theorem State.countExchange_telem (s : State) (h : Fin 64) (l : Fin 4) (a b w : Nat) : (s.countExchange h l a b w).telem = s.telem := by simp [State.countExchange]
@[simp] theorem State.countExchange_peers (s : State) (h : Fin 64) (l : Fin 4) (a b w : Nat) : (s.countExchange h l a b w).peers = s.peers := by simp [State.countExchange]
@[simp] theorem State.countExchange_peersFull (s : State) (h : Fin 64) (l : Fin 4) (a b w : Nat) : (s.countExchange h l a b w).peersFull = s.peersFull := by simp [State.countExchange]
@[simp] theorem State.countExchange_heldFrames (s : State) (h : Fin 64) (l : Fin 4) (a b w : Nat) : (s.countExchange h l a b w).heldFrames = s.heldFrames := by simp [State.countExchange]
@[simp] theorem State.countExchange_linkTraining (s : State) (h : Fin 64) (l : Fin 4) (a b w : Nat) : (s.countExchange h l a b w).linkTraining = s.linkTraining := by simp [State.countExchange]
@[simp] theorem State.countExchange_tags (s : State) (h : Fin 64) (l : Fin 4) (a b w : Nat) : (s.countExchange h l a b w).tags = s.tags := by simp [State.countExchange]
@[simp] theorem State.countExchange_collectives (s : State) (h : Fin 64) (l : Fin 4) (a b w : Nat) : (s.countExchange h l a b w).collectives = s.collectives := by simp [State.countExchange]
@[simp] theorem State.countExchange_pools (s : State) (h : Fin 64) (l : Fin 4) (a b w : Nat) : (s.countExchange h l a b w).pools = s.pools := by simp [State.countExchange]
@[simp] theorem State.countExchange_unsent (s : State) (h : Fin 64) (l : Fin 4) (a b w : Nat) : (s.countExchange h l a b w).unsent = s.unsent := by simp [State.countExchange]
@[simp] theorem State.countExchange_slipways (s : State) (h : Fin 64) (l : Fin 4) (a b w : Nat) : (s.countExchange h l a b w).slipways = s.slipways := by simp [State.countExchange]
@[simp] theorem State.countExchange_signer (s : State) (h : Fin 64) (l : Fin 4) (a b w : Nat) : (s.countExchange h l a b w).signer = s.signer := by simp [State.countExchange]
@[simp] theorem State.countExchange_keys (s : State) (h : Fin 64) (l : Fin 4) (a b w : Nat) : (s.countExchange h l a b w).keys = s.keys := by simp [State.countExchange]
@[simp] theorem State.countExchange_flashWrites (s : State) (h : Fin 64) (l : Fin 4) (a b w : Nat) : (s.countExchange h l a b w).flashWrites = s.flashWrites := by simp [State.countExchange]
@[simp] theorem State.countExchange_retrainLeft (s : State) (h : Fin 64) (l : Fin 4) (a b w : Nat) : (s.countExchange h l a b w).retrainLeft = s.retrainLeft := by simp [State.countExchange]
@[simp] theorem State.countExchange_rings (s : State) (h : Fin 64) (l : Fin 4) (a b w : Nat) : (s.countExchange h l a b w).rings = s.rings := by simp [State.countExchange]
@[simp] theorem State.countExchange_serviceCount (s : State) (h : Fin 64) (l : Fin 4) (a b w : Nat) : (s.countExchange h l a b w).serviceCount = s.serviceCount := by simp [State.countExchange]
@[simp] theorem State.countExchange_moveCount (s : State) (h : Fin 64) (l : Fin 4) (a b w : Nat) : (s.countExchange h l a b w).moveCount = s.moveCount := by simp [State.countExchange]
@[simp] theorem State.countExchange_trust (s : State) (h : Fin 64) (l : Fin 4) (a b w : Nat) : (s.countExchange h l a b w).trust = s.trust := by simp [State.countExchange]
@[simp] theorem State.countExchange_parts (s : State) (h : Fin 64) (l : Fin 4) (a b w : Nat) : (s.countExchange h l a b w).parts = s.parts := by simp [State.countExchange]
@[simp] theorem State.countExchange_boot (s : State) (h : Fin 64) (l : Fin 4) (a b w : Nat) : (s.countExchange h l a b w).boot = s.boot := by simp [State.countExchange]
@[simp] theorem State.countExchange_pacer (s : State) (h : Fin 64) (l : Fin 4) (a b w : Nat) : (s.countExchange h l a b w).pacer = s.pacer := by simp [State.countExchange]
@[simp] theorem State.countExchange_seat (s : State) (h : Fin 64) (l : Fin 4) (a b w : Nat) : (s.countExchange h l a b w).seat = s.seat := by simp [State.countExchange]
@[simp] theorem State.countExchange_sigDump (s : State) (h : Fin 64) (l : Fin 4) (a b w : Nat) : (s.countExchange h l a b w).sigDump = s.sigDump := by simp [State.countExchange]
@[simp] theorem State.countExchange_xefin (s : State) (h : Fin 64) (l : Fin 4) (a b w : Nat) : (s.countExchange h l a b w).xefin = s.xefin := by simp [State.countExchange]
@[simp] theorem State.countExchange_power (s : State) (h : Fin 64) (l : Fin 4) (a b w : Nat) : (s.countExchange h l a b w).power = s.power := by simp [State.countExchange]

end Sys2Proof.Machine
end

