-- ==== Sys2Proof/Laws/Ops.lean ====
section
/-! SUPPORT. What the named operations answer: reads after writes, and what an instruction that issues does. -/
namespace Sys2Proof.Machine
variable {s t u : State}

/-! ## Entries -/

/-- Entries are read from the register file alone. -/
theorem State.entry_congr (h : t.dict = s.dict) (i j : Nat) : t.entry i j = s.entry i j := by
  unfold State.entry
  rw [h]

@[simp] theorem State.entry_setEntry_same (s : State) (i j v : Nat) : (s.setEntry i j v).entry i j = v :=
  sparseGet_set_same _ s.dict _ v

theorem State.entry_setEntry_ne (s : State) {i j a b : Nat} (v : Nat) (h : entryKey a b ≠ entryKey i j) :
    (s.setEntry i j v).entry a b = s.entry a b := sparseGet_set_ne _ _ s.dict v h

/-- Two entries share a place only where both numbers agree. -/
theorem entryKey_inj {a b i j : Nat} (hb : b < 256) (hj : j < 256) : entryKey a b = entryKey i j ↔ a = i ∧ b = j := by
  unfold entryKey
  omega

/-- A counter after it counts. -/
theorem State.entry_bump_same (s : State) (i j n : Nat) :
    (s.bump i j n).entry i j = if n = 0 then s.entry i j else wrap64 (s.entry i j + n) := by
  unfold State.bump
  split <;> simp

theorem State.entry_bump_ne (s : State) {i j a b : Nat} (n : Nat) (h : entryKey a b ≠ entryKey i j) :
    (s.bump i j n).entry a b = s.entry a b := by
  unfold State.bump
  split
  · rfl
  · exact s.entry_setEntry_ne _ h

@[simp] theorem State.entry_onHeat (s : State) (h : Fin 64) (f : Heat → Heat) (i j : Nat) :
    (s.onHeat h f).entry i j = s.entry i j := rfl
@[simp] theorem State.entry_onLane (s : State) (h : Fin 64) (l : Fin 4) (f : Lane → Lane) (i j : Nat) :
    (s.onLane h l f).entry i j = s.entry i j := rfl
@[simp] theorem State.entry_onBlade (s : State) (n : Fin 4) (f : Blade → Blade) (i j : Nat) :
    (s.onBlade n f).entry i j = s.entry i j := rfl
@[simp] theorem State.entry_onCrew (s : State) (c : Fin 4) (f : Crew → Crew) (i j : Nat) :
    (s.onCrew c f).entry i j = s.entry i j := rfl
@[simp] theorem State.entry_onEngine (s : State) (e : Fin 16) (f : Engine → Engine) (i j : Nat) :
    (s.onEngine e f).entry i j = s.entry i j := rfl
@[simp] theorem State.entry_nextPc (s : State) (h : Fin 64) (l : Fin 4) (i j : Nat) :
    (s.nextPc h l).entry i j = s.entry i j := rfl
@[simp] theorem State.entry_emit (s : State) (o : Output) (i j : Nat) : (s.emit o).entry i j = s.entry i j := rfl
@[simp] theorem State.entry_setCell (s : State) (k : Nat) (b : Byte) (i j : Nat) : (s.setCell k b).entry i j = s.entry i j := rfl
@[simp] theorem State.entry_advanceTo (s : State) (n i j : Nat) : (s.advanceTo n).entry i j = s.entry i j :=
  State.entry_congr (State.advanceTo_dict s n) i j
@[simp] theorem State.entry_setQueue (s : State) (x : UnitId) (q : UnitQueue) (i j : Nat) :
    (s.setQueue x q).entry i j = s.entry i j := State.entry_congr (State.setQueue_dict s x q) i j
@[simp] theorem State.entry_setSem (s : State) (h : Fin 64) (k v i j : Nat) : (s.setSem h k v).entry i j = s.entry i j :=
  State.entry_congr (State.setSem_dict s h k v) i j

/-! ## Memory cells -/

@[simp] theorem State.cell_setCell_same (s : State) (k : Nat) (b : Byte) : (s.setCell k b).cell k = b :=
  sparseGet_set_same _ s.mem k b

theorem State.cell_setCell_ne (s : State) {k a : Nat} (b : Byte) (h : a ≠ k) : (s.setCell k b).cell a = s.cell a :=
  sparseGet_set_ne _ _ s.mem b h

/-- Cells are read from the memory alone. -/
theorem State.cell_congr (h : t.mem = s.mem) (k : Nat) : t.cell k = s.cell k := by
  unfold State.cell
  rw [h]

/-! ## Tables, Heats and lanes -/

@[simp] theorem updAt_same {α : Type} {n : Nat} (v : Vector α n) (i : Fin n) (f : α → α) :
    (updAt v i f)[i.val] = f v[i.val] := by simp [updAt]

theorem updAt_ne {α : Type} {n : Nat} (v : Vector α n) {i j : Fin n} (f : α → α) (h : j ≠ i) :
    (updAt v i f)[j.val] = v[j.val] := by
  have : i.val ≠ j.val := fun e => h (Fin.ext e.symm)
  simp [updAt, this]

@[simp] theorem State.onHeat_heats (s : State) (h : Fin 64) (f : Heat → Heat) : (s.onHeat h f).heats = updAt s.heats h f := rfl
@[simp] theorem State.onBlade_blades (s : State) (n : Fin 4) (f : Blade → Blade) : (s.onBlade n f).blades = updAt s.blades n f := rfl
@[simp] theorem State.onCrew_crews (s : State) (c : Fin 4) (f : Crew → Crew) : (s.onCrew c f).crews = updAt s.crews c f := rfl
@[simp] theorem State.onEngine_engines (s : State) (e : Fin 16) (f : Engine → Engine) :
    (s.onEngine e f).engines = updAt s.engines e f := rfl
@[simp] theorem State.onDie_dies (s : State) (d : Fin 2) (f : Die → Die) : (s.onDie d f).dies = updAt s.dies d f := rfl
@[simp] theorem State.onRegion_regions (s : State) (r : Fin 64) (f : Region → Region) :
    (s.onRegion r f).regions = updAt s.regions r f := rfl

@[simp] theorem State.lane_onLane (s : State) (h : Fin 64) (l : Fin 4) (f : Lane → Lane) :
    (s.onLane h l f).lane h l = f (s.lane h l) := by
  simp [State.lane, State.onLane]

theorem State.lane_onLane_ne (s : State) {h g : Fin 64} {l m : Fin 4} (f : Lane → Lane) (e : g ≠ h ∨ m ≠ l) :
    (s.onLane h l f).lane g m = s.lane g m := by
  unfold State.lane State.onLane
  by_cases hg : g = h
  · subst hg
    simp [updAt_ne _ f (e.resolve_left fun k => k rfl)]
  · simp [updAt_ne _ _ hg]

/-- The lane that goes on is at the next instruction, and is otherwise as it was (R201). -/
@[simp] theorem State.lane_nextPc (s : State) (h : Fin 64) (l : Fin 4) :
    (s.nextPc h l).lane h l = { s.lane h l with pc := (s.lane h l).pc + 8 } := State.lane_onLane s h l _

theorem State.lane_nextPc_ne (s : State) {h g : Fin 64} {l m : Fin 4} (e : g ≠ h ∨ m ≠ l) :
    (s.nextPc h l).lane g m = s.lane g m := State.lane_onLane_ne s _ e

/-- Lanes are read from the Heats alone. -/
theorem State.lane_congr (h : t.heats = s.heats) (g : Fin 64) (l : Fin 4) : t.lane g l = s.lane g l := by
  unfold State.lane
  rw [h]

@[simp] theorem State.lane_bump (s : State) (i j n : Nat) (h : Fin 64) (l : Fin 4) : (s.bump i j n).lane h l = s.lane h l :=
  State.lane_congr (State.bump_heats s i j n) h l
@[simp] theorem State.lane_setQueue (s : State) (x : UnitId) (q : UnitQueue) (h : Fin 64) (l : Fin 4) :
    (s.setQueue x q).lane h l = s.lane h l := by cases x <;> rfl

/-! ## Semaphores -/

/-- Semaphores are read from the Heats and the Crews. -/
theorem State.sem_congr (hh : t.heats = s.heats) (hc : t.crews = s.crews) (h : Fin 64) (k : Nat) : t.sem h k = s.sem h k := by
  unfold State.sem
  rw [hh, hc]

@[simp] theorem State.sem_bump (s : State) (i j n : Nat) (h : Fin 64) (k : Nat) : (s.bump i j n).sem h k = s.sem h k :=
  State.sem_congr (State.bump_heats s i j n) (State.bump_crews s i j n) h k

@[simp] theorem State.sem_setSem (s : State) (h : Fin 64) (k v : Nat) : (s.setSem h k v).sem h k = v := by
  unfold State.sem State.setSem
  cases sharedOf k <;> simp

/-- Another semaphore of the same Heat keeps its value. -/
theorem State.sem_setSem_ne (s : State) (h : Fin 64) {k j : Nat} (v : Nat) (e : j ≠ k) : (s.setSem h k v).sem h j = s.sem h j := by
  unfold State.sem State.setSem sharedOf
  by_cases a : 256 ≤ k ∧ k ≤ 319 <;> by_cases b : 256 ≤ j ∧ j ≤ 319 <;> simp [a, b]
  · exact sparseGet_set_ne _ _ _ _ (by omega)
  · exact sparseGet_set_ne _ _ _ _ e

@[simp] theorem State.lane_setSem (s : State) (h g : Fin 64) (l : Fin 4) (k v : Nat) : (s.setSem h k v).lane g l = s.lane g l := by
  unfold State.setSem
  split
  · rfl
  · by_cases e : g = h
    · subst e; simp [State.lane]
    · simp [State.lane, updAt_ne _ _ e]

@[simp] theorem State.sem_onLane (s : State) (h g : Fin 64) (l : Fin 4) (f : Lane → Lane) (k : Nat) :
    (s.onLane h l f).sem g k = s.sem g k := by
  unfold State.sem
  split
  · rfl
  · by_cases e : g = h
    · subst e; simp [State.onLane]
    · simp [State.onLane, updAt_ne _ _ e]

@[simp] theorem State.sem_nextPc (s : State) (h g : Fin 64) (l : Fin 4) (k : Nat) : (s.nextPc h l).sem g k = s.sem g k :=
  State.sem_onLane ..

/-! ## Issue -/

/-- No fault is found exactly where no condition holds. -/
theorem lowestFault_eq_none (cs : List (Plan × Bool)) : lowestFault cs = none ↔ ∀ c ∈ cs, c.2 = false := by
  have aux : ∀ (l : List (Plan × Bool)) (b : Option Plan),
      l.foldl (fun best c => if c.2 then match best with
        | none => some c.1
        | some b => if c.1.code < b.code then some c.1 else some b
      else best) b = none ↔ b = none ∧ ∀ c ∈ l, c.2 = false := by
    intro l
    induction l with
    | nil => simp
    | cons c l ih =>
      intro b
      rw [List.foldl_cons, ih]
      cases hc : c.2 <;> cases b <;> simp [hc]
      intro h
      split at h <;> cases h
  exact (aux cs none).trans (and_iff_right rfl)

/-- An instruction that issues without a fault has its effect, and is counted (R470). -/
theorem State.issue_ok {h : Fin 64} {l : Fin 4} {faults : List (Plan × Bool)} {eff : State → State}
    (hc : s.canIssue h l = true) (hf : ∀ c ∈ faults, c.2 = false) :
    s.issue h l faults eff = .next (eff (s.bump (0x7200 + h.val) 6 1)) := by
  unfold State.issue State.issueOn
  rw [(lowestFault_eq_none faults).2 hf]
  simp [hc]

/-- An instruction that issues with a fault faults its Heat with the lowest code (R250, R666). -/
theorem State.issue_fault {h : Fin 64} {l : Fin 4} {faults : List (Plan × Bool)} {eff : State → State} {p : Plan}
    (hc : s.canIssue h l = true) (hf : lowestFault faults = some p) :
    s.issue h l faults eff = .next (s.faultHeat h l (s.lane h l).pc p) := by
  unfold State.issue State.issueOn
  rw [hf]
  simp [hc, State.faultHeat]

/-- A lane that cannot issue changes nothing. -/
theorem State.issue_stopped {h : Fin 64} {l : Fin 4} {faults : List (Plan × Bool)} {eff : State → State}
    (hc : s.canIssue h l = false) : s.issue h l faults eff = .next s := by
  unfold State.issue State.issueOn
  simp [hc]

/-! ## Unit queues -/

@[simp] theorem State.queue_setQueue (s : State) (x : UnitId) (q : UnitQueue) : (s.setQueue x q).queue x = q := by
  cases x <;> simp [State.queue, State.setQueue]

@[simp] theorem State.queue_onLane (s : State) (h : Fin 64) (l : Fin 4) (f : Lane → Lane) (x : UnitId) :
    (s.onLane h l f).queue x = s.queue x := by cases x <;> rfl

/-- An instruction enters a queue that has room, and that no lower-numbered lane waits for, at its end, and the lane goes on (R202). -/
theorem State.enqueue_room {h : Fin 64} {l : Fin 4} {x : UnitId} {op : QOp} {csem : Nat}
    (hr : (s.queue x).waiting.length < x.depth) (hy : s.yields h l x = false) :
    s.enqueue h l x op csem = (s.setQueue x { s.queue x with waiting := (s.queue x).waiting ++
      [{ heat := h, lane := l, pc := (s.lane h l).pc, op := op, csem := csem, tref := max (s.lane h l).openedAt (s.lane h l).leftAt }] }).nextPc h l := by
  unfold State.enqueue
  simp [hr, hy]

/-- A full queue stops the lane at the instruction (R202). -/
theorem State.enqueue_full {h : Fin 64} {l : Fin 4} {x : UnitId} {op : QOp} {csem : Nat}
    (hr : x.depth ≤ (s.queue x).waiting.length) :
    ∃ q, s.enqueue h l x op csem = s.onLane h l fun y => { y with stop := .stalled x q s.clock.now } := by
  unfold State.enqueue
  dsimp only
  rw [if_neg fun e => Nat.not_lt.2 hr e.1]
  exact ⟨_, rfl⟩

end Sys2Proof.Machine
end

