-- ==== Sys2Proof/Laws/Wait.lean ====
section
/-! SUPPORT. Waits on semaphores: when Marshal grants one, and what a grant does (R236, R237). -/
namespace Sys2Proof.Machine
variable {s t : State} {h g : Fin 64} {l m : Fin 4}

@[simp] theorem State.acting_onLane (s : State) (h g : Fin 64) (l : Fin 4) (f : Lane → Lane) :
    (s.onLane h l f).heats[g.val].acting = s.heats[g.val].acting := by
  unfold State.onLane
  by_cases e : g = h
  · subst e; simp [Heat.acting]
  · simp [updAt_ne _ _ e]

/-- A lane that waits is satisfiable exactly where its semaphore has reached its count and its Heat acts. -/
theorem State.satisfiable_waiting {sem n since : Nat} {c x a w : Bool}
    (e : (s.lane h l).stop = .waiting sem n c x a since w) :
    s.satisfiable h l (semKey h sem) = (decide (n ≤ s.sem h sem) && s.heats[h].acting) := by
  unfold State.satisfiable
  simp [e]

/-- A change of one lane leaves the others as satisfiable as they were. -/
theorem State.satisfiable_onLane_ne (f : Lane → Lane) (key : Nat) (e : g ≠ h ∨ m ≠ l) :
    (s.onLane h l f).satisfiable g m key = s.satisfiable g m key := by
  unfold State.satisfiable
  rw [State.lane_onLane_ne _ _ e]
  simp

@[simp] theorem State.satisfiable_bump (s : State) (i j n : Nat) (g : Fin 64) (m : Fin 4) (key : Nat) :
    (s.bump i j n).satisfiable g m key = s.satisfiable g m key := by
  unfold State.satisfiable
  simp

/-- Marshal grants a lane that no other lane competes with (R237). -/
theorem State.marshalGrants_alone {key : Nat} (e : ∀ g m, (g ≠ h ∨ m ≠ l) → s.satisfiable g m key = false) :
    s.marshalGrants h l key = true := by
  unfold State.marshalGrants
  simp only [List.all_eq_true]
  intro g _ m _
  by_cases k : g = h ∧ m = l
  · obtain ⟨rfl, rfl⟩ := k
    simp [MarshalPort.before]
  · rw [e g m (by by_cases a : g = h <;> simp_all)]
    rfl

@[simp] theorem State.parkedForOther_bump (s : State) (i j n : Nat) (h : Fin 64) (k : Nat) :
    (s.bump i j n).parkedForOther h k = s.parkedForOther h k := by
  simp [State.parkedForOther]

@[simp] theorem State.lane_onCrew (s : State) (c : Fin 4) (f : Crew → Crew) (h : Fin 64) (l : Fin 4) :
    (s.onCrew c f).lane h l = s.lane h l := rfl

/-- A semaphore is read as before after a change of a Crew that leaves its semaphores alone. -/
theorem State.sem_onCrew (s : State) (c : Fin 4) (f : Crew → Crew) (h : Fin 64) (k : Nat) (e : ∀ x, (f x).sems = x.sems) :
    (s.onCrew c f).sem h k = s.sem h k := by
  unfold State.sem
  split
  · by_cases q : crewOf h = c
    · subst q; simp [e]
    · simp [updAt_ne _ _ q]
  · rfl

@[simp] theorem State.sem_noteWin (s : State) (k now r : Nat) (rs : List Nat) (len : Nat) (h : Fin 64) (j : Nat) :
    (s.noteWin k now r rs len).sem h j = s.sem h j := rfl
@[simp] theorem State.lane_noteWin (s : State) (k now r : Nat) (rs : List Nat) (len : Nat) (h : Fin 64) (l : Fin 4) :
    (s.noteWin k now r rs len).lane h l = s.lane h l := rfl

@[simp] theorem State.sem_setHolder (s : State) (h : Fin 64) (k : Nat) (g : Fin 64) (j : Nat) :
    (s.setHolder h k).sem g j = s.sem g j := by
  unfold State.setHolder
  split
  · exact State.sem_onCrew s _ _ g j fun _ => rfl
  · rfl

@[simp] theorem State.lane_setHolder (s : State) (h : Fin 64) (k : Nat) (g : Fin 64) (l : Fin 4) :
    (s.setHolder h k).lane g l = s.lane g l := State.lane_congr (State.setHolder_heats s h k) g l

/-- The holder of a shared semaphore after it is acquired. -/
theorem State.setHolder_holders {k j : Nat} (e : sharedOf k = some j) :
    sparseGet 0 (s.setHolder h k).crews[crewOf h].holders j = h.val + 1 := by
  unfold State.setHolder
  rw [e]
  simp

@[simp] theorem State.sem_countExchange (s : State) (h : Fin 64) (l : Fin 4) (a b w : Nat) (g : Fin 64) (j : Nat) :
    (s.countExchange h l a b w).sem g j = s.sem g j :=
  State.sem_congr (State.countExchange_heats ..) (State.countExchange_crews ..) g j

@[simp] theorem State.lane_countExchange (s : State) (h : Fin 64) (l : Fin 4) (a b w : Nat) (g : Fin 64) (m : Fin 4) :
    (s.countExchange h l a b w).lane g m = s.lane g m := State.lane_congr (State.countExchange_heats ..) g m

/-- A grant takes the count of a wait that consumes or acquires, an acquisition records its holder, and the lane, and no
other, goes on. -/
theorem State.grant_spec {sem n since : Nat} {c x a w : Bool} (e : (s.lane h l).stop = .waiting sem n c x a since w) :
    (s.grant h l).sem h sem = s.sem h sem - (if c ∨ a then n else 0)
    ∧ (s.grant h l).lane h l = { s.lane h l with
        pc := (s.lane h l).pc + 8, stop := .running, waited := 0, leftAt := if a then (s.lane h l).leftAt else s.clock.now }
    ∧ (∀ g m, (g ≠ h ∨ m ≠ l) → (s.grant h l).lane g m = s.lane g m)
    ∧ ∀ k, a = true → sharedOf sem = some k → sparseGet 0 (s.grant h l).crews[crewOf h].holders k = h.val + 1 := by
  unfold State.grant
  rw [e]
  dsimp only
  refine ⟨?_, ?_, ?_, ?_⟩
  · cases a <;> cases c <;> split <;> simp
  · cases a <;> cases c <;> split <;> simp
  · intro g m k
    cases a <;> cases c <;> split <;> simp [State.lane_onLane_ne _ _ k]
  · intro k ha hk
    subst ha
    cases c <;> split <;> simpa using State.setHolder_holders hk

/-- Outside an exchange window that waited, a grant changes no entry but the slots that were waited. -/
theorem State.grant_dict {sem n since : Nat} {c x a w : Bool} (e : (s.lane h l).stop = .waiting sem n c x a since w)
    (hx : x = false ∨ s.stopTime h l since = 0) :
    (s.grant h l).dict = (s.bump (0x7200 + h.val) 8 (issueSlots (s.stopTime h l since))).dict := by
  unfold State.grant
  rw [e]
  have : ¬ (x = true ∧ 0 < s.stopTime h l since) := by
    rcases hx with rfl | hx
    · simp
    · omega
  dsimp only
  rw [if_neg this]
  cases a <;> cases c <;> simp [State.bump, State.entry] <;> split <;> simp [State.setEntry]

/-- A wait whose semaphore has not reached its count stops the lane (R236). -/
theorem State.beginWait_stops {sem n : Nat} {c x a : Bool} (hp : s.parkedForOther h sem = false) (hn : s.sem h sem < n) :
    s.beginWait h l sem n c x a = s.onLane h l fun y => { y with stop := .waiting sem n c x a s.clock.now false } := by
  unfold State.beginWait
  rw [hp]
  dsimp only
  rw [State.satisfiable_waiting (sem := sem) (n := n) (c := c) (x := x) (a := a) (since := s.clock.now) (w := false) (by simp)]
  simp [Nat.not_le.2 hn]

/-- A wait whose semaphore has reached its count, and that no other lane competes for, is granted at once (R236, R237). -/
theorem State.beginWait_granted {sem n : Nat} {c x a : Bool} (hp : s.parkedForOther h sem = false) (hn : n ≤ s.sem h sem)
    (ha : s.heats[h].acting = true) (e : ∀ g m, (g ≠ h ∨ m ≠ l) → s.satisfiable g m (semKey h sem) = false) :
    s.beginWait h l sem n c x a =
      (s.onLane h l fun y => { y with stop := .waiting sem n c x a s.clock.now false }).grant h l := by
  unfold State.beginWait
  rw [hp]
  dsimp only
  rw [State.satisfiable_waiting (sem := sem) (n := n) (c := c) (x := x) (a := a) (since := s.clock.now) (w := false) (by simp),
    State.marshalGrants_alone fun g m k => (State.satisfiable_onLane_ne _ _ k).trans (e g m k)]
  have : s.heats[h.val].acting = true := ha
  simp [hn, this]

end Sys2Proof.Machine
end

