-- ==== Sys2Proof/WellFormed.lean ====
section
/-! DEFINITION. When a command is one that the outside can send: the sizes and ranges that the spec gives what arrives. The
meanings are total: a command that is not well formed has an effect too, and no statement is made about it here. -/
namespace Sys2Proof

/-- A frame on an Oarlock carries at most 4,352 bytes of payload (Table 09-4). -/
def RxFrame.wf (f : RxFrame) : Bool := f.payload.length ≤ 4352

/-- A Xefin frame fits a UDP datagram of 1,472 bytes, or the mailbox slot of 4,096 bytes, with its 32-byte header (R586, R587,
R589). -/
def XefinFrame.wf (q : XefinFrame) : Bool :=
  match q.port with
  | .mgmt _ _ => q.payload.length ≤ 1440
  | .mailbox => q.payload.length ≤ 4064

/-- A DOE data object holds at most 2¹⁸ words of four bytes, two of them its header. -/
def SpdmVia.wf : SpdmVia → Bool
  | .doe m => m.length ≤ 2 ^ 20 - 8
  | .xefin q => q.wf

/-- At most one verdict for each of the two slots of eight components (Table 12-2). -/
def verdictsWf (codes : List (BitVec 3)) : Bool := codes.length ≤ 16

/-- Whether a command is well formed. -/
def Instr.wf : Instr → Bool
  | .tileDecision _ band _ => band < 2 ^ 18
  | .tileRedo _ band => band < 2 ^ 18
  | .bladeComplete _ x => x.waits.length == 7
  | .hbmWrite _ _ _ bytes _ => 1 ≤ bytes.length && bytes.length ≤ 512
  | .identityFrame _ f | .encaps _ f | .cipher _ f | .telem _ f | .stopFrame _ f => f.wf
  | .proof _ f _ d => f.wf && d.length == 32
  | .rekey _ f _ | .crewUpdate _ f _ | .crewAck _ f _ => f.wf
  | .reduceSegment _ f | .gatherSegment _ f | .permuteSegment _ f | .consensusWord _ f => f.wf
  | .wardData _ f | .sealReq _ f | .sealRep _ f | .restoreData _ f => f.wf
  | .getVersion v | .getCapabilities v | .negotiateAlgorithms v | .getDigests v | .getCertificate v | .challenge v
  | .getMeasurements v | .spdmUnsupportedRequest v => v.wf
  | .read q | .readBlob q | .logbookRead q | .write q | .writeBlob q | .imageWrite q _ | .keyDelivery q _ | .stage q | .discard q
  | .commit q | .cancel q | .sessOpen q _ | .sessClose q => q.wf
  | .icmpEcho _ _ d => d.length ≤ 1472
  | .unsealSegmentDone _ _ plain _ => plain.length ≤ 65536
  | .stretchEnd _ cycles => 256 ≤ cycles
  | .bootRunning codes | .backgroundVerifyDone codes => verdictsWf codes
  | _ => true

end Sys2Proof
end

