-- ==== Sys2Proof/Tests/Slice0.lean ====
section
/-! SUPPORT. Tests: words of the spec and what they decode to, what the well-formedness check refuses, and for every statement of the
certificate that has hypotheses a witness that meets all of them together (`wit_` and the statement's name). -/
open Sys2Proof Sys2Proof.Machine
namespace Sys2Proof.Tests
set_option Elab.async false

/-! ## Words of the spec -/

/-- The CLOSE of Table 05-19 (Table 05-7). -/
theorem test_decode_close : decodePlan 0 0 .prefetch 0x1010100090900414#64 =
    .blRun 0 0 0 0x0400 2 false true 0x0900 false 2 20 := by decide +kernel

/-- The CT_LOOP of Table 05-19 (Table 05-15). -/
theorem test_decode_loop : decodePlan 0 0 .prefetch 0x6051FFFFE0000000#64 = .ctLoop 0 0 1 0xFFFFE 0 := by decide +kernel

/-- CH_BIND (Table 05-10): class 2, opcode 03, blade 01, receive slot 100001, frame tag 1000000000000101. -/
theorem test_decode_chBind :
    decodePlan 3 1 .prefetch 0b0010_00000011_01_100001_1000000000000101_0000000000000000000000000001#64 = .chBind 3 1 1 33 0x8005 1 := by
  decide +kernel

/-- SC_QUANT (R225): class 3, opcode 02, Scull 1001, handle 3, xi 1111, csem 511. -/
theorem test_decode_scQuant :
    decodePlan 3 1 .prefetch 0b0011_00000010_1001_0000000000000011_1111_111111111_0000000000000000000#64 = .scQuant 3 1 9 3 15 511 0 := by
  decide +kernel

/-- LA_RELAY (R233, Table 05-13): class 4, opcode 03, engine 0, handle 8001, xi 0, csem 1. -/
theorem test_decode_laRelay :
    decodePlan 3 1 .prefetch 0b0100_00000011_0000_1000000000000001_0000_000000001_0000000000000000000#64 = .laRelay 3 1 0 0x8001 0 1 0 := by
  decide +kernel

/-- SY_WAIT (Table 05-14): class 5, opcode 02, sem 257, n 3, consume 1, xwin 0. -/
theorem test_decode_syWait :
    decodePlan 3 1 .prefetch 0b0101_00000010_100000001_0000000000000011_1_0_0000000000000000000000000#64 =
      .syWait 3 1 257 3 true false 0 := by decide +kernel

/-- CT_SVC (Tables 05-15 and 05-16): class 6, opcode 0A, service 3 (CHECKPOINT), argument handle 0, csem 7. -/
theorem test_decode_checkpoint :
    decodePlan 3 1 .prefetch 0b0110_00001010_000000000011_0000000000000000_000000111_000000000000000#64 = .checkpoint 3 1 0 7 0 := by
  decide +kernel

/-- Class 7 is reserved (R203). -/
theorem test_decode_reserved : decodePlan 3 1 .prefetch (7 <<< 60) = .illegal 3 1 (7 <<< 60) := by decide +kernel

/-! ## Ill-formed commands -/

/-- A frame of one byte too many. -/
def longFrame : RxFrame := { hdr := 0, ext := 0, payload := List.replicate 4353 0, whole := true, tagOk := true, corrected := 0 }

/-- A Xefin frame with `n` bytes after its header. -/
def xefinOf (port : Port) (n : Nat) : XefinFrame := { port := port, hdr := 0, payload := List.replicate n 0, tagOk := true }

theorem test_wf_tileDecision : (Instr.tileDecision 0 (2 ^ 18) 0).wf = false := by decide +kernel
theorem test_wf_tileRedo : (Instr.tileRedo 0 (2 ^ 18)).wf = false := by decide +kernel
theorem test_wf_bladeComplete : (Instr.bladeComplete 0 ⟨[], {}⟩).wf = false := by decide +kernel
theorem test_wf_hbmWrite : (Instr.hbmWrite 0 0 0 [] []).wf = false := by decide +kernel
theorem test_wf_frame : longFrame.wf = false := by decide +kernel
theorem test_wf_telem : (Instr.telem 0 longFrame).wf = false := by decide +kernel
theorem test_wf_xefin_udp : (Instr.read (xefinOf (.mgmt 1 2) 1441)).wf = false := by decide +kernel
theorem test_wf_xefin_mailbox : (Instr.read (xefinOf .mailbox 4065)).wf = false := by decide +kernel
theorem test_wf_xefin_fits : (Instr.read (xefinOf .mailbox 4064)).wf = true := by decide +kernel
theorem test_wf_spdm : (Instr.getDigests (.xefin (xefinOf .mailbox 4065))).wf = false := by decide +kernel
theorem test_wf_stretchEnd : (Instr.stretchEnd 0 255).wf = false := by decide +kernel
theorem test_wf_verdicts : (Instr.bootRunning (List.replicate 17 0)).wf = false := by decide +kernel

/-! ## Witnesses -/

/-- Heat 0 RUNNING with one lane in the middle of its stream; its descriptors and its kind plane stand in the Tank scratch. -/
def heatA : Heat :=
  { status := .running
    header := { dcount := 64, dtab := 0xF000010000, kplane := 0xF000000000, chist := 0, lanes := [⟨0x1000, 64, 1, 100⟩] }
    lanes := Vector.ofFn fun l => if l = 0 then { start := 0x1000, length := 64, blades := 1, budget := 100, pc := 0x1008, stop := .running } else {} }

/-- The machine with Heat 0 RUNNING and all of the Tank as scratch of Crew 0. -/
def base : State :=
  ({ State.reset with heats := State.reset.heats.set 0 heatA }.setEntry 0x4200 1 (2 ^ 64 - 1)).setEntry 0x4201 1 (2 ^ 64 - 1)

/-- `base` with a descriptor of a kind at handle `d`. -/
def desc (d kind v : Nat) (s : State) : State :=
  (s.setCells (tankKey d) (leBytes 1 kind)).setCells (tankKey (0x10000 + 32 * d)) (leBytes 32 v)

/-- A state with lane 0 of Heat 0 stopped. -/
def stopped (x : LaneStop) (s : State) : State := s.onLane 0 0 fun l => { l with stop := x }

theorem pair_snd {α β : Type} {p : α × β} {b : β} (h : p.2 = b) : p = (p.1, b) := by subst h; rfl

/-! ## Witnesses: a state and operands that meet the hypotheses of each statement -/

theorem wit_AnEmptyQueueTicks : (∃ s : State, s.pending = [] ∧ s.inReset = true)
    ∧ ∃ s : State, s.pending = [] ∧ s.inReset = false ∧ s.clock.adjust = 0 ∧ s.clock.frac < 2 ^ 32 :=
  ⟨⟨{ State.reset with power := { sysRstLow := true } }, by decide +kernel⟩,
    { State.reset with clock := { frac := 2 ^ 32 - 1 } }, by decide +kernel⟩

theorem wit_EveryStepKeepsTheInvariant : ∃ s t : State, s.Inv ∧ step s = .next t :=
  ⟨{ State.reset with mem := [(0, 1), (2 ^ 43, 255)], pending := [.ergSnapshot] }, _, by unfold State.Inv State.memCanonical; decide +kernel,
    rfl⟩

theorem wit_PlanWordsDecodeBack : ∃ (i : Instr) (h : Fin 64) (l : Fin 4) (w : BitVec 64), encodePlan i = some (h, l, w) :=
  ⟨.ctLoop 63 3 1 0xFFFFE 0, 63, 3, 0x6051FFFFE0000000#64, by decide +kernel⟩

theorem wit_MemoryReadsBack : (∃ (bs : List Byte) (i : Nat), i < bs.length)
    ∧ ∃ (a : Acc) (addr k : Nat), base.locate a addr = some (.cell k) :=
  ⟨⟨[7], 0, by decide⟩, base.accOf 0, 0xF01FFFFFFF, tankKey 0x1FFFFFFF, by decide +kernel⟩

theorem wit_CommandsWithoutStoresKeepMemory : ∃ (c : Instr) (s t : State), storesNothing c = true ∧ exec c s = .next t :=
  ⟨.ergSnapshot, State.reset, _, rfl, rfl⟩

theorem wit_SemaphoresCount_post : ∃ (s : State) (h : Fin 64) (l : Fin 4), s.canIssue h l = true
    ∧ (∃ (sem : BitVec 9) (n : BitVec 16), sem.toNat < 320 ∧ n ≠ 0 ∧ s.sem h sem.toNat + n.toNat < 2 ^ 32)
    ∧ ∃ sem : BitVec 9, sem.toNat < 256 :=
  ⟨base.setSem 0 319 (2 ^ 32 - 2), 0, 0, by decide +kernel, ⟨319, 1, by decide +kernel⟩, 255, by decide⟩

theorem wit_SemaphoresCount_wait : ∃ (s : State) (h : Fin 64) (l : Fin 4),
    (∃ (sem : BitVec 9) (n : BitVec 16), s.canIssue h l = true ∧ sem.toNat < 320 ∧ s.parkedForOther h sem.toNat = false
      ∧ s.sem h sem.toNat < n.toNat)
    ∧ (∃ (sem : BitVec 9) (n : BitVec 16), s.canIssue h l = true ∧ sem.toNat < 320 ∧ s.parkedForOther h sem.toNat = false
      ∧ n.toNat ≤ s.sem h sem.toNat ∧ ∀ g m, (g ≠ h ∨ m ≠ l) → s.satisfiable g m (semKey h sem.toNat) = false)
    ∧ (∃ sem : BitVec 9, s.canIssue h l = true ∧ 256 ≤ sem.toNat ∧ sem.toNat < 320 ∧ s.parkedForOther h sem.toNat = false
      ∧ 1 ≤ s.sem h sem.toNat ∧ ∀ g m, (g ≠ h ∨ m ≠ l) → s.satisfiable g m (semKey h sem.toNat) = false) :=
  ⟨base.setSem 0 319 1, 0, 0, ⟨0, 1, by decide +kernel⟩, ⟨319, 1, by decide +kernel⟩, 319, by decide +kernel⟩

theorem wit_SemaphoresCount_release : ∃ (s : State) (h : Fin 64) (l : Fin 4) (sem : BitVec 9), s.canIssue h l = true ∧ 256 ≤ sem.toNat
    ∧ sem.toNat < 320 ∧ sparseGet 0 s.crews[crewOf h].holders (sem.toNat - 256) = h.val + 1 ∧ s.sem h sem.toNat + 1 < 2 ^ 32 :=
  ⟨base.onCrew 0 fun c => { c with holders := [(0, 1)] }, 0, 0, 256, by decide +kernel⟩

theorem wit_SemaphoresCount_granted : ∃ (s : State) (h : Fin 64) (l : Fin 4) (sem n since : Nat) (consume warned : Bool),
    (s.lane h l).stop = .waiting sem n consume false false since warned ∧ s.heats[h].acting = true ∧ n ≤ s.sem h sem
      ∧ ∀ g m, (g ≠ h ∨ m ≠ l) → s.satisfiable g m (semKey h sem) = false :=
  ⟨stopped (.waiting 5 3 true false false 0 false) (base.setSem 0 5 3), 0, 0, 5, 3, 0, true, false, by decide +kernel⟩

theorem wit_FencesAndFramesStopTheLane : (∃ (s : State) (h : Fin 64) (l : Fin 4), s.canIssue h l = true
      ∧ ∀ m, (s.lane h m).stop ≠ .closing true true)
    ∧ ∃ (s : State) (h : Fin 64) (l : Fin 4) (join : Bool), (s.lane h l).stop = .closing join false ∧ s.heats[h].status = .running
      ∧ s.heats[h].request = none ∧ s.frameWorkDone h l = true ∧ (join = true → s.joined h (s.lane h l).frame = true) :=
  ⟨⟨base, 0, 0, by decide +kernel⟩, stopped (.closing true false) base, 0, 0, true, by decide +kernel⟩

theorem wit_WatchdogReportsOnce : ∃ (s : State) (h : Fin 64) (l : Fin 4) (sem n since : Nat) (c x a : Bool),
    (s.lane h l).stop = .waiting sem n c x a since false ∧ s.heats[h].acting = true ∧ s.log.queues[0].waiting.length < 256 :=
  ⟨stopped (.waiting 319 65535 true true true 9 false) base, 0, 0, 319, 65535, 9, true, true, true, by decide +kernel⟩

theorem wit_QueueSpaceEnters : ∃ (s : State) (h : Fin 64) (l : Fin 4) (u : UnitId) (q : QItem) (since : Nat),
    (s.lane h l).stop = .stalled u q since ∧ (s.queue u).waiting.length < u.depth ∧ s.heats[h].acting = true
      ∧ ∀ m, m < l → ∀ q' t, (s.lane h m).stop ≠ .stalled u q' t :=
  ⟨stopped (.stalled (.scull 15) ⟨0, 0, 0x1008, .scull 1 2, 511, 0⟩ 4) base, 0, 0, .scull 15, ⟨0, 0, 0x1008, .scull 1 2, 511, 0⟩, 4,
    by decide +kernel, by decide +kernel, by decide +kernel, fun m hm => absurd hm (by simp)⟩

theorem wit_BranchesGoWhereTheySay : ∃ (s : State) (h : Fin 64) (l : Fin 4) (off : BitVec 20), s.canIssue h l = true
    ∧ ((s.lane h l).start : Int) ≤ (s.lane h l).pc + 8 * off.toInt
    ∧ ((s.lane h l).pc : Int) + 8 * off.toInt < (s.lane h l).start + 8 * (s.lane h l).length
    ∧ ∃ (cond : BitVec 3) (sem : BitVec 9), cond ≠ 7 ∧ (cond ≠ 4 → sem = 0) ∧ sem.toNat < 320 :=
  ⟨base, 0, 0, 0xFFFFF, by decide +kernel, by decide +kernel, by decide +kernel, 4, 319, by decide⟩

theorem wit_ControlStopsAndSteps_issue : ∃ (s : State) (h : Fin 64) (l : Fin 4), s.canIssue h l = true
    ∧ (∃ phase : BitVec 3, phase.toNat < 5)
    ∧ ∃ (handle : BitVec 16) (xi : BitVec 4) (d : Nat), d = (s.lane h l).handle handle.toNat xi.toNat ∧ d < s.heats[h].header.dcount
      ∧ s.kindOf h d = 9 ∧ ∃ r, (s.heats[h].request = none ∨ s.liveRanges h d = .inr r) :=
  ⟨desc 63 9 0 base, 0, 0, by decide +kernel, ⟨4, by decide⟩, 63, 0, 63, by decide +kernel, by decide +kernel, by decide +kernel, ([], false),
    by decide +kernel⟩

theorem wit_ControlStopsAndSteps_loop : ∃ (s : State) (h : Fin 64) (lanes : List (Fin 4)) (s' : State),
    lanes = ((List.finRange 4).filter fun l => decide (l.val < s.heats[h].header.lanes.length)) ∧ lanes ≠ [] ∧ s.heats[h].acting = true
      ∧ s.heats[h].request = none ∧ (∀ l ∈ lanes, (s.lane h l).stop = .closing true true ∧ s.frameWorkDone h l = true)
      ∧ s' = lanes.foldl (fun s l => s.closeFrame h l) s ∧ s'.historyOk h (s'.autoTensors h) = true :=
  ⟨stopped (.closing true true) base, 0, [0], _, by decide +kernel, by decide, by decide +kernel, by decide +kernel, by decide +kernel, rfl,
    by decide +kernel⟩

/-- `base` with every lane of Heat 0 halted. -/
def halted : State := stopped .halted base

theorem wit_HaltedHeatsAreDone : (∃ (s : State) (h : Fin 64) (l : Fin 4), s.canIssue h l = true)
    ∧ ∃ (s : State) (h : Fin 64), s.heats[h].status = .running ∧ (∀ l, (s.lane h l).stop = .halted)
      ∧ s.outstanding (·.heat == h) = false ∧ s.heats[h].services = [] ∧ s.log.queues[0].waiting.length < 256 :=
  ⟨⟨base, 0, 0, by decide +kernel⟩, halted, 0, by decide +kernel⟩

theorem wit_BadWordsFault : ∃ (s : State) (h : Fin 64) (l : Fin 4), s.canIssue h l = true
    ∧ (∃ word : BitVec 64, listedWord word.toNat = false)
    ∧ (∃ word : BitVec 64, listedWord word.toNat = true ∧ unknownService word.toNat = true ∧ bitsOf word.toNat 0 15 = 0
      ∧ semBad true (bitsOf word.toNat 15 9) = false)
    ∧ ∃ c : Instr, ∃ u d x k r, r ≠ 0 ∧ c = .scAdd h l u d x k r :=
  ⟨base, 0, 0, by decide +kernel, ⟨0x7010000000000000#64, by decide +kernel⟩, ⟨0x60A0050000FF8000#64, by decide +kernel⟩, _, 3, 0, 0, 511, 1,
    by decide, rfl⟩

/-- A table of `len` bytes at an address. -/
def tableAt (at_ len : Nat) : Nat := at_ + len * 2 ^ 40

theorem wit_ServicesReadTheHostRings_note : ∃ (s : State) (h : Fin 64) (l : Fin 4) (handle : BitVec 16) (csem : BitVec 9) (at_ len : Nat),
    s.canIssue h l = true ∧ (csem.toNat < 320 ∨ csem = 511) ∧ handle.toNat < s.heats[h].header.dcount ∧ s.kindOf h handle.toNat = 5
      ∧ s.argTable h handle.toNat = some (at_, len) ∧ s.decodes (s.accOf h) at_ len = true ∧ len ≤ 32
      ∧ (csem = 511 ∨ s.sem h csem.toNat + 1 < 2 ^ 32) ∧ s.log.queues[0].waiting.length < 256 :=
  ⟨desc 2 5 (tableAt 0xF000020000 32) base, 0, 0, 2, 319, 0xF000020000, 32, by decide +kernel⟩

/-- The arguments of an INGEST: ring 4096, k 4, entries of 64 bytes, destination in Tank scratch, 16 entries. -/
def ingestA : IngestArg := { ring := 4096, k := 4, esize := 64, dst := 0xF000040000, n := 16 }

theorem wit_ServicesReadTheHostRings_ingest : ∃ (s : State) (h : Fin 64) (l : Fin 4) (handle : BitVec 16) (csem : BitVec 9) (at_ : Nat)
    (a : IngestArg), s.canIssue h l = true ∧ (csem.toNat < 320 ∨ csem = 511) ∧ handle.toNat < s.heats[h].header.dcount
      ∧ s.kindOf h handle.toNat = 5 ∧ s.argTable h handle.toNat = some (at_, 32) ∧ s.decodes (s.accOf h) at_ 32 = true
      ∧ IngestArg.parse (s.loadNat (s.accOf h) at_ 32) = some a :=
  ⟨(desc 2 5 (tableAt 0xF000020000 32) base).setCells (tankKey 0x20000)
      (leBytes 32 (4096 + 4 * 2 ^ 64 + 2 ^ 80 + 0xF000040000 * 2 ^ 96 + 16 * 2 ^ 136)), 0, 0, 2, 511, 0xF000020000, ingestA, by decide +kernel⟩

/-- The arguments of an ADMIT: rings of 2 entries, one page of 256 bytes for one token, contexts of one token. -/
def admitA : AdmitArg :=
  { rq := 4096, cq := 8192, krq := 1, kcq := 1, pool := 0xF000200000, ptok := 1, npages := 1, psize := 1, stab := 0xF000300000, ctxmax := 1 }

/-- `base` with these arguments in Tank scratch, and their table at handle 2. -/
def admitState : State :=
  (desc 2 5 (tableAt 0xF000020000 64) base).setCells (tankKey 0x20000)
    (leBytes 64 (4096 + 8192 * 2 ^ 64 + 2 ^ 128 + 2 ^ 133 + 0xF000200000 * 2 ^ 144 + 2 ^ 184 + 2 ^ 192 + 2 ^ 216 + 0xF000300000 * 2 ^ 248
      + 2 ^ 288))

theorem wit_ServicesReadTheHostRings_admission : ∃ (s : State) (h : Fin 64) (l : Fin 4) (handle : BitVec 16) (csem : BitVec 9) (at_ : Nat)
    (a : AdmitArg), (s.canIssue h l = true ∧ (csem.toNat < 320 ∨ csem = 511) ∧ handle.toNat < s.heats[h].header.dcount
      ∧ s.kindOf h handle.toNat = 5 ∧ s.argTable h handle.toNat = some (at_, 64) ∧ s.decodes (s.accOf h) at_ 64 = true
      ∧ AdmitArg.parse (s.loadNat (s.accOf h) at_ 64) = some a
      ∧ s.plainRange h a.stab (8192 + 512 * a.need a.ctxmax) = true ∧ s.plainRange h a.pool (256 * a.psize * a.npages) = true)
      ∧ ∀ v ∈ s.heats[h].services, ∀ b, v.op ≠ .admission b :=
  ⟨admitState, 0, 0, 2, 511, 0xF000020000, admitA, by decide +kernel, fun v hv => by
    have e : admitState.heats[(0 : Fin 64)].services = [] := by decide +kernel
    rw [e] at hv; cases hv⟩

theorem wit_ServicesReadTheHostRings_copy : ∃ (s : State) (h : Fin 64) (ring producer : BitVec 64) (v : Service) (a : IngestArg) (fill : Nat),
    s.heats[h].ingestOn ring.toNat = some (v, a) ∧ s.heats[h].acting = true ∧ v.csem = 511
      ∧ fill = (producer.toNat + 2 ^ 64 - s.ringIndex a.ring) % 2 ^ 64 ∧ fill ≤ 2 ^ a.k ∧ a.n ≤ fill
      ∧ s.ingestNext a.ring v = true ∧ s.writable (s.accOf h) a.dst (a.n * a.esize) = true
      ∧ s.delivers [{ at_ := a.dst, len := a.n * a.esize, write := true }] = true :=
  ⟨base.onHeat 0 fun x => { x with services := [{ op := .ingest ingestA, lane := 0, pc := 0x1000, csem := 511, order := 0 }] }, 0, 4096, 16,
    { op := .ingest ingestA, lane := 0, pc := 0x1000, csem := 511, order := 0 }, ingestA, 16, by decide +kernel⟩

theorem wit_ServicesReadTheHostRings_request : ∃ (s : State) (h : Fin 64) (producer consumer : BitVec 64) (entry : BitVec 512) (a : AdmitArg)
    (plen maxnew : Nat), s.heats[h].admission = some a ∧ s.ringIndex a.rq ≠ producer.toNat
      ∧ (s.ringIndex a.cq + 2 ^ 64 - consumer.toNat) % 2 ^ 64 < 2 ^ a.kcq ∧ s.crews[crewOf h].admission.length < 1024
      ∧ plen = bitsOf entry.toNat 64 32 ∧ maxnew = bitsOf entry.toNat 96 32 ∧ a.need (plen + maxnew) ≤ a.npages
      ∧ plen + maxnew ≤ a.ctxmax :=
  ⟨base.onHeat 0 fun x => { x with admission := some admitA }, 0, 1, 0, BitVec.ofNat 512 (7 + 2 ^ 64), admitA, 1, 0, by decide +kernel⟩

theorem wit_CheckpointsSnapshot : ∃ (s : State) (h : Fin 64), (∃ (l : Fin 4) (csem : BitVec 9), s.canIssue h l = true
      ∧ (csem.toNat < 320 ∨ csem = 511) ∧ (csem = 511 ∨ s.sem h csem.toNat + 1 < 2 ^ 32))
    ∧ ∃ (v : Service) (rest : List Service) (before : List QItem), s.heats[h].services = v :: rest ∧ v.op = .checkpoint before ∧ v.csem = 511
      ∧ s.heats[h].acting = true ∧ (∀ q ∈ before, s.outstanding (· == q) = false) ∧ s.slipways[crewOf h].settled = true :=
  ⟨base.onHeat 0 fun x => { x with services := [{ op := .checkpoint [⟨0, 0, 0x1000, .launch 1 0, 511, 0⟩], lane := 0, pc := 0x1000, csem := 511, order := 0 }] },
    0, ⟨0, 319, by decide +kernel⟩, { op := .checkpoint [⟨0, 0, 0x1000, .launch 1 0, 511, 0⟩], lane := 0, pc := 0x1000, csem := 511, order := 0 }, [],
    [⟨0, 0, 0x1000, .launch 1 0, 511, 0⟩], by decide +kernel⟩

/-- A plan header of one lane, in Tank scratch at 0xF0_0005_0000 for Heat 0. -/
def withPlan (s : State) : State :=
  (s.setCells (tankKey 0x50000) (leBytes 128 (1 + 2 ^ 32 + 0xF000010000 * 2 ^ 64 + 0xF000000000 * 2 ^ 128 + 0x1000 * 2 ^ 256 + 2 ^ 296
    + 2 ^ 324))).setEntry 0x7300 1 0xF000050000

theorem wit_HeatCommandsAct : (∃ (s : State) (h : Fin 64), s.startStatus h = 0 ∧ s.log.queues[0].waiting.length < 256)
    ∧ (∃ (s : State) (h : Fin 64), s.startStatus h ≠ 0)
    ∧ (∃ (s : State) (h : Fin 64), s.heats[h].status = .running ∨ s.heats[h].status = .preempted)
    ∧ (∃ (s : State) (h : Fin 64), s.heats[h].status = .running)
    ∧ ∃ (s : State) (h : Fin 64), s.heats[h].status = .preempted ∧ s.crewBusy (crewOf h) = false ∧ s.crews[crewOf h].state = .normal :=
  ⟨⟨withPlan (base.onHeat 0 fun x => { x with status := .idle }), 0, by decide +kernel⟩, ⟨base, 0, by decide +kernel⟩,
    ⟨base, 0, by decide +kernel⟩, ⟨base, 0, by decide +kernel⟩, base.onHeat 0 fun x => { x with status := .preempted }, 0, by decide +kernel⟩

theorem wit_CountersAreWritten : (∃ (s t : State) (h : Fin 64), s.startStatus h = 0 ∧ exec (.start h) s = .next t)
    ∧ ∃ (s : State) (h : Fin 64) (l : Fin 4), s.canIssue h l = true :=
  ⟨⟨withPlan (base.onHeat 0 fun x => { x with status := .idle }), _, 0, by decide +kernel, rfl⟩, base, 0, 0, by decide +kernel⟩

theorem wit_PreemptionSavesAndRestores_request : ∃ (s : State) (h : Fin 64) (r : Preempt), s.heats[h].request = some r
    ∧ s.heats[h].acting = true ∧ s.heats[h].lanesStopped = true ∧ s.issuedDone h = true ∧ s.markFault h = none
    ∧ (s.entry 0x7100 2 ≠ 0 ∨ s.multiModule (crewOf h) = true) ∧ s.multiModule (crewOf h) = false ∧ s.log.queues[0].waiting.length < 256 :=
  ⟨halted.onHeat 0 fun x => { x with request := some { at_ := 5 } }, 0, { at_ := 5 }, by decide +kernel⟩

/-- An SB8 tensor of 64 × 64 in Tank scratch. -/
def tensorA : Tensor := ⟨0xF000060000, 0, 0xF000070000, 0, false, 0, .sb8, 64, 64, 0, false⟩

/-- A collective of Heat 0 in a phase. -/
def collA (p : RelayPhase) : Collective :=
  { item := ⟨0, 0, 0x1000, .launch 3 1, 511, 0⟩, src := tensorA, dst := tensorA, work := tensorA
    d := { op := 1, tag := 0, axes := 1, rdst := false, rblade := 0, rslot := 0, aexp0 := 0, hs := 0, hd := 0, hw := 0xFFFF, hp := 0xFFFF,
           split := false, b0 := 0, nb := 1 }
    step := 0, seed := 0, stages := [⟨0, .ring, 2, 0⟩], size := 2, shard := 0, phase := p }

/-- A slice of two modules in the first axis for Crew 0. -/
def twoModules (s : State) : State := s.setEntry 0x6100 4 2

theorem wit_PreemptionSavesAndRestores_limit : ∃ (s : State) (h : Fin 64), s.heats[h].request.isSome = true
    ∧ s.multiModule (crewOf h) = true ∧ s.collecting h = true ∧ s.crews[crewOf h].state = .normal :=
  ⟨twoModules { halted.onHeat 0 (fun x => { x with request := some { at_ := 5 } }) with collectives := [collA .reduce] }, 0,
    by decide +kernel⟩

theorem wit_PreemptionSavesAndRestores_complete : (∃ (s : State) (h : Fin 64) (at_ : Nat) (full : Bool),
      (s.heats[h].request.bind (·.save)) = some (at_, full) ∧ s.collecting h = false ∧ s.windowsIdle h = true
        ∧ s.unitsRun (crewOf h) (· != h) = false)
    ∧ ∃ (s : State) (h : Fin 64) (at_ : Nat), s.heats[h].restoring = some at_ ∧ s.heats[h].restored = false
      ∧ s.unitsRun (crewOf h) (fun _ => true) = false :=
  ⟨⟨halted.onHeat 0 fun x => { x with request := some { at_ := 5, save := some (7, true) } }, 0, 7, true, by decide +kernel⟩,
    base.onHeat 0 (fun x => { x with restoring := some 9 }), 0, 9, by decide +kernel⟩

theorem wit_EdgesOpenFrames : ∃ s : State, s.inReset = false ∧ (∀ h : Fin 64, s.heats[h].services = [] ∧ s.heats[h].restored = false)
    ∧ s.heats[0].status = .running ∧ (s.lane 0 0).stop = .unopened 1 :=
  ⟨stopped (.unopened 1) base, by decide +kernel⟩

theorem wit_MaintenanceSlotOpens : (∃ r, dictRow 0x2000 2 = some r)
    ∧ (∃ s t : State, s.inReset = false ∧ exec .strokeEdge s = .next t)
    ∧ ∃ s : State, s.inReset = false ∧ s.slotLength ≠ 0 ∧ s.clock.slotOpen = false :=
  ⟨Option.isSome_iff_exists.mp (by decide +kernel), ⟨State.reset, _, by decide +kernel, rfl⟩, State.reset, by decide +kernel⟩

/-- A commit of one item for a stroke. -/
def commitA (v stroke : Nat) : Commit := { id := 1, stroke := stroke, items := [⟨0x2000, 2, .num v⟩], session := 1, port := .mailbox }

/-- The machine with one commit pending. -/
def pendingA (k : Commit) : State := { State.reset with xefin := { commits := [k] } }

theorem wit_CommitsApplyWhole : (∃ (s u : State) (k : Commit), s.inReset = false ∧ nextCommit s.turnOf s.xefin.commits = some k
      ∧ u = { s.advanceTo (s.turnOf k) with xefin := { s.xefin with commits := s.xefin.commits.filter fun j => j.id != k.id } }
      ∧ s.passed k = false
      ∧ u.commitFailure (u.project k.items) [] (u.xefin.commits.flatMap fun j => activations j.items) k.items true = none)
    ∧ (∃ (s u : State) (k : Commit), s.inReset = false ∧ nextCommit s.turnOf s.xefin.commits = some k
      ∧ u = { s.advanceTo (s.turnOf k) with xefin := { s.xefin with commits := s.xefin.commits.filter fun j => j.id != k.id } }
      ∧ (u.commitFailure (u.project k.items) [] (u.xefin.commits.flatMap fun j => activations j.items) k.items true).isSome = true)
    ∧ ∃ (s u : State) (k : Commit), s.inReset = false ∧ nextCommit s.turnOf s.xefin.commits = some k
      ∧ u = { s.advanceTo (s.turnOf k) with xefin := { s.xefin with commits := s.xefin.commits.filter fun j => j.id != k.id } }
      ∧ s.passed k = true :=
  ⟨⟨pendingA (commitA 3 1), _, commitA 3 1, by decide +kernel, by decide +kernel, rfl, by decide +kernel, by decide +kernel⟩,
    ⟨pendingA { commitA 3 1 with items := [⟨0x6100, 9, .num 1⟩, ⟨0x6100, 2, .num 65⟩] }, _,
      { commitA 3 1 with items := [⟨0x6100, 9, .num 1⟩, ⟨0x6100, 2, .num 65⟩] }, by decide +kernel, by decide +kernel, rfl, by decide +kernel⟩,
    { pendingA (commitA 3 1) with clock := { gridFrom := some 10000000 } }, _, commitA 3 1, by decide +kernel, by decide +kernel, rfl,
    by decide +kernel⟩

/-! ### Blades -/

/-- A tensor descriptor of `rows` × `cols` elements of format code `fmt` at exponent `e`: elements, exponents, status word. -/
def tensorD (fmt rows cols el ex sw : Nat) (e : Nat := 0) : Nat :=
  el + ex * 2 ^ 64 + e * 2 ^ 104 + fmt * 2 ^ 115 + rows * 2 ^ 128 + cols * 2 ^ 160 + sw * 2 ^ 192 + (if sw = 0 then 0 else 2 ^ 232)

/-- `base` with Blade 0, Scull 0 and Launch engine 0 in Crew 0; SB8 tensors of 64 × 64 at handles 10, 11 and 12, a lift table of one byte at
13, and a product descriptor at 14: one row, one input column, one output column, mode 0. -/
def bladeBase : State :=
  let s := (({ base with bladeMap := 15 }.setEntry 0x7000 1 1).setEntry 0x7000 2 1).setEntry 0x7000 3 1
  let s := desc 10 1 (tensorD 1 64 64 0xF000060000 0xF000070000 0) s
  let s := desc 11 1 (tensorD 1 64 64 0xF000080000 0xF000090000 0) s
  let s := desc 12 1 (tensorD 1 64 64 0xF0000A0000 0xF0000B0000 0xF0000C0000) s
  let s := desc 13 5 (tableAt 0xF0000D0000 1) s
  desc 14 2 (2 ^ 32 + 2 ^ 96 + 2 ^ 160 + 10 * 2 ^ 192 + 11 * 2 ^ 208 + 12 * 2 ^ 224 + 13 * 2 ^ 240) s

/-- A FRESH BLADE of Heat 0 over that product, without a chain. -/
def bladeQ : QItem := { heat := 0, lane := 0, pc := 0x1000, op := .blRun 14 none 0 false, csem := 511 }

theorem wit_BladeQueuesAct_issue : ∃ (s : State) (h : Fin 64) (l n : Fin 4), s.canIssue h l = true
    ∧ (s.queue (.blade n)).waiting.length < 4 ∧ s.yields h l (.blade n) = false
    ∧ (∃ (pd : BitVec 16) (xi : BitVec 4) (chx chn : Bool) (ch : BitVec 16) (acc : BitVec 2) (k : BitVec 9) (d d' : Nat),
        d = (s.lane h l).handle pd.toNat xi.toNat
        ∧ d' = (if chx then (s.lane h l).handle ch.toNat xi.toNat else ch.toNat) ∧ acc ≠ 3 ∧ (chn = true ∨ ch = 0)
        ∧ semBad true k.toNat = false ∧ bitOf (s.lane h l).blades n.val = true ∧ d < s.heats[h].header.dcount ∧ s.kindOf h d = 2
        ∧ (chn = true → d' < s.heats[h].header.dcount ∧ s.kindOf h d' = 3))
    ∧ ∃ (led : BitVec 16) (xi : BitVec 4) (k : BitVec 9) (d : Nat), d = (s.lane h l).handle led.toNat xi.toNat
        ∧ semBad true k.toNat = false ∧ d < s.heats[h].header.dcount ∧ s.kindOf h d = 4 :=
  ⟨desc 16 4 0 (desc 15 3 0 bladeBase), 0, 0, 0, by decide +kernel, by decide +kernel, by decide +kernel,
    ⟨14, 0, true, true, 15, 2, 511, 14, 15, by decide +kernel⟩, 16, 0, 319, 16, by decide +kernel⟩

/-- What ChainsActAtTheHead asks of every form. -/
abbrev atHead (s : State) (h : Fin 64) (l n : Fin 4) : Prop :=
  s.canIssue h l = true ∧ s.blades[n].queue.waiting = [] ∧ s.yields h l (.blade n) = false ∧ s.blades[n].arrival = none
    ∧ s.slicing (bladeUnit n) = false

theorem wit_BladeQueuesAct_head : (∃ (s : State) (h : Fin 64) (l n : Fin 4), atHead s h l n ∧ s.reachesBlade h n.val = false)
    ∧ (∃ (s : State) (h : Fin 64) (l n : Fin 4) (r : Fin 64), atHead s h l n ∧ s.reachesBlade h n.val = true
      ∧ s.blades[n].recv[r].bound = none ∧ s.blades[n].recv[r].releasing = false)
    ∧ (∃ (s : State) (h : Fin 64) (l n : Fin 4) (r : Fin 64) (tag : Nat), atHead s h l n ∧ s.reachesBlade h n.val = true
      ∧ s.blades[n].recv[r].bound = some (h, tag) ∧ s.blades[n].recv[r].returned = true ∧ s.blades[n].recv[r].releasing = false)
    ∧ ∃ (s : State) (h : Fin 64) (l n : Fin 4) (r g : Fin 64) (tag : Nat), atHead s h l n ∧ s.reachesBlade h n.val = true
      ∧ s.blades[n].recv[r].bound = some (g, tag) ∧ g ≠ h ∧ s.blades[n].recv[r].releasing = false :=
  ⟨⟨base, 0, 0, 3, by decide +kernel⟩, ⟨bladeBase, 0, 0, 0, 63, by decide +kernel⟩,
    ⟨bladeBase.onBlade 0 fun b => { b with recv := b.recv.set 63 { bound := some (0, 65535) } }, 0, 0, 0, 63, 65535, by decide +kernel⟩,
    bladeBase.onBlade 0 (fun b => { b with recv := b.recv.set 63 { bound := some (4, 65535) } }), 0, 0, 0, 63, 4, 65535, by decide +kernel⟩

/-- `bladeBase` with that BLADE at the head of its queue. -/
def checkState : State := bladeBase.onBlade 0 fun b => { b with queue := { waiting := [bladeQ] } }

/-- The same for a Crew without the Blade. -/
def absentState : State := checkState.setEntry 0x7000 1 0

theorem wit_BladesAreCheckedAndEnter_fault : ∃ (s : State) (n : Fin 4) (q : QItem) (rest : List QItem) (pd : Nat) (ch : Option Nat)
    (acc : Nat) (ramp : Bool) (b : BladeNames) (p : Plan), s.blades[n].arrival = none ∧ s.blades[n].queue.waiting = q :: rest
      ∧ s.slicing (bladeUnit n) = false ∧ q.op = .blRun pd ch acc ramp ∧ s.bladeNames q pd ch = some b
      ∧ lowestFault (s.bladeFaults n q acc b) = some p ∧ s.heats[q.heat].status = .running :=
  ⟨absentState, 0, bladeQ, [], 14, none, 0, false, (absentState.bladeNames bladeQ 14 none).get (by decide +kernel), .bladeAbsent,
    by decide +kernel, by decide +kernel, by decide +kernel, by decide +kernel, (Option.some_get _).symm, by decide +kernel, by decide +kernel⟩

theorem wit_BladesAreCheckedAndEnter_check : ∃ (s : State) (n : Fin 4) (q : QItem) (rest : List QItem) (pd : Nat) (ch : Option Nat)
    (acc : Nat) (ramp : Bool) (b : BladeNames) (hs hw ho : Tensor) (ha : Nat × Nat), s.blades[n].arrival = none
      ∧ s.blades[n].queue.waiting = q :: rest
      ∧ s.slicing (bladeUnit n) = false ∧ q.op = .blRun pd ch acc ramp ∧ s.bladeNames q pd ch = some b
      ∧ lowestFault (s.bladeFaults n q acc b) = none ∧ b.hs = some hs ∧ b.hw = some hw ∧ b.ho = some ho ∧ b.ha = some ha
      ∧ s.bladeReach { item := q, acc := acc, prod := b.prod, chain := b.chain, hs := hs, hw := hw, out := ho,
                       refs := ((b.chain.map (·.stages)).getD []).map (s.stageRef q.heat), ceilT := 0, ceilS := 0, anchors := [] } ha = true :=
  ⟨checkState, 0, bladeQ, [], 14, none, 0, false, (checkState.bladeNames bladeQ 14 none).get (by decide +kernel),
    ⟨0xF000060000, 0, 0xF000070000, 0, false, 0, .sb8, 64, 64, 0, false⟩, ⟨0xF000080000, 0, 0xF000090000, 0, false, 0, .sb8, 64, 64, 0, false⟩,
    ⟨0xF0000A0000, 0, 0xF0000B0000, 0, false, 0, .sb8, 64, 64, 0xF0000C0000, true⟩, (0xF0000D0000, 1),
    by decide +kernel, by decide +kernel, by decide +kernel, by decide +kernel, (Option.some_get _).symm, by decide +kernel, by decide +kernel,
    by decide +kernel, by decide +kernel, by decide +kernel, by decide +kernel⟩

/-- The BLADE of `bladeQ` as it stands before the gate, with a chain or none. -/
def jobA (c : Option Chain) : BladeJob :=
  { item := bladeQ, acc := 0, prod := (Product.parse (bladeBase.descOf 0 14)).getD ⟨0, 1, 0, 0, 0, 1, 0, 0, false, false, false, 0, 1, 0, 0, 0, 0⟩
    chain := c, hs := ⟨0xF000060000, 0, 0xF000070000, 0, false, 0, .sb8, 64, 64, 0, false⟩
    hw := ⟨0xF000080000, 0, 0xF000090000, 0, false, 0, .sb8, 64, 64, 0, false⟩
    out := ⟨0xF0000A0000, 0, 0xF0000B0000, 0, false, 0, .sb8, 64, 64, 0xF0000C0000, true⟩, ceilT := 0, ceilS := 0, anchors := [0] }

/-- A chain that takes its operand from receive slot 5, with arrival semaphore 9. -/
def chainR : Chain := { entryFmt := 0, cIn := 0, omega := 0, outKind := 3, source := 1, rslot := 5, arrSem := 9, stages := [] }

/-- `bladeBase` with that BLADE waiting at its receive slot, `n` posted to its arrival semaphore. -/
def waitingSlot (n : Nat) : State := (bladeBase.setSem 0 9 n).onBlade 0 fun b => { b with arrival := some (jobA (some chainR)) }

theorem wit_BladesAreCheckedAndEnter_stream : (∃ (s : State) (n : Fin 4) (j : BladeJob) (c : Chain), s.blades[n].arrival = some j
      ∧ j.chain = some c ∧ c.source = 1 ∧ s.blades[n].rampWait = none ∧ s.blades[n].holdsSwap = false
      ∧ j.tileBlocks.length ≤ (s.countArrivals n j).sem j.item.heat c.arrSem ∧ (s.blades[n].recvSlot c.rslot).busy = false
      ∧ (s.countArrivals n j).badUnit ((s.countArrivals n j).entry (0x7300 + j.item.heat.val) 5)
        ((s.countArrivals n j).bladeSpans j) = none
      ∧ (s.countArrivals n j).delivers ((s.countArrivals n j).bladeSpans j) = true)
    ∧ (∃ (s : State) (n : Fin 4) (j : BladeJob) (c : Chain), s.blades[n].arrival = some j ∧ j.chain = some c ∧ c.source = 1
      ∧ (s.countArrivals n j).sem j.item.heat c.arrSem < j.tileBlocks.length)
    ∧ ∃ (s : State) (n : Fin 4) (at_ : Nat), s.blades[n].rampWait = some at_ :=
  ⟨⟨waitingSlot 64, 0, jobA (some chainR), chainR, by decide +kernel⟩, ⟨waitingSlot 0, 0, jobA (some chainR), chainR, by decide +kernel⟩,
    base.onBlade 0 fun b => { b with rampWait := some 77 }, 0, 77, by decide +kernel⟩

theorem wit_SlotsReturnAndTilesAreDecided_slots : ∃ (s : State) (n : Fin 4) (r : Fin 64) (cycles : Nat), (s.blades[n].recv[r].busy = true
      ∧ s.blades[n].arrival = none ∧ s.blades[n].queue.waiting = []) ∧ s.entry 0x3108 1 < cycles ∧ cycles < 2 ^ 32
      ∧ s.log.queues[dieOf 2 n.val].waiting.length < 256 :=
  ⟨base.onBlade 3 fun b => { b with recv := b.recv.set 63 { bound := some (0, 1), busy := true, credits := [2] } }, 3, 63, 2 ^ 32 - 1,
    by decide +kernel⟩

/-- That BLADE in flight with tiles. -/
def runA (tiles : List TileSt) (c : Option Chain) : BladeRun :=
  { jobA c with sums := [[some 1]], stages := [], tiles := tiles }

/-- The same BLADE as a CLOSE with one undecided tile. -/
def closeA : BladeRun := { runA [{}] none with acc := 2 }

/-- A state with runs in Blade 0. -/
def running (rs : List BladeRun) : State := bladeBase.onBlade 0 fun b => { b with runs := rs }

theorem closeA_decides : ∃ x, closeAttempts closeA.out.fmt.width closeA.out.expo ((running [closeA]).tileBlocks closeA 0 0) 4 0 = some x :=
  Option.isSome_iff_exists.mp (by decide +kernel)

theorem wit_SlotsReturnAndTilesAreDecided_close : ∃ (s : State) (n : Fin 4) (k : Nat) (r : BladeRun) (band : Nat) (g : Fin 8) (tile : TileSt) (a : Nat)
      (qs : List ((Nat × Nat) × QuantResult)), s.blades[n].deciding = some (k, r) ∧ s.blades[n].arrival = none ∧ band < r.prod.bands
        ∧ g.val < r.prod.groups ∧ r.tiles[band * r.prod.groups + g.val]? = some tile ∧ tile.final = false ∧ tile.overflow = false
        ∧ r.acc = 2 ∧ closeAttempts r.out.fmt.width r.out.expo (s.tileBlocks r band g.val) 4 0 = some (a, qs) :=
  closeA_decides.elim fun x e => ⟨running [closeA], 0, 0, closeA, 0, 0, {}, x.1, x.2, by decide +kernel, by decide +kernel, by decide +kernel,
    by decide +kernel, by decide +kernel, by decide +kernel, by decide +kernel, by decide +kernel, e⟩

theorem wit_SlotsReturnAndTilesAreDecided_tiles : (∃ (s : State) (n : Fin 4) (k : Nat) (r : BladeRun) (band : Nat) (g : Fin 8) (tile : TileSt),
      s.blades[n].deciding = some (k, r) ∧ s.blades[n].arrival = none ∧ band < r.prod.bands ∧ g.val < r.prod.groups
        ∧ r.tiles[band * r.prod.groups + g.val]? = some tile ∧ tile.final = false ∧ tile.overflow = false ∧ r.acc ≠ 2)
    ∧ ∃ (s : State) (n : Fin 4) (k : Nat) (r : BladeRun) (band : Nat), s.blades[n].deciding = some (k, r) ∧ s.blades[n].arrival = none
      ∧ r.stopped = [] ∧ band < r.prod.bands
      ∧ (∀ g, g < r.prod.groups → ∃ x, r.tiles[band * r.prod.groups + g]? = some x ∧ (x.final = true ∨ x.overflow = true))
      ∧ ∃ g, g < r.prod.groups ∧ (r.tiles.getD (band * r.prod.groups + g) {}).overflow = true :=
  ⟨⟨running [runA [{}] none], 0, 0, runA [{}] none, 0, 0, {}, by decide +kernel⟩,
    running [runA [{ overflow := true }] none], 0, 0, runA [{ overflow := true }] none, 0, by decide +kernel, by decide +kernel,
    by decide +kernel, by decide +kernel, fun g hg => ⟨{ overflow := true }, by
      have e : (runA [{ overflow := true }] none).prod.groups = 1 := by decide +kernel
      have : g = 0 := by omega
      subst this; decide +kernel, Or.inr rfl⟩, 0, by decide +kernel⟩

theorem wit_BladesCompleteAndTensorsOpen : (∃ (s : State) (n : Fin 4) (r : BladeRun) (rest : List BladeRun) (rep : MemReport),
      s.blades[n].runs = r :: rest ∧ r.tiles.all (·.final) = true ∧ r.stopped = [] ∧ s.blades[n].queue.waiting = []
      ∧ s.blades[n].arrival = none ∧ rep.failed = none)
    ∧ ∃ (s : State) (h : Fin 64) (l : Fin 4) (handle : BitVec 16) (xi : BitVec 4) (d : Nat) (x : Tensor), s.canIssue h l = true
      ∧ d = (s.lane h l).handle handle.toNat xi.toNat ∧ d < s.heats[h].header.dcount ∧ s.kindOf h d = 1
      ∧ bitOf (s.descOf h d) 232 = true ∧ Tensor.parse (s.descOf h d) = some x ∧ s.statusReach (s.accOf h) x = true :=
  ⟨⟨running [runA [{ final := true }] none], 0, runA [{ final := true }] none, [], {}, by decide +kernel⟩,
    bladeBase, 0, 0, 12, 0, 12, (bladeBase.tensor? 0 12).get (by decide +kernel), by decide +kernel, by decide +kernel, by decide +kernel,
    by decide +kernel, by decide +kernel, by decide +kernel, by decide +kernel⟩

theorem wit_UnitInstructionsEnterTheirQueues : (∃ (s : State) (h : Fin 64) (l : Fin 4) (k : Fin 16) (handle : BitVec 16) (xi : BitVec 4)
      (csem : BitVec 9) (d : Nat), s.canIssue h l = true ∧ semBad true csem.toNat = false ∧ d = (s.lane h l).handle handle.toNat xi.toNat
        ∧ d < s.heats[h].header.dcount ∧ s.kindOf h d = 6 ∧ (s.queue (.scull k)).waiting.length < 8 ∧ s.yields h l (.scull k) = false ∧ s.crewHas h 2 k.val = true)
    ∧ (∃ (s : State) (h : Fin 64) (l : Fin 4) (k : Fin 16) (handle : BitVec 16) (xi : BitVec 4)
      (csem : BitVec 9) (d : Nat), s.canIssue h l = true ∧ semBad true csem.toNat = false ∧ d = (s.lane h l).handle handle.toNat xi.toNat
        ∧ d < s.heats[h].header.dcount ∧ s.kindOf h d = 7 ∧ (s.queue (.engine k)).waiting.length < 8 ∧ s.yields h l (.engine k) = false ∧ s.crewHas h 3 k.val = true)
    ∧ ∃ (s : State) (h : Fin 64) (l : Fin 4) (handle : BitVec 16) (xi : BitVec 4)
      (csem : BitVec 9) (d : Nat), s.canIssue h l = true ∧ semBad true csem.toNat = false ∧ d = (s.lane h l).handle handle.toNat xi.toNat
        ∧ d < s.heats[h].header.dcount ∧ s.kindOf h d = 8 ∧ (s.queue (.relay h)).waiting.length < 8 ∧ s.yields h l (.relay h) = false :=
  ⟨⟨desc 20 6 0 (bladeBase.setEntry 0x7000 2 0x8000), 0, 0, 15, 20, 0, 511, 20, by decide +kernel⟩,
    ⟨desc 20 7 0 (bladeBase.setEntry 0x7000 3 0x8000), 0, 0, 15, 20, 0, 319, 20, by decide +kernel⟩,
    desc 20 8 0 bladeBase, 0, 0, 20, 0, 0, 20, by decide +kernel⟩

/-! ### Sculls, Launch, Relay, HBM -/

/-- `bladeBase` with an SC_MARK of the tensor at handle 10 at the head of Scull 0. -/
def markQ : QItem := { heat := 0, lane := 0, pc := 0x1000, op := .scull 9 21, csem := 511 }
@[inherit_doc markQ] def scullState : State :=
  (desc 21 6 (10 + 2 ^ 96 + 64 * 2 ^ 160) (bladeBase.setCells (tankKey 0x10140) (leBytes 32 (tensorD 1 64 64 0xF000060000 0xF000070000 0xF0000C0000)))).setQueue
    (.scull 0) { waiting := [markQ] }

/-- That instruction under way. -/
def scullRunA : ScullRun := { item := markQ, vectors := 1, cost := 16 }

theorem wit_ScullsTakeOneAtATime_busy : (∃ (s : State) (k : Fin 16), s.scullRuns[k].isSome = true)
    ∧ ∃ (s : State) (k : Fin 16) (r : ScullRun) (rep : MemReport) (addr : Nat) (w : CarryFlags), s.scullRuns[k] = some r
      ∧ s.sculls[k].waiting = [] ∧ rep.failed = none ∧ r.item.csem = 511 ∧ r.flags = some (addr, w) :=
  ⟨⟨{ base with scullRuns := base.scullRuns.set 15 (some scullRunA) }, 15, by decide +kernel⟩,
    { base with scullRuns := base.scullRuns.set 15 (some { scullRunA with flags := some (0xF000000000, { aexp := 0 }) }) }, 15,
    { scullRunA with flags := some (0xF000000000, { aexp := 0 }) }, {}, 0xF000000000, { aexp := 0 }, by decide +kernel⟩

/-- That state once the reads are done and the instruction has left the queue. -/
def scullTaken : State :=
  (scullState.setQueue (.scull 0) { scullState.sculls[(0 : Fin 16)] with waiting := [] }).readSpans (crewOf markQ.heat).val
    (scullState.entry (0x7300 + markQ.heat.val) 5) true (scullState.scullWants markQ 9 21)

theorem scull_starts : ∃ r, (scullTaken.scullRun 0 markQ 9 21).2 = some r := Option.isSome_iff_exists.mp (by decide +kernel)

theorem wit_ScullsTakeOneAtATime_idle : ∃ (s : State) (k : Fin 16) (q : QItem) (rest : List QItem) (op d : Nat) (v u : State) (r : ScullRun),
    s.scullRuns[k] = none ∧ s.sculls[k].waiting = q :: rest ∧ s.slicing (scullUnit k) = false ∧ q.op = .scull op d
      ∧ s.delivers (s.scullWants q op d) = true ∧ s.badUnit (s.entry (0x7300 + q.heat.val) 5) (s.scullWants q op d) = none
      ∧ v = (s.setQueue (.scull k) { s.sculls[k] with waiting := rest }).readSpans (crewOf q.heat).val
        (s.entry (0x7300 + q.heat.val) 5) true (s.scullWants q op d)
      ∧ (if op = 0x10 then v.optRun k q d else v.scullRun k q op d) = (u, some r) :=
  scull_starts.elim fun r e => ⟨scullState, 0, markQ, [], 9, 21, scullTaken, (scullTaken.scullRun 0 markQ 9 21).1, r,
    by decide +kernel, by decide +kernel, by decide +kernel, by decide +kernel, by decide +kernel, by decide +kernel, rfl,
    by rw [if_neg (by decide)]; exact pair_snd e⟩

/-- `bladeBase` with an HBM region of channel 0, which has FAILED, at address 0. -/
def failedHbm (s : State) : State :=
  let s := s.setEntry 0x7300 4 1
  let r : Region := { state := .active, base := 0, size := 4096 * 512, list := [0], fmt := 0, owner := 0 }
  { s with regions := s.regions.set 0 r, channels := s.channels.set 0 { healthy := true, failed := true } }

/-- An SC_MARK of a tensor there. -/
def scullStuck : State :=
  desc 10 1 (tensorD 1 64 64 0 0x1000 0) (desc 21 6 (10 + 2 ^ 96 + 64 * 2 ^ 160) (failedHbm bladeBase)) |>.setQueue (.scull 0) { waiting := [markQ] }

theorem wit_ScullsTakeOneAtATime_stuck : ∃ (s : State) (k : Fin 16) (q : QItem) (rest : List QItem) (op d : Nat), s.scullRuns[k] = none
    ∧ s.sculls[k].waiting = q :: rest ∧ s.slicing (scullUnit k) = false ∧ q.op = .scull op d ∧ s.delivers (s.scullWants q op d) = false :=
  ⟨scullStuck, 0, markQ, [], 9, 21, by decide +kernel⟩

/-- A move of 256 bytes inside Tank scratch, from engine 0. -/
def moveQ : QItem := { heat := 0, lane := 0, pc := 0x1000, op := .launch 1 22, csem := 511 }
@[inherit_doc moveQ] def moveState : State :=
  (desc 22 7 (0xF000100000 + 0xF000110000 * 2 ^ 48 + 256 * 2 ^ 96 + 2 ^ 120) bladeBase).setQueue (.engine 0) { waiting := [moveQ] }

/-- A move of one row of 2 bytes in flight, the layer of a window or not, and a state with it on engine 15. -/
def moveRowA : MoveRow := { skind := 0, sblade := 0, src := 0xF000100000, dkind := 0, dblade := 0, dst := 0xF000110000, len := 2, engine := 15 }
@[inherit_doc moveRowA] def runningMove (layer : Bool) : MoveRun := { item := moveQ, span := 1, order := 0, rows := [moveRowA], layer := layer }
@[inherit_doc moveRowA] def moving (m : MoveRun) (s : State) : State := { s with engines := s.engines.set 15 { moves := [m] } }

theorem wit_MovesAndWindowsComplete_move : (∃ (s : State) (e : Fin 16) (q : QItem) (d : Nat) (m : MoveDesc),
      s.engines[e].queue.waiting = [q] ∧ q.op = .launch 1 d ∧ MoveDesc.parse (s.descOf q.heat d) = some m
        ∧ checkFault (s.moveFaults q.heat e m) (s.moveReach q.heat m) = none ∧ s.slicing (engineUnit e) = false
        ∧ s.windowHolds e.val = false
        ∧ ∀ i, i < m.span → s.windowHolds (e.val + i) = false ∧ s.slicing (Fin.ofNat 36 (16 + e.val + i)) = false)
    ∧ ∃ (s : State) (e : Fin 16) (k : Nat) (m : MoveRun) (part : Option (Nat × Nat)), s.engines[e].moves[k]? = some m
      ∧ s.delivers (m.spans part) = false :=
  ⟨⟨moveState, 0, moveQ, 22, (MoveDesc.parse (moveState.descOf 0 22)).get (by decide +kernel), by decide +kernel, by decide +kernel,
      by decide +kernel, by decide +kernel, by decide +kernel, by decide +kernel, by decide +kernel⟩,
    moving { runningMove false with rows := [{ moveRowA with src := 0 }] } (failedHbm base), 15, 0,
    { runningMove false with rows := [{ moveRowA with src := 0 }] }, none, by decide +kernel⟩

/-- What a part of a move that lands asks. -/
abbrev partLands (s : State) (e : Fin 16) (k : Nat) (m : MoveRun) (part : Option (Nat × Nat)) (rep : MemReport) (w : State)
    (x : List Piece × List MoveRow × Nat) : Prop :=
  s.engines[e].moves[k]? = some m ∧ (m.layer = false ∨ part.isSome = true) ∧ s.delivers (m.spans part) = true
    ∧ s.badUnit (s.entry (0x7300 + m.item.heat.val) 5) (m.spans part) = none ∧ rep.failed = none
    ∧ w = (s.memReport (crewOf m.item.heat).val rep).2
    ∧ x = w.landedPart m part
    ∧ earlierMoves (w.movesBefore m.order) x.1 = [] ∧ (∀ p ∈ x.1, w.rowReach m.item.heat p.1 p.2.1 p.2.2 = true)
    ∧ s.engines[e].queue.waiting = [] ∧ m.item.csem = 511

/-- The move in flight that lands whole, and the part of one that lands. -/
def wholeS : State := moving (runningMove false) base
@[inherit_doc wholeS] def wholeX : List Piece × List MoveRow × Nat := landedRows 0 [moveRowA] 1 0
@[inherit_doc wholeS] def partS : State := moving (runningMove true) base
@[inherit_doc wholeS] def partX : List Piece × List MoveRow × Nat := landedRows 0 [moveRowA] 0 1

theorem wit_MovesAndWindowsComplete_whole : ∃ (s : State) (e : Fin 16) (k : Nat) (m : MoveRun) (rep : MemReport) (w : State)
    (x : List Piece × List MoveRow × Nat), partLands s e k m none rep w x :=
  ⟨wholeS, 15, 0, runningMove false, {}, (wholeS.memReport (crewOf (runningMove false).item.heat).val {}).2, wholeX, by decide +kernel, by decide,
    by decide +kernel, by decide +kernel, by decide, rfl, by decide +kernel, by decide +kernel, by decide +kernel, by decide +kernel, by decide⟩

theorem wit_MovesAndWindowsComplete_part : ∃ (s : State) (e : Fin 16) (k : Nat) (m : MoveRun) (part : Option (Nat × Nat)) (rep : MemReport)
    (w : State) (x : List Piece × List MoveRow × Nat), partLands s e k m part rep w x ∧ part.isSome = true :=
  ⟨partS, 15, 0, runningMove true, some (0, 1), {}, (partS.memReport (crewOf (runningMove true).item.heat).val {}).2, partX, ⟨by decide +kernel, by decide,
    by decide +kernel, by decide +kernel, by decide, rfl, by decide +kernel, by decide +kernel, by decide +kernel, by decide +kernel, by decide⟩,
    rfl⟩

/-- A window of two layers of which some have landed, or are on their way. -/
def windowA (next landed slots : Nat) (fetching : Option Nat) : WindowRun :=
  { item := { moveQ with op := .launch 2 22 }, desc := { ltab := 0, count := 2, tbase := 0xF000100000, slot := 256, arr := 7, rel := 8, span := 1 }
    layers := [((0, 256), (0, 0)), ((256, 256), (0, 0))], slots := slots, next := next, landed := landed, fetching := fetching }
@[inherit_doc windowA] def windowState (w : WindowRun) : State :=
  { base with engines := base.engines.set 15 { window := some w, moves := [runningMove true] } }

/-- What a layer that lands asks. -/
abbrev layerLands (s : State) (e : Fin 16) (w : WindowRun) (m : MoveRun) (rep : MemReport) (v : State) : Prop :=
  s.engines[e].window = some w ∧ s.engines[e].layerMove w = some m ∧ s.delivers (m.spans none) = true
    ∧ s.badUnit (s.entry (0x7300 + m.item.heat.val) 5) (m.spans none) = none ∧ rep.failed = none
    ∧ v = (s.memReport (crewOf m.item.heat).val rep).2.landMove m none ∧ v.engines[e].window = some w
    ∧ v.sem w.item.heat w.desc.arr + 1 < 2 ^ 32

/-- The state once the layer has landed. -/
def layerV (w : WindowRun) : State :=
  ((windowState w).memReport (crewOf (runningMove true).item.heat).val {}).2.landMove (runningMove true) none

theorem wit_MovesAndWindowsComplete_last : ∃ (s : State) (e : Fin 16) (w : WindowRun) (m : MoveRun) (rep : MemReport) (v : State), layerLands s e w m rep v
    ∧ w.item.csem = 511 ∧ w.landed + 1 = w.desc.count ∧ ∀ i : Fin 16, v.engines[i].queue.waiting = [] :=
  ⟨windowState (windowA 2 1 1 (some 0)), 15, windowA 2 1 1 (some 0), runningMove true, {}, layerV (windowA 2 1 1 (some 0)),
    ⟨by decide +kernel, by decide +kernel, by decide +kernel, by decide +kernel, by decide, rfl, by decide +kernel, by decide +kernel⟩,
    by decide +kernel, by decide +kernel, by decide +kernel⟩

theorem wit_MovesAndWindowsComplete_first : ∃ (s : State) (e : Fin 16) (w : WindowRun) (m : MoveRun) (rep : MemReport) (v : State), layerLands s e w m rep v
    ∧ w.landed + 1 ≠ w.desc.count ∧ w.slots ≤ w.next :=
  ⟨windowState (windowA 1 0 1 (some 0)), 15, windowA 1 0 1 (some 0), runningMove true, {}, layerV (windowA 1 0 1 (some 0)),
    ⟨by decide +kernel, by decide +kernel, by decide +kernel, by decide +kernel, by decide, rfl, by decide +kernel, by decide +kernel⟩,
    by decide +kernel, by decide +kernel⟩

theorem wit_MovesAndWindowsComplete_next : ∃ (s : State) (e : Fin 16) (w : WindowRun) (m : MoveRun) (rep : MemReport) (v : State), layerLands s e w m rep v
    ∧ w.landed + 1 ≠ w.desc.count ∧ w.next < w.slots ∧ v.heats[w.item.heat].savesWork = false :=
  ⟨windowState (windowA 1 0 2 (some 0)), 15, windowA 1 0 2 (some 0), runningMove true, {}, layerV (windowA 1 0 2 (some 0)),
    ⟨by decide +kernel, by decide +kernel, by decide +kernel, by decide +kernel, by decide, rfl, by decide +kernel, by decide +kernel⟩,
    by decide +kernel, by decide +kernel, by decide +kernel⟩

theorem wit_MovesAndWindowsComplete_release :
    (∃ (s : State) (e : Fin 16) (w : WindowRun), s.engines[e].window = some w ∧ w.fetching = none
      ∧ s.heats[w.item.heat].savesWork = false ∧ w.slots ≤ w.next ∧ w.next < w.desc.count ∧ 1 ≤ s.sem w.item.heat w.desc.rel)
    ∧ ∃ (s : State) (e : Fin 16) (w : WindowRun), s.engines[e].window = some w ∧ s.sem w.item.heat w.desc.rel = 0 :=
  ⟨⟨(windowState (windowA 1 1 1 none)).setSem 0 8 1, 15, windowA 1 1 1 none, by decide +kernel⟩,
    windowState (windowA 1 1 1 none), 15, windowA 1 1 1 none, by decide +kernel⟩

/-- The machine at place 0 of a slice of two modules on axis 0, its Sweeps 0 and 1 admitted to the other module, with Relay buffers and a
pool: Oarlocks 0 and 4, a peer of module number 4096. -/
def peerA (m : Nat) : Identity :=
  { flags := 0, oar := 0, sweep := 0, role := 1, module := m, proto := 2, oldProto := 2, schema := 2, oldSchema := 2, stamp := 0, echo := 0,
    digest := [] }
@[inherit_doc peerA] def linked : State :=
  let s := base
  let s := ((((s.setEntry 0x6100 4 2).setEntry 0x6100 0xB 1).setEntry 0x6100 0xC 1).setEntry 0x6100 0xA 262144).setEntry 0x6100 8 16
  let s := (s.setEntry 0x5000 8 2).setEntry 0x1020 1 0
  let oar : Oarlock := { state := .admitted, trained := true, peer := some (peerA 4096) }
  { s with
    oarlocks := Vector.ofFn fun _ => oar
    sweeps := Vector.ofFn fun _ => { state := 2 } }

/-- The Relay operation of descriptor handle 30, and a state with its descriptor at the head of the queue of Heat 0. -/
def relayQ : QItem := { heat := 0, lane := 0, pc := 0x1000, op := .launch 3 30, csem := 511 }
@[inherit_doc relayQ] def relayState (v : Nat) : State := (desc 30 8 v linked).setQueue (.relay 0) { waiting := [relayQ] }

/-- ALL_GATHER, REDUCE_SCATTER, ALL_REDUCE and PERMUTE of four units with tag 3 on axis 0. -/
def gatherState : State :=
  desc 10 1 (tensorD 1 64 64 0xF000060000 0xF000070000 0) (desc 11 1 (tensorD 1 64 64 0xF000080000 0xF000090000 0) (relayState (2 + 3 * 2 ^ 4 + 2 ^ 16 + 10 * 2 ^ 36 + 11 * 2 ^ 52 + 4 * 2 ^ 160)))
@[inherit_doc gatherState] def reduceState (op : Nat) : State :=
  desc 31 1 (tensorD 2 64 256 0xF000120000 0xF000130000 0) (desc 32 1 (tensorD 6 64 256 0xF000140000 0 0xF000150000)
    (relayState (op + 3 * 2 ^ 4 + 2 ^ 16 + 31 * 2 ^ 36 + 32 * 2 ^ 52 + 4 * 2 ^ 160)))
@[inherit_doc gatherState] def permuteState : State :=
  (desc 33 5 (tableAt 0xF000160000 4) (desc 10 1 (tensorD 1 64 64 0xF000060000 0xF000070000 0) (relayState (4 + 3 * 2 ^ 4 + 2 ^ 16 + 10 * 2 ^ 36 + 10 * 2 ^ 52 + 33 * 2 ^ 84 + 4 * 2 ^ 160)))).setCells
    (tankKey 0x160000) (leBytes 4 1)

theorem wit_CollectivesStartAndTakeSegments_start : ∀ x ∈ [(1, reduceState 1), (2, gatherState), (3, reduceState 3), (4, permuteState)],
    x.2.relayQueues[0].waiting = [relayQ] ∧ relayQ.op = .launch 3 30 ∧ relayQ.heat = 0 ∧ bitsOf (x.2.descOf 0 30) 0 4 = x.1
      ∧ (∃ d, RelayDesc.parse (x.2.descOf 0 30) = some d ∧ checkFault (x.2.relayFaults 0 d) (x.2.relayReach 0 d) = none
        ∧ (∀ k ∈ x.2.collectives, ¬ (k.crew = crewOf 0 ∧ k.d.tag = d.tag)) ∧ bitOf (sparseGet 0 x.2.tags d.tag) 9 = false) := by
  intro x hx
  simp only [List.mem_cons, List.not_mem_nil, or_false] at hx
  rcases hx with h | h | h | h <;> subst h <;>
    exact ⟨by decide +kernel, by decide +kernel, by decide +kernel, by decide +kernel, Option.get _ (by decide +kernel),
      (Option.some_get _).symm, by decide +kernel, by decide +kernel, by decide +kernel⟩

theorem wit_CollectivesStartAndTakeSegments_wait : ∃ (s : State) (h : Fin 64) (q : QItem) (rest : List QItem) (d : RelayDesc),
    s.relayQueues[h].waiting = q :: rest ∧ q.op = .launch 3 30 ∧ q.heat = h ∧ bitsOf (s.descOf h 30) 0 4 = 2
      ∧ RelayDesc.parse (s.descOf h 30) = some d ∧ checkFault (s.relayFaults h d) (s.relayReach h d) = none
      ∧ bitOf (sparseGet 0 s.tags d.tag) 9 = true :=
  ⟨{ gatherState with tags := [(3, 512)] }, 0, relayQ, [], Option.get (RelayDesc.parse (State.descOf { gatherState with tags := [(3, 512)] } 0 30)) (by decide +kernel),
    by decide +kernel, by decide +kernel, by decide +kernel, by decide +kernel, (Option.some_get _).symm, by decide +kernel, by decide +kernel⟩

/-- The same for a Crew whose Relay pool is too small. -/
def smallPool : State := gatherState.setEntry 0x6100 0xA 262143

theorem wit_CollectivesStartAndTakeSegments_fault : ∃ (s : State) (h : Fin 64) (q : QItem) (rest : List QItem) (d : RelayDesc) (p : Plan),
    s.relayQueues[h].waiting = q :: rest ∧ q.op = .launch 3 30 ∧ q.heat = h ∧ bitsOf (s.descOf h 30) 0 4 = 2
      ∧ RelayDesc.parse (s.descOf h 30) = some d ∧ checkFault (s.relayFaults h d) (s.relayReach h d) = some p
      ∧ s.heats[h].status = .running :=
  ⟨smallPool, 0, relayQ, [], Option.get (RelayDesc.parse (smallPool.descOf 0 30)) (by decide +kernel), .relayDesc,
    by decide +kernel, by decide +kernel, by decide +kernel, by decide +kernel, (Option.some_get _).symm, by decide +kernel, by decide +kernel⟩

/-- A frame of the other module for this one: type, virtual channel, extension header, payload. -/
def frameA (ftype vc : Nat) (ext : Nat) (payload : List Byte) : RxFrame :=
  { hdr := BitVec.ofNat 256 (2 ^ 248 + ftype * 2 ^ 244 + vc * 2 ^ 242 + 4096 * 2 ^ 184), ext := BitVec.ofNat 128 ext, payload := payload
    whole := true, tagOk := true, corrected := 0 }

/-- `linked` with a share of its Sweeps for Crew 0 and credits granted. -/
def open_ (s : State) : State := { s with sweeps := Vector.ofFn fun _ => { state := 2, granted := (List.range 16).map fun k => (k, 100) } }

/-- The header of a segment with tag 3 for op, step. -/
def segH (op step : Nat) : Nat := RingHeader.bits { op := op, tag := 3, axis := if op = 3 then 3 else 0, minus := false, step := step, stage := 0, hop := 1, seq := 0 }

/-- A segment as the pool holds it. -/
def heldA (f : RxFrame) : HeldSegment := { hdr := f.ext.toNat, payload := f.payload, sweep := 0, origin := f.origin }

/-- A state with its links open, the frame of a segment for op that arrives there, and the state after. -/
def late : State := (open_ linked).setEntry 0x3020 5 1
@[inherit_doc late] def segF (op : Nat) : RxFrame := frameA 1 0 (segH op 0) []
@[inherit_doc late] def after (s : State) (op : Nat) : State := (s.receive 0 (segF op)).1

theorem wit_CollectivesStartAndTakeSegments_past : ∀ op ∈ [1, 2, 3, 4], ∃ (s u : State) (o : Fin 24) (f : RxFrame) (w : Fin 12) (crew : Fin 4)
    (x : HeldSegment) (r : RingHeader), f.ftype = 1 ∧ bitsOf f.ext.toNat 120 4 = op ∧ s.receive o f = (u, some w) ∧ crew = Fin.ofNat 4 f.crew
      ∧ x = { hdr := f.ext.toNat, payload := f.payload, sweep := w.val, origin := f.origin } ∧ r = RingHeader.parse x.hdr
      ∧ r.step < u.entry 0x3020 5 % 2 ^ 32 := by
  intro op hop
  simp only [List.mem_cons, List.not_mem_nil, or_false] at hop
  refine ⟨late, after late op, 0, segF op, 0, 0, heldA (segF op), RingHeader.parse (heldA (segF op)).hdr, ?_, ?_, pair_snd ?_, ?_, rfl, rfl,
    ?_⟩ <;> rcases hop with h | h | h | h <;> subst h <;> decide +kernel

/-- A segment of the present step that names a tag of the Crew. -/
abbrev fresh (u : State) (c : Fin 4) (r : RingHeader) : Prop :=
  ¬ (r.step < u.entry 0x3020 5 % 2 ^ 32 ∨ r.tag < u.entry (0x6100 + c.val) 7
    ∨ u.entry (0x6100 + c.val) 7 + u.entry (0x6100 + c.val) 8 ≤ r.tag)

/-- A collective of Crew 0 with tag 3 in the phase that waits for segments of op, and the links with it. -/
def waiting (op : Nat) : Collective :=
  { collA (if op = 1 then .reduce else if op = 2 then .gather else if op = 3 then .permute else .lap) with
    d := { (collA .reduce).d with op := if op = 4 then 1 else if op = 3 then 4 else op, tag := 3, nb := 4 }
    perm := if op = 3 then [1, 0] else [] }
@[inherit_doc waiting] def awaited (op : Nat) : State := { open_ linked with collectives := [waiting op] }

theorem wit_CollectivesStartAndTakeSegments_segment : ∀ op ∈ [1, 2, 3, 4], ∃ (s u v : State) (o : Fin 24) (f : RxFrame) (w : Fin 12)
    (crew : Fin 4) (x : HeldSegment) (r : RingHeader) (k : Collective), f.ftype = 1 ∧ bitsOf f.ext.toNat 120 4 = op
      ∧ s.receive o f = (u, some w) ∧ crew = Fin.ofNat 4 f.crew
      ∧ x = { hdr := f.ext.toNat, payload := f.payload, sweep := w.val, origin := f.origin } ∧ r = RingHeader.parse x.hdr
      ∧ fresh u crew r ∧ v = u.bump (0x6200 + crew.val) 6 (if r.op = 4 then 0 else 1)
      ∧ ((v.collective? crew r.tag).filter fun k => k.due r) = some k := by
  intro op hop
  simp only [List.mem_cons, List.not_mem_nil, or_false] at hop
  refine ⟨awaited op, after (awaited op) op, (after (awaited op) op).bump 0x6200 6 (if (RingHeader.parse (heldA (segF op)).hdr).op = 4 then 0 else 1),
    0, segF op, 0, 0, heldA (segF op), RingHeader.parse (heldA (segF op)).hdr, waiting op, ?_, ?_, pair_snd ?_, ?_, rfl, rfl, ?_, rfl, ?_⟩
    <;> rcases hop with h | h | h | h <;> subst h <;> decide +kernel

theorem wit_CollectivesStartAndTakeSegments_early : ∃ (s u v : State) (o : Fin 24) (f : RxFrame) (w : Fin 12) (crew : Fin 4) (x : HeldSegment)
    (r : RingHeader), f.ftype = 1 ∧ bitsOf f.ext.toNat 120 4 = 1 ∧ s.receive o f = (u, some w) ∧ crew = Fin.ofNat 4 f.crew
      ∧ x = { hdr := f.ext.toNat, payload := f.payload, sweep := w.val, origin := f.origin } ∧ r = RingHeader.parse x.hdr
      ∧ fresh u crew r ∧ v = u.bump (0x6200 + crew.val) 6 (if r.op = 4 then 0 else 1)
      ∧ ((v.collective? crew r.tag).filter fun k => k.due r) = none := by
  refine ⟨open_ linked, after (open_ linked) 1, (after (open_ linked) 1).bump 0x6200 6 (if (RingHeader.parse (heldA (segF 1)).hdr).op = 4 then 0 else 1),
    0, segF 1, 0, 0, heldA (segF 1), RingHeader.parse (heldA (segF 1)).hdr, ?_, ?_, pair_snd ?_, ?_, rfl, rfl, ?_, rfl, ?_⟩ <;> decide +kernel

/-- A collective in its decision, its word spilled or not. -/
def deciding (spill : Bool) (attempt : Nat) : Collective :=
  { collA .decide with attempt := attempt, word := { spill := spill } }
@[inherit_doc deciding] def decideState (k : Collective) : State := { linked with collectives := [k] }

theorem wit_LapsDecideAndCollectivesComplete :
    (∃ (s : State) (c : Fin 4) (tag : BitVec 12) (k : Collective), s.collective? c tag.toNat = some k ∧ k.phase = .decide ∧ k.d.op ≠ 3
      ∧ k.word.spill = false)
    ∧ (∃ (s : State) (c : Fin 4) (tag : BitVec 12) (k : Collective), s.collective? c tag.toNat = some k ∧ k.phase = .decide ∧ k.d.op ≠ 3
      ∧ k.word.spill = true ∧ k.word.bmark = false ∧ k.attempt = s.entry 0x6000 2)
    ∧ (∃ (s : State) (c : Fin 4) (tag : BitVec 12) (k : Collective), s.collective? c tag.toNat = some k ∧ k.phase = .decide ∧ k.d.op ≠ 3
      ∧ k.word.spill = true ∧ k.word.bmark = false ∧ k.attempt ≠ s.entry 0x6000 2 ∧ k.aexp ≠ 127)
    ∧ ∃ (s : State) (c : Fin 4) (tag : BitVec 12) (k : Collective), s.collective? c tag.toNat = some k ∧ k.phase = .finished :=
  ⟨⟨decideState (deciding false 0), 0, 0, deciding false 0, by decide +kernel⟩,
    ⟨decideState (deciding true (linked.entry 0x6000 2)), 0, 0, deciding true (linked.entry 0x6000 2), by decide +kernel⟩,
    ⟨decideState (deciding true 0), 0, 0, deciding true 0, by decide +kernel⟩,
    decideState (collA .finished), 0, 0, collA .finished, by decide +kernel⟩

/-- Region 0 ACTIVE at address 0 in channel 0 for Crew 0, which Heat 0 reaches. -/
def hbm : State :=
  let s := base.setEntry 0x7300 4 1
  let r : Region := { state := .active, base := 0, size := 4096 * 512, list := [0], fmt := 0, owner := 0 }
  { s with regions := s.regions.set 0 r, channels := s.channels.set 0 { healthy := true } }

theorem wit_HbmIsReadAndWritten_read : ∃ (s : State) (h : Fin 64) (addr : BitVec 40) (launch : Bool) (r : Fin 64) (x : Loc) (ch : Fin 384)
    (dev : Nat), s.hbmSpot addr.toNat = some (r, ch, dev) ∧ s.locate { s.accOf h with launch := launch } addr.toNat = some x
      ∧ s.channels[ch].failed = false ∧ s.mismatches (s.entry (0x7300 + h.val) 5) r (addr.toNat - s.regions[r].base) 2 < 3
      ∧ s.mismatches (s.entry (0x7300 + h.val) 5) r (addr.toNat - s.regions[r].base) 3 = 3
      ∧ s.channels[ch].buffer.contains (dev / 512) = false ∧ s.regions[r].pack = false ∧ s.crews[crewOf h].state = .normal :=
  ⟨hbm, 0, 513, false, 0, .cell 513, 0, 513, by decide +kernel⟩

theorem wit_HbmIsReadAndWritten_fault : (∃ (s : State) (h : Fin 64) (addr : BitVec 40), s.hbmSpot addr.toNat = none
      ∧ s.heats[h].status = .running)
    ∧ ∃ (s : State) (addr : BitVec 40) (h : Fin 64) (launch : Bool) (r : Fin 64) (x : Loc) (ch : Fin 384) (dev : Nat),
      s.hbmSpot addr.toNat = some (r, ch, dev) ∧ s.locate { s.accOf h with launch := launch } addr.toNat = some x
        ∧ s.channels[ch].failed = true :=
  ⟨⟨hbm, 0, 0x200000, by decide +kernel⟩, failedHbm base, 513, 0, false, 0, .cell 513, 0, 513, by decide +kernel⟩

/-- A partial unit of a channel that no ACTIVE region uses. -/
def partialA : PartialUnit := { unit := 9, offs := [1, 2], addr := 2 ^ 39, crew := 0, since := 0 }

theorem wit_HbmIsReadAndWritten_write : (∃ (s : State) (h : Fin 64) (addr : BitVec 40) (bytes : List (BitVec 8)) (r : Fin 64),
      s.regionAt addr.toNat = some r ∧ s.writable (s.accOf h) addr.toNat bytes.length = true
        ∧ s.delivers [{ at_ := addr.toNat, len := bytes.length }] = true
        ∧ ∀ p ∈ Span.parts { at_ := addr.toNat, len := bytes.length }, (s.hbmSpot p.1).isSome = true)
    ∧ (∃ (s : State) (h : Fin 64) (addr : BitVec 40) (bytes : List (BitVec 8)) (r : Fin 64), s.regionAt addr.toNat = some r
      ∧ s.writable (s.accOf h) addr.toNat bytes.length = false ∧ s.heats[h].status = .running)
    ∧ ∃ (s : State) (ch : Fin 384) (unit : Nat) (mism : Fin 4) (p : PartialUnit), s.channels[ch].partials.find? (·.unit == unit) = some p
      ∧ s.channels[ch].failed = false ∧ mism.val < 3 ∧ s.hbmSpot p.addr = none :=
  ⟨⟨hbm, 0, 0x1FFFFF, [7], 0, by decide +kernel⟩, ⟨hbm, 0, 0x1FFFFF, [7, 8], 0, by decide +kernel⟩,
    { hbm with channels := hbm.channels.set 383 { partials := [partialA] } }, 383, 9, 2, partialA, by decide +kernel⟩

theorem wit_HbmIsKeptUp : (∃ (s : State) (r : Fin 64), s.regions[r].state = .filling ∧ s.log.queues[0].waiting.length < 256)
    ∧ (∃ (s : State) (ch : Fin 384) (at_ : Nat), s.channels[ch].retraining = some at_ ∧ 1 ≤ s.channels[ch].marginFails)
    ∧ (∃ (s : State) (ch : Fin 384), s.channels[ch].trainable = true ∧ s.channels[ch].retraining = none
      ∧ s.channels[ch].lastRetrain + s.entry 0x4010 2 * 1000000 < s.clock.now ∧ (s.clock.now : Int) = s.edgeTime s.clock.stroke
      ∧ s.clock.slotOpen = false ∧ s.log.queues[dieOfChannel ch].waiting.length < 256)
    ∧ ∃ (s : State) (ch : Fin 384) (k : Fin 12), s.channels[ch].present = true ∧ s.inReset = false ∧ k.val = ch.val / 32 :=
  ⟨⟨{ base with regions := base.regions.set 63 { state := .filling } }, 63, by decide +kernel⟩,
    ⟨{ base with channels := base.channels.set 383 { retraining := some 5, marginFails := 1 } }, 383, 5, by decide +kernel⟩,
    ⟨{ base with channels := base.channels.set 383 { healthy := true }, clock := { now := 10 ^ 12, stroke := base.strokeAt (10 ^ 12) } }, 383,
      by decide +kernel⟩, base, 383, 11, by decide +kernel⟩

/-! ### Links -/

/-- `base` with Oarlock 0 as given. -/
def oarA (x : Oarlock) (s : State := base) : State := { s with oarlocks := s.oarlocks.set 0 x }

/-- A TRAIN frame with a payload. -/
def trainF (payload : List Byte) : RxFrame := frameA 5 0 0 payload

theorem wit_OarlocksTrainAndIdentify_train :
    (∃ (s : State) (o : Fin 24), s.oarlocks[o].state = .down ∧ s.linkTraining = true ∧ s.entry (0x5100 + o.val) 2 = 1)
    ∧ (∃ (s : State) (o : Fin 24), s.oarlocks[o].state = .detect ∧ (∃ e, e < 6 ∧ ∀ p ∈ dieOars (dieOf 12 o.val), s.oarlocks[p].engine ≠ some e)
      ∧ ∀ p ∈ dieOars (dieOf 12 o.val), p ≠ o → s.oarlocks[p].state ≠ .detect ∨ s.oarlocks[p].signal = false)
    ∧ (∃ (s : State) (o : Fin 24), s.oarlocks[o].state = .equalise) ∧ (∃ (s : State) (o : Fin 24), s.oarlocks[o].state = .align)
    ∧ ∃ (s : State) (o : Fin 24) (limit : Nat), s.oarlocks[o].state.limit = some limit :=
  ⟨⟨{ base.setEntry 0x5117 2 1 with linkTraining := true }, 23, by decide +kernel⟩,
    ⟨oarA { state := .detect }, 0, by decide +kernel, ⟨5, by decide, by decide +kernel⟩, by decide +kernel⟩,
    ⟨oarA { state := .equalise }, 0, by decide +kernel⟩, ⟨oarA { state := .align }, 0, by decide +kernel⟩,
    oarA { state := .keying }, 0, 5000000, by decide +kernel⟩

theorem wit_OarlocksTrainAndIdentify_identity : ∃ (s : State) (o : Fin 24) (f : RxFrame) (p : Identity),
    (s.oarlocks[o].state = .identify ∨ s.oarlocks[o].state = .hold) ∧ f.whole = true ∧ f.ftype = 5 ∧ Identity.parse f.payload = some p
      ∧ s.oarlocks[o].state = .identify :=
  ⟨oarA { state := .identify }, 0, trainF (List.replicate 64 0), ⟨0, 0, 0, 0, 0, 0, 0, 0, 0, 0, 0, List.replicate 32 0⟩, by decide +kernel⟩

/-- The body of a key frame of a kind, and a whole TRAIN frame that brings it as part 0. -/
def keyF (kind : Nat) (body : List Byte) : RxFrame := trainF ([1, BitVec.ofNat 8 kind, 0, 0, 0, 0, 0, 0] ++ body)

theorem wit_LinksAreKeyedAndAdmitted_keys :
    (∃ (s : State) (o : Fin 24) (f : RxFrame) (body : List Byte) (k : KeyExchange), s.oarlocks[o].state = .keying
      ∧ s.oarlocks[o].key = some k ∧ f.keyBody 1 = some body ∧ body.length = 1184 ∧ k.peerEncaps = none)
    ∧ (∃ (s : State) (o : Fin 24) (f : RxFrame) (body : List Byte) (k : KeyExchange), s.oarlocks[o].state = .keying
      ∧ s.oarlocks[o].key = some k ∧ f.keyBody 2 = some body ∧ body.length = 1088 ∧ k.peerCipher = none)
    ∧ ∃ (s : State) (o : Fin 24) (f : RxFrame) (body : List Byte) (k : KeyExchange) (p : Identity), s.oarlocks[o].state = .keying
      ∧ s.oarlocks[o].key = some k ∧ f.keyBody 3 = some body ∧ s.oarlocks[o].peer = some p
      ∧ 2 ≤ (((f.payload.getD 2 0).toNat, body) :: k.proof.filter (·.1 != (f.payload.getD 2 0).toNat)).length :=
  ⟨⟨oarA { state := .keying, key := some {} }, 0, keyF 1 (List.replicate 1184 1), List.replicate 1184 1, {}, by decide +kernel⟩,
    ⟨oarA { state := .keying, key := some {} }, 0, keyF 2 (List.replicate 1088 1), List.replicate 1088 1, {}, by decide +kernel⟩,
    oarA { state := .keying, key := some { proof := [(1, [7])] }, peer := some (peerA 1) }, 0, keyF 3 [8], [8], { proof := [(1, [7])] },
    peerA 1, by decide +kernel⟩

/-- A control word of a kind with more bits. -/
def wordA (kind : Nat) (more : Nat := 0) : RxWord := { bits := BitVec.ofNat 256 (withCrc (kind * 2 ^ 248 + more)), whole := true }

theorem wit_LinksAreKeyedAndAdmitted_ready : ∃ (s : State) (o : Fin 24) (w : RxWord), s.oarlocks[o].state = .readyWait ∧ w.good = true
    ∧ bitsOf w.bits.toNat 248 8 = 6 :=
  ⟨oarA { state := .readyWait }, 0, wordA 6, by decide +kernel⟩

theorem wit_LossesStopTheJobs : (∃ (s : State) (o : Fin 24) (n : BitVec 3), 3 ≤ s.oarlocks[o].state.code ∧ n.toNat ≤ 2)
    ∧ (∃ (s : State) (o : Fin 24) (n : BitVec 3), 3 ≤ s.oarlocks[o].state.code ∧ (n.toNat = 3 ∨ n.toNat = 4) ∧ s.oarlocks[o].state = .admitted)
    ∧ ∃ (s : State) (o : Fin 24) (w : RxWord) (k : Fin 4) (x : Fin 12), 3 ≤ s.oarlocks[o].state.code ∧ w.good = true
      ∧ bitsOf w.bits.toNat 248 8 = 7 ∧ s.oarlocks[o].state = .admitted ∧ s.sweepOf o = some x ∧ s.sweeps[x].state = 2
      ∧ s.hasShare k.val x.val = true ∧ s.crews[k].state = .normal :=
  ⟨⟨oarA { state := .align }, 0, 2, by decide +kernel⟩, ⟨oarA { state := .admitted }, 0, 4, by decide +kernel⟩,
    (open_ linked).setEntry 0x7000 0x10 256, 0, wordA 7, 0, 0, by decide +kernel⟩

theorem wit_LinkSecretsChange_start :
    (∃ (s : State) (o : Fin 24), s.oarlocks[o].state = .admitted ∧ s.oarlocks[o].key = none
      ∧ 2 ^ 39 ≤ max s.oarlocks[o].sealed s.oarlocks[o].opened ∧ max s.oarlocks[o].sealed s.oarlocks[o].opened < 2 ^ 40
      ∧ s.oarlocks[o].opened = s.oarlocks[o].sealed ∧ s.endA o = true ∧ s.dies[dieOf 12 o.val].trngBad = false)
    ∧ ∃ (s : State) (o : Fin 24), s.oarlocks[o].state = .admitted ∧ 2 ^ 40 ≤ max s.oarlocks[o].sealed s.oarlocks[o].opened :=
  ⟨⟨oarA { state := .admitted, sealed := 2 ^ 39, opened := 2 ^ 39 }, 0, by decide +kernel⟩,
    oarA { state := .admitted, sealed := 2 ^ 40 }, 0, by decide +kernel⟩

theorem wit_LinkSecretsChange_rekey :
    (∃ (s : State) (o : Fin 24) (f : RxFrame) (body : List Byte), s.oarlocks[o].state = .admitted ∧ f.keyBody 4 = some body
      ∧ (body.getD 0 0).toNat = 1 ∧ s.oarlocks[o].key = none)
    ∧ (∀ n ∈ [1, 2, 7], ∃ (s : State) (o : Fin 24) (f : RxFrame) (body : List Byte) (k : KeyExchange), s.oarlocks[o].state = .admitted
      ∧ f.keyBody 4 = some body ∧ (body.getD 0 0).toNat = n ∧ s.oarlocks[o].key = some k ∧ k.starter = true ∧ k.peerEncaps.isSome = true) := by
  refine ⟨⟨oarA { state := .admitted }, 0, keyF 4 [1, 9], [1, 9], by decide +kernel⟩, fun n hn =>
    ⟨oarA { state := .admitted, key := some { starter := true, peerEncaps := some [] } }, 0, keyF 4 [BitVec.ofNat 8 n], [BitVec.ofNat 8 n],
      { starter := true, peerEncaps := some [] }, ?_⟩⟩
  simp only [List.mem_cons, List.not_mem_nil, or_false] at hn
  rcases hn with h | h | h <;> subst h <;> decide +kernel

theorem wit_LinkSecretsChange_crew :
    (∃ (s : State) (o : Fin 24) (f : RxFrame) (body : List Byte) (c : Fin 4), s.oarlocks[o].state = .admitted
      ∧ c = Fin.ofNat 4 (body.getD 0 0).toNat ∧ f.keyBody 5 = some body ∧ s.oarlocks[o].crewKeys[c].proposed = none)
    ∧ (∃ (s : State) (o : Fin 24) (f : RxFrame) (body : List Byte) (c : Fin 4), s.oarlocks[o].state = .admitted
      ∧ c = Fin.ofNat 4 (body.getD 0 0).toNat ∧ f.keyBody 6 = some body ∧ s.oarlocks[o].crewKeys[c].proposed.isSome = true)
    ∧ ∃ (s : State) (o : Fin 24) (c : Fin 4) (p : Nat × List Byte × Nat), s.oarlocks[o].state = .admitted
      ∧ s.oarlocks[o].crewKeys[c].proposed = some p ∧ s.oarlocks[o].crewKeys[c].unkeyed = false
      ∧ s.log.queues[dieOf 12 o.val].waiting.length < 256 :=
  ⟨⟨oarA { state := .admitted }, 0, keyF 5 [3, 0, 0, 0, 9], [3, 0, 0, 0, 9], 3, by decide +kernel⟩,
    ⟨oarA { state := .admitted, crewKeys := .replicate 4 { proposed := some (1, [], 5) } }, 0, keyF 6 [3, 0, 0, 0, 1], [3, 0, 0, 0, 1], 3,
      by decide +kernel⟩,
    oarA { state := .admitted, crewKeys := .replicate 4 { proposed := some (1, [], 5) } }, 0, 3, (1, [], 5), by decide +kernel⟩

/-- A frame of a replay buffer with a counter, resent some times. -/
def sentA (seq resent : Nat) : SentFrame := { seq := seq, hdr := 0, ext := 0, payload := [], wire := [], resent := resent, sentAt := 4 }

theorem wit_WordsAreTaken_words : (∃ (s : State) (o : Fin 24) (w : RxWord), 3 ≤ s.oarlocks[o].state.code ∧ w.good = true
      ∧ bitsOf w.bits.toNat 248 8 = 2)
    ∧ (∃ (s : State) (o : Fin 24) (w : RxWord), 3 ≤ s.oarlocks[o].state.code ∧ w.good = true ∧ bitsOf w.bits.toNat 248 8 = 8)
    ∧ (∃ (s : State) (o : Fin 24) (w : RxWord) (k : Fin 12) (i : Nat), 3 ≤ s.oarlocks[o].state.code ∧ w.good = true
      ∧ bitsOf w.bits.toNat 248 8 = 3 ∧ s.sweepOf o = some k ∧ i < 4 ∧ bitOf w.bits.toNat (192 - 32 * i + 31) = true
      ∧ ∀ j, j < 4 → j ≠ i → bitOf w.bits.toNat (192 - 32 * j + 31) = true →
          bitsOf w.bits.toNat (192 - 32 * j + 26) 4 ≠ bitsOf w.bits.toNat (192 - 32 * i + 26) 4)
    ∧ (∃ (s : State) (o : Fin 24) (w : RxWord), 3 ≤ s.oarlocks[o].state.code ∧ w.whole = true ∧ w.good = false)
    ∧ (∃ (s : State) (o : Fin 24) (w : RxWord), 3 ≤ s.oarlocks[o].state.code ∧ w.whole = false)
    ∧ (∃ (s : State) (o : Fin 24) (w : RxWord), 3 ≤ s.oarlocks[o].state.code ∧ w.good = true ∧ bitsOf w.bits.toNat 248 8 = 0)
    ∧ ∃ (s : State) (o : Fin 24) (w : RxWord), 3 ≤ s.oarlocks[o].state.code ∧ w.good = true ∧ 8 < bitsOf w.bits.toNat 248 8 :=
  ⟨⟨oarA { state := .align }, 0, wordA 2, by decide +kernel⟩, ⟨oarA { state := .align }, 0, wordA 8, by decide +kernel⟩,
    ⟨oarA { state := .admitted }, 0, wordA 3 (2 ^ 127 + 5 * 2 ^ 96), 0, 3, by decide +kernel⟩,
    ⟨oarA { state := .align }, 0, { bits := 1, whole := true }, by decide +kernel⟩,
    ⟨oarA { state := .align }, 0, { wordA 2 with whole := false }, by decide +kernel⟩,
    ⟨oarA { state := .align }, 0, wordA 0, by decide +kernel⟩, oarA { state := .align }, 0, wordA 9, by decide +kernel⟩

theorem wit_WordsAreTaken_ack : (∃ (s : State) (o : Fin 24) (w : RxWord), 3 ≤ s.oarlocks[o].state.code ∧ w.good = true
      ∧ bitsOf w.bits.toNat 248 8 = 4 ∧ s.oarlocks[o].state = .admitted ∧ bitOf w.bits.toNat 215 = false)
    ∧ (∃ (s : State) (o : Fin 24) (w : RxWord) (kept : List SentFrame), 3 ≤ s.oarlocks[o].state.code ∧ w.good = true
      ∧ bitsOf w.bits.toNat 248 8 = 4 ∧ s.oarlocks[o].state = .admitted ∧ bitOf w.bits.toNat 215 = true
      ∧ kept = s.oarlocks[o].replay.filter (fun f => !ackFrees ((bitsOf w.bits.toNat 216 32 + 2 ^ 32 - 1) % 2 ^ 32) f) ∧ kept ≠ []
      ∧ ∀ f ∈ kept, f.resent < s.entry 0x5000 0xF)
    ∧ ∃ (s : State) (o : Fin 24) (w : RxWord) (kept : List SentFrame), 3 ≤ s.oarlocks[o].state.code ∧ w.good = true
      ∧ bitsOf w.bits.toNat 248 8 = 4 ∧ s.oarlocks[o].state = .admitted ∧ bitOf w.bits.toNat 215 = true
      ∧ kept = s.oarlocks[o].replay.filter (fun f => !ackFrees ((bitsOf w.bits.toNat 216 32 + 2 ^ 32 - 1) % 2 ^ 32) f)
      ∧ ∃ f ∈ kept, s.entry 0x5000 0xF ≤ f.resent :=
  ⟨⟨oarA { state := .admitted }, 0, wordA 4 (7 * 2 ^ 216), by decide +kernel⟩,
    ⟨oarA { state := .admitted, replay := [sentA 6 0, sentA 7 0] }, 0, wordA 4 (7 * 2 ^ 216 + 2 ^ 215), [sentA 7 0], by decide +kernel⟩,
    oarA { state := .admitted, replay := [sentA 7 99] }, 0, wordA 4 (7 * 2 ^ 216 + 2 ^ 215), [sentA 7 99], by decide +kernel⟩

theorem wit_WordsAreTaken_send :
    (∃ (s : State) (o : Fin 24), s.oarlocks[o].state = .admitted ∧ s.oarlocks[o].gap = none ∧ s.oarlocks[o].sinceAck ≠ 0)
    ∧ (∃ (s : State) (o : Fin 24) (at_ : Nat), s.oarlocks[o].state = .admitted ∧ s.oarlocks[o].gap = some at_)
    ∧ ∃ (s : State) (o : Fin 24) (f : SentFrame) (rest : List SentFrame), s.oarlocks[o].replay = f :: rest
      ∧ ∀ g ∈ f :: rest, g.resent < s.entry 0x5000 0xF :=
  ⟨⟨oarA { state := .admitted, sinceAck := 1 }, 0, by decide +kernel⟩, ⟨oarA { state := .admitted, gap := some 3 }, 0, 3, by decide +kernel⟩,
    oarA { state := .admitted, replay := [sentA 6 0, sentA 7 0] }, 0, sentA 6 0, [sentA 7 0], by decide +kernel⟩

/-- The state that a frame leaves when the link has taken it. -/
def taken (s : State) (f : RxFrame) : State := (s.receive 0 f).1

/-- A STOP of job epoch `e` of Crew 0. -/
def stopF (e : Nat) : RxFrame := frameA 4 0 0 (StopInfo.bytes ⟨4096, 0, 1, 0, e, 0⟩)

theorem wit_NeighboursReport_frames :
    (∃ (s u : State) (o : Fin 24) (f : RxFrame) (w : Fin 12), s.receive o f = (u, some w) ∧ f.ftype = 3)
    ∧ (∃ (s u : State) (o : Fin 24) (f : RxFrame) (w : Fin 12) (i : StopInfo) (c : Fin 4), s.receive o f = (u, some w)
      ∧ i = StopInfo.parse f.payload ∧ c = Fin.ofNat 4 i.crew ∧ f.ftype = 4 ∧ i.epoch = u.epoch c.val ∧ u.crews[c].stopSeen ≠ some i.epoch
      ∧ u.crews[c].state = .normal)
    ∧ ∃ (s u : State) (o : Fin 24) (f : RxFrame) (w : Fin 12) (i : StopInfo) (c : Fin 4), s.receive o f = (u, some w)
      ∧ i = StopInfo.parse f.payload ∧ c = Fin.ofNat 4 i.crew ∧ f.ftype = 4 ∧ i.epoch ≠ u.epoch c.val :=
  ⟨⟨open_ linked, taken (open_ linked) (frameA 3 0 0 []), 0, frameA 3 0 0 [], 0, pair_snd (by decide +kernel), by decide +kernel⟩,
    ⟨open_ linked, taken (open_ linked) (stopF (linked.epoch 0)), 0, stopF (linked.epoch 0), 0, StopInfo.parse (stopF (linked.epoch 0)).payload, 0,
      pair_snd (by decide +kernel), rfl, by decide +kernel, by decide +kernel, by decide +kernel, by decide +kernel, by decide +kernel⟩,
    open_ linked, taken (open_ linked) (stopF (linked.epoch 0 + 1)), 0, stopF (linked.epoch 0 + 1), 0,
      StopInfo.parse (stopF (linked.epoch 0 + 1)).payload, 0, pair_snd (by decide +kernel), rfl, by decide +kernel, by decide +kernel, by decide +kernel⟩

theorem wit_NeighboursReport_own :
    (∃ s : State, (s.telem.last.all fun n => n + s.entry 0x5000 0x10 ≤ s.strokeAt s.clock.now) = true ∧ s.sweeps[(11 : Fin 12)].state = 2)
    ∧ (∃ (s : State) (w : Fin 12) (at_ : Nat), s.sweeps[w].telemAt = some at_ ∧ s.sweeps[w].state = 2 ∧ s.sweeps[w].telemMissing = false
      ∧ ∃ o, (s.sweepOars w.val).head? = some o ∧ s.log.queues[dieOf 12 o.val].waiting.length < 256)
    ∧ (∃ (s : State) (o : Fin 24) (x : RxWord) (k : Fin 12), 3 ≤ s.oarlocks[o].state.code ∧ x.good = true ∧ bitsOf x.bits.toNat 248 8 = 5
      ∧ s.sweepOf o = some k ∧ s.entry (0x5200 + k.val) 1 ≠ 0 ∧ s.oarlocks[o].state = .admitted
      ∧ (∀ p : Fin 24, p < o → s.entry (0x5100 + p.val) 3 = k.val → s.oarlocks[p].state ≠ .admitted)
      ∧ bitsOf x.bits.toNat 208 40 = ((s.strokeAt s.clock.now - 1) % 2 ^ 40).toNat)
    ∧ ∃ (s : State) (o : Fin 24) (x : RxWord) (k : Fin 12), 3 ≤ s.oarlocks[o].state.code ∧ x.good = true ∧ bitsOf x.bits.toNat 248 8 = 5
      ∧ s.sweepOf o = some k ∧ s.entry (0x5200 + k.val) 1 ≠ 0 ∧ s.oarlocks[o].state = .admitted
      ∧ (∀ p : Fin 24, p < o → s.entry (0x5100 + p.val) 3 = k.val → s.oarlocks[p].state ≠ .admitted)
      ∧ bitsOf x.bits.toNat 208 40 ≠ (s.strokeAt s.clock.now % 2 ^ 40).toNat
      ∧ bitsOf x.bits.toNat 208 40 ≠ ((s.strokeAt s.clock.now - 1) % 2 ^ 40).toNat :=
  ⟨⟨open_ linked, by decide +kernel⟩,
    ⟨{ linked with sweeps := Vector.ofFn fun _ => { state := 2, telemAt := some 5 } }, 5, 5, by decide +kernel, by decide +kernel,
      by decide +kernel, 
      ((State.sweepOars { linked with sweeps := Vector.ofFn fun _ => { state := 2, telemAt := some 5 } } 5).head?).get (by decide +kernel),
      by decide +kernel, by decide +kernel⟩,
    ⟨open_ linked, 0, wordA 5 ((2 ^ 40 - 1) * 2 ^ 208), 0, by decide +kernel⟩, open_ linked, 0, wordA 5 (9 * 2 ^ 208), 0, by decide +kernel⟩

/-- `linked` with a Slipway region at address 0 for Crew 0: role 1, distance 1, no more than the header block to keep; slots and transfers
as given. -/
def slip (x : Slipway) : State :=
  let s := (((open_ linked).setEntry 0xD200 4 0).setEntry 0xD200 6 1).setEntry 0xD200 7 1
  let r : Region := { state := .active, base := 0, size := 6 * 32768, list := [0], owner := 0 }
  { s with regions := s.regions.set 0 r, slipways := s.slipways.set 0 x }

/-- A PUT frame of the ward: kind, slot, address, payload. -/
def putF (kind slot addr : Nat) (payload : List Byte) : RxFrame := frameA 2 2 (kind * 2 ^ 62 + slot * 2 ^ 60 + addr * 2 ^ 88) payload

theorem wit_WardDataLandsAndSeals_data :
    (∃ (s u : State) (o : Fin 24) (f : RxFrame) (w : Fin 12) (c : Fin 4) (i addr : Nat), s.receive o f = (u, some w) ∧ f.ftype = 2
      ∧ c = Fin.ofNat 4 f.crew ∧ i = bitsOf f.ext.toNat 60 2 ∧ addr = bitsOf f.ext.toNat 88 40 ∧ bitsOf f.ext.toNat 62 2 = 0 ∧ i < 3
      ∧ u.fromWard c f.origin = true ∧ u.slotBase c (3 + i) ≤ addr ∧ addr < u.slotBase c (3 + i) + u.slipSize c)
    ∧ (∃ (s u : State) (o : Fin 24) (f : RxFrame) (w : Fin 12) (c : Fin 4), s.receive o f = (u, some w) ∧ f.ftype = 2
      ∧ c = Fin.ofNat 4 f.crew ∧ bitsOf f.ext.toNat 62 2 = 0 ∧ u.fromWard c f.origin = false)
    ∧ ∃ (s u : State) (o : Fin 24) (f : RxFrame) (w : Fin 12) (c : Fin 4) (i addr m : Nat), s.receive o f = (u, some w) ∧ f.ftype = 2
      ∧ c = Fin.ofNat 4 f.crew ∧ i = bitsOf f.ext.toNat 60 2 ∧ addr = bitsOf f.ext.toNat 88 40 ∧ bitsOf f.ext.toNat 62 2 = 3 ∧ i = 0
      ∧ u.slipways[c].op = some (.receive m) ∧ sameModule m f.origin = true ∧ u.slotBase c 0 ≤ addr ∧ addr < u.slotBase c 0 + u.slipSize c :=
  ⟨⟨slip {}, taken (slip {}) (putF 0 2 163840 [7]), 0, putF 0 2 163840 [7], 0, 0, 2, 163840, pair_snd (by decide +kernel), by decide +kernel,
      by decide +kernel, by decide +kernel, by decide +kernel, by decide +kernel, by decide, by decide +kernel, by decide +kernel,
      by decide +kernel⟩,
    ⟨open_ linked, taken (open_ linked) (putF 0 0 0 [7]), 0, putF 0 0 0 [7], 0, 0, pair_snd (by decide +kernel), by decide +kernel,
      by decide +kernel, by decide +kernel, by decide +kernel⟩,
    slip { op := some (.receive 4096) }, taken (slip { op := some (.receive 4096) }) (putF 3 0 32767 [7]), 0, putF 3 0 32767 [7], 0, 0, 0, 32767,
      4096, pair_snd (by decide +kernel), by decide +kernel, by decide +kernel, by decide +kernel, by decide +kernel, by decide +kernel, rfl,
      by decide +kernel, by decide +kernel, by decide +kernel, by decide +kernel⟩

/-- Slots of which slot `i` is as given. -/
def slotsA (i : Fin 6) (x : Slot) : Slipway := { slots := (Vector.replicate 6 {}).set i x }

/-- A slot that has landed `n` of two blocks of step 9. -/
def landing (n : Nat) : Slot := { state := .receiving, step := 9, size := 8192, blocks := List.range n }

theorem wit_WardDataLandsAndSeals_seals :
    (∀ n ∈ [1, 2], ∃ (s u : State) (o : Fin 24) (f : RxFrame) (w : Fin 12) (c : Fin 4) (i : Nat) (k : Fin 6), s.receive o f = (u, some w)
      ∧ f.ftype = 2 ∧ c = Fin.ofNat 4 f.crew ∧ i = bitsOf f.ext.toNat 60 2 ∧ bitsOf f.ext.toNat 62 2 = 1 ∧ i < 3 ∧ k.val = 3 + i
      ∧ u.slipways[c].op = none ∧ u.fromWard c f.origin = true ∧ u.slipways[c].slots[k].state = .receiving
      ∧ ofBeBytes (f.payload.take 8) = u.slipways[c].slots[k].step
      ∧ (if n = 2 then u.slipways[c].slots[k].size ≤ 4096 * u.slipways[c].slots[k].blocks.length
        else 4096 * u.slipways[c].slots[k].blocks.length < u.slipways[c].slots[k].size))
    ∧ ∃ (s u : State) (o : Fin 24) (f : RxFrame) (w : Fin 12) (c : Fin 4) (i : Nat) (k : Fin 6), s.receive o f = (u, some w)
      ∧ f.ftype = 2 ∧ c = Fin.ofNat 4 f.crew ∧ i = bitsOf f.ext.toNat 60 2 ∧ bitsOf f.ext.toNat 62 2 = 2 ∧ k.val = i ∧ i < 3
      ∧ u.slipways[c].slots[k].state = .local_ ∧ u.slipways[c].slots[k].step = ofBeBytes (f.payload.take 8)
      ∧ sameModule f.origin (u.buddyOf c false) = true ∧ ∀ x ∈ u.slipways[c].transfers, x.restore = false := by
  refine ⟨fun n hn => ⟨slip (slotsA 5 (landing n)), taken (slip (slotsA 5 (landing n))) (putF 1 2 0 (beBytes 8 9)), 0, putF 1 2 0 (beBytes 8 9), 0,
    0, 2, 5, pair_snd ?_, ?_⟩, slip (slotsA 2 { state := .local_, step := 9 }), taken (slip (slotsA 2 { state := .local_, step := 9 }))
    (putF 2 2 0 (beBytes 8 9)), 0, putF 2 2 0 (beBytes 8 9), 0, 0, 2, 2, pair_snd (by decide +kernel), by decide +kernel⟩ <;>
  · simp only [List.mem_cons, List.not_mem_nil, or_false] at hn
    rcases hn with h | h <;> subst h <;> decide +kernel

/-- A transfer of slot 0 to the other module. -/
def transferA : Transfer := { slot := 0, dest := 4096, restore := false }

theorem wit_WardDataLandsAndSeals_end :
    (∃ (s : State) (c : Fin 4) (x : Transfer) (a : Nat) (m : Bool) (w : Fin 12), s.slipways[c].transfers.find? (fun t => !t.sealAsked) = some x
      ∧ (∀ w : Fin 12, ∀ f ∈ s.sweeps[w].egress, ¬ (f.ftype = 2 ∧ f.crew = c.val ∧ f.origin = s.moduleId))
      ∧ (s.route c.val x.dest).1 = some (a, m) ∧ s.axisSweep a m = w.val)
    ∧ ∃ (s : State) (origin : Nat) (crew : Fin 4) (p : PeerRecord), s.peers.find? (fun p => p.origin == origin && p.crew == crew.val) = some p
      ∧ p.stroke + s.entry 0x5000 0x12 ≤ s.strokeAt s.clock.now ∧ s.heldFrames = [] :=
  ⟨⟨slip { transfers := [transferA] }, 0, transferA, 0, false, 0, by decide +kernel⟩,
    { base with peers := [⟨4096, 3, -(base.entry 0x5000 0x12 : Int)⟩] }, 4096, 3, ⟨4096, 3, -(base.entry 0x5000 0x12 : Int)⟩, by decide +kernel⟩

/-- A Crew 0 in a state, with a Slipway. -/
def crewIn (k : CrewState) (x : Slipway := {}) : State := (slip x).onCrew 0 fun c => { c with state := k }

theorem wit_RecoveryCommandsAct :
    (∃ (s : State) (c : Fin 4), s.crews[c].state = .stopped ∧ s.heldFrames = [])
    ∧ (∃ (s : State) (c : Fin 4), s.recoveryStatus c 2 (s.entry (0xD200 + c.val) 8) = 0)
    ∧ (∃ (s : State) (c : Fin 4), s.recoveryStatus c 3 (s.entry (0xD200 + c.val) 8) = 0)
    ∧ (∃ (s : State) (c : Fin 4), s.recoveryStatus c 4 (s.entry (0xD200 + c.val) 8) = 0)
    ∧ (∃ (s : State) (c : Fin 4) (i : Fin 3), s.slipways[c].op = some (.restore i) ∧ s.log.queues[0].waiting.length < 256)
    ∧ ∀ n ∈ [1, 2, 3, 4, 5], ∃ (s : State) (c : Fin 4), s.recoveryStatus c n (s.entry (0xD200 + c.val) 8) ≠ 0 := by
  refine ⟨⟨crewIn .stopped, 0, by decide +kernel⟩,
    ⟨(crewIn .recovery (slotsA 2 { state := .sealed, step := 9 })).setEntry 0xD200 8 9, 0, by decide +kernel⟩,
    ⟨(crewIn .recovery (slotsA 5 { state := .complete, step := 9 })).setEntry 0xD200 8 9, 0, by decide +kernel⟩,
    ⟨crewIn .recovery, 0, by decide +kernel⟩, ⟨crewIn .recovery { op := some (.restore 2) }, 0, 2, by decide +kernel⟩, fun n hn =>
    ⟨base, 0, ?_⟩⟩
  simp only [List.mem_cons, List.not_mem_nil, or_false] at hn
  rcases hn with h | h | h | h | h <;> subst h <;> decide +kernel

/-! ### Time, events, Pacer, power-up, tests, keys -/

theorem wit_TimeFollowsItsReference_offset :
    (∃ (s : State) (domain : BitVec 8) (source : Nat) (t1 t2 t3 t4 c1 c2 : Int), s.inReset = false ∧ s.entry 0x2010 1 = 0
      ∧ domain.toNat = s.entry 0x2010 3 ∧ s.master.getLast? = some source ∧ ((t2 - t1 - c1) - (t4 - t3 - c2)) / 2 = 1001)
    ∧ (∃ s : State, s.inReset = false ∧ s.entry 0x2010 1 = 2 ∧ s.clock.pinBase = none)
    ∧ ∃ (s : State) (sec : Nat), s.inReset = false ∧ s.entry 0x2010 1 = 2 ∧ s.clock.pinBase = some sec :=
  ⟨⟨{ base.setEntry 0x2010 1 0 with clock := { master := [1, 2, 3, 4, 5, 6, 7, 8] } }, BitVec.ofNat 8 (base.entry 0x2010 3), 8, 0, 1001, 0, -1001, 0, 0,
      by decide +kernel⟩,
    ⟨base.setEntry 0x2010 1 2, by decide +kernel⟩, { base.setEntry 0x2010 1 2 with clock := { pinBase := some 7 } }, 7, by decide +kernel⟩

theorem wit_TimeFollowsItsReference_pins :
    (∃ (s : State) (domain : BitVec 8), s.inReset = false ∧ s.entry 0x2010 1 = 0 ∧ domain.toNat = s.entry 0x2010 3 ∧ s.master = [])
    ∧ (∃ s : State, s.inReset = false ∧ s.log.queues[0].waiting.length < 256 ∧ s.entry 0x2010 0xB = 1)
    ∧ (∃ s : State, s.inReset = false ∧ s.entry 0x2010 0xB = 2 ∧ s.entry 0xA000 0xA = 1)
    ∧ (∃ s : State, s.inReset = false ∧ s.entry 0x2010 0xB ≠ 1 ∧ s.entry 0x2010 0xB ≠ 2)
    ∧ (∃ s : State, s.inReset = false ∧ s.clock.state = .locked ∧ s.log.queues[0].waiting.length < 256)
    ∧ (∃ s : State, s.inReset = false ∧ 40000000 ≤ s.clock.now ∧ s.clock.now % 1000000000 ≠ 0)
    ∧ ∃ s : State, s.inReset = false ∧ 40000000 ≤ s.clock.now ∧ s.clock.now % 1000000000 = 0 ∧ s.clock.ppsHigh ≠ some s.clock.now :=
  ⟨⟨base.setEntry 0x2010 1 0, BitVec.ofNat 8 (base.entry 0x2010 3), by decide +kernel⟩, ⟨base.setEntry 0x2010 0xB 1, by decide +kernel⟩,
    ⟨(base.setEntry 0x2010 0xB 2).setEntry 0xA000 0xA 1, by decide +kernel⟩, ⟨base.setEntry 0x2010 0xB 0, by decide +kernel⟩,
    ⟨{ base with clock := { state := .locked } }, by decide +kernel⟩, ⟨{ base with clock := { now := 40000000 } }, by decide +kernel⟩,
    { base with clock := { now := 1000000000 } }, by decide +kernel⟩

/-- An event. -/
def eventA : Event := { ts := 3, code := 0x7030, payload := [1] }

theorem wit_EventsAreRecordedAndCaptured :
    (∃ (s : State) (d : Fin 2) (e : Event), s.log.queues[d].lost = 0 ∧ s.log.queues[d].waiting.head? = some e)
    ∧ (∃ (s : State) (d : Fin 2) (e : Event) (now : Nat), now = (match s.log.queues[d].lastInsert with
        | some at_ => (s.advanceTo (at_ + 10)).clock.now
        | none => s.clock.now) ∧ 0 < s.log.queues[d].lost
      ∧ e = { ts := s.stampAt now, code := 0xA001, payload := [s.log.queues[d].lost, s.log.queues[d].firstLost] })
    ∧ (∃ (s : State) (p : Nat × Event) (rest : List (Nat × Event)), s.log.mirror = p :: rest)
    ∧ (∃ (s : State) (m : Fin 64), s.entry (0xA100 + m.val) 6 ≤ s.ergs[m].strokes) ∧ ∃ s : State, s.entry 0xA000 0xA = 1 :=
  ⟨⟨{ base with log := { queues := .replicate 2 { waiting := [eventA] } } }, 1, eventA, by decide +kernel⟩,
    ⟨{ base with log := { queues := .replicate 2 { lost := 1, firstLost := 9, lastInsert := some 5 } } }, 1, _, 15, by decide +kernel,
      by decide +kernel, rfl⟩,
    ⟨{ base with log := { mirror := [(4, eventA)] } }, (4, eventA), [], rfl⟩,
    ⟨{ base with ergs := base.ergs.set 63 { strokes := base.entry 0xA13F 6 } }, 63, by decide +kernel⟩, base.setEntry 0xA000 0xA 1, by decide +kernel⟩

/-- `base` with a Pacer. -/
def pacerA (p : Pacer) : State := { base with pacer := p }

theorem wit_PacerLimitsPower :
    (∃ s : State, s.inReset = false ∧ s.pacer.msCount + 1 = 1000) ∧ (∃ s : State, s.inReset = false ∧ s.pacer.msCount + 1 ≠ 1000)
    ∧ (∃ (s : State) (avg : Nat), 10 ≤ s.pacer.window.length ∧ avg = (s.pacer.window.drop (s.pacer.window.length - 10)).sum / 10
      ∧ s.effectiveCap < avg)
    ∧ (∃ (s : State) (avg : Nat), 10 ≤ s.pacer.window.length ∧ avg = (s.pacer.window.drop (s.pacer.window.length - 10)).sum / 10
      ∧ avg ≤ s.effectiveCap ∧ avg + 100000 ≤ s.effectiveCap)
    ∧ (∃ (s : State) (avg : Nat), 10 ≤ s.pacer.window.length ∧ avg = (s.pacer.window.drop (s.pacer.window.length - 10)).sum / 10
      ∧ avg ≤ s.effectiveCap ∧ s.effectiveCap < avg + 100000)
    ∧ (∃ (s : State) (at_ : Nat), s.pacer.floorSince = some at_) ∧ (∃ s : State, s.pacer.hold = false ∧ 10 ≤ s.pacer.apart)
    ∧ (∃ s : State, s.pacer.hold = true ∧ 1000 ≤ s.pacer.agree)
    ∧ ∃ (s : State) (n : Fin 4) (f : Nat), s.pacer.blades[n].rising = some f :=
  ⟨⟨pacerA { msCount := 999 }, by decide +kernel⟩, ⟨base, by decide +kernel⟩,
    ⟨pacerA { window := List.replicate 10 (base.effectiveCap + 1) }, base.effectiveCap + 1, by decide +kernel⟩,
    ⟨pacerA { window := List.replicate 10 0 }, 0, by decide +kernel⟩,
    ⟨pacerA { window := List.replicate 11 base.effectiveCap }, base.effectiveCap, by decide +kernel⟩,
    ⟨pacerA { floorSince := some 7 }, 7, rfl⟩, ⟨pacerA { apart := 10 }, by decide +kernel⟩, ⟨pacerA { hold := true, agree := 1000 }, by decide +kernel⟩,
    pacerA { blades := .replicate 4 { rising := some 3000 } }, 3, 3000, by decide +kernel⟩

theorem wit_TemperatureAndRailsAct :
    (∃ (s : State) (n : Fin 4), s.inReset = false ∧ bitOf s.bladeMap n.val = true ∧ 100000 ≤ s.pacer.coreTemp (dieOf 2 n.val))
    ∧ (∃ (s : State) (r : Fin 10), s.inReset = false ∧ s.pacer.rails[r].fails ≠ 2)
    ∧ (∃ (s : State) (r : Fin 10), s.inReset = false ∧ s.pacer.rails[r].fails = 2 ∧ s.log.queues[0].waiting.length < 256)
    ∧ (∃ (s : State) (d : Fin 2), s.inReset = false ∧ (s.dies[d]).stretch = none)
    ∧ ∃ (s : State) (d : Fin 2), s.inReset = false ∧ (s.dies[d]).stretch.isSome = true :=
  ⟨⟨pacerA { sensors := (List.range 64).map fun i => (i, 100000) }, 3, by decide +kernel⟩, ⟨base, 9, by decide +kernel⟩,
    ⟨pacerA { rails := .replicate 10 { fails := 2 } }, 9, by decide +kernel⟩, ⟨base, 1, by decide +kernel⟩,
    { base with dies := .replicate 2 { stretch := some 3 } }, 1, by decide +kernel⟩

/-- The machine in a boot state, with parts; no image outside the flash fails. -/
def booting (b : BootState) (parts : Vector Part 9 := State.reset.parts) : State := { State.reset with boot := b, parts := parts }

theorem wit_BootVerifiesItsImages_rom :
    (∃ (s : State) (codes : List (BitVec 3)) (stage1 cal : BitVec 3 × BitVec 3), s.inReset = false ∧ s.boot = .rom
      ∧ codes = stage1Codes stage1 cal ∧ ∀ c : Fin 9, (c = 4 ∨ c = 1) →
      (s.parts[c]).slots[(s.parts[c]).preferred].image ≠ []
        ∧ s.imageCheck c.val (s.parts[c]).slots[(s.parts[c]).preferred] (bootCode codes c.val (s.parts[c]).preferred) true = 0)
    ∧ ∃ (s : State) (c : Fin 9), s.inReset = false ∧ s.boot = .rom ∧ (c = 4 ∨ c = 1) ∧ ∀ i : Fin 2, (s.parts[c]).slots[i].image = [] :=
  ⟨⟨booting .rom, stage1Codes (0, 0) (0, 0), (0, 0), (0, 0), by decide +kernel⟩, booting .rom (.replicate 9 {}), 4, by decide +kernel⟩

theorem wit_BootVerifiesItsImages_running :
    (∃ (s : State) (codes : List (BitVec 3)) (u : State) (i : Fin 2), s.inReset = false ∧ s.boot = .stage1 ∧ u = s.bootPart codes 7
      ∧ i = (s.parts[(2 : Fin 9)]).preferred ∧ (s.parts[(2 : Fin 9)]).slots[i].image ≠ []
      ∧ u.imageCheck 2 (s.parts[(2 : Fin 9)]).slots[i] (bootCode codes 2 i) true = 0)
    ∧ (∃ s : State, s.inReset = false ∧ s.boot = .stage1 ∧ ∀ i : Fin 2, (s.parts[(2 : Fin 9)]).slots[i].image = [])
    ∧ ∃ (s : State) (c : Fin 9) (i : Fin 2), s.inReset = false ∧ s.boot = .running ∧ s.power.bootSlots = false ∧ 1 ≤ c.val ∧ c.val ≤ 7
      ∧ (s.parts[c]).running = some (s.parts[c]).preferred ∧ i = otherSlot (s.parts[c]).preferred ∧ (s.parts[c]).slots[i].image ≠ [] :=
  ⟨⟨booting .stage1, [], (booting .stage1).bootPart [] 7, 0, by decide +kernel, by decide +kernel, rfl, by decide +kernel, by decide +kernel,
      by decide +kernel⟩,
    ⟨booting .stage1 (.replicate 9 {}), by decide +kernel⟩,
    booting .running (.replicate 9 { slots := .replicate 2 { image := factoryImage 1 }, running := some 0 }), 7, 1, by decide +kernel⟩

/-- The machine with its parts running, certificates valid, links and HBM trained. -/
def readyA : State :=
  { State.reset.setEntry 0xD000 1 1 with
    boot := .running, parts := .replicate 9 { slots := .replicate 2 { state := .valid }, running := some 0 }, power := { hbmTrained := true }
    linkTraining := true, oarlocks := .replicate 24 { state := .admitted, trained := true } }

theorem wit_PowerUpFollowsItsTimeline :
    (∃ s : State, s.inReset = false ∧ s.xefin.phase = 0 ∧ s.boot ≠ .rom ∧ s.boot ≠ .stage1 ∧ (s.dies[(0 : Fin 2)]).trngBad = false
      ∧ (s.blobs.all fun b => b.1 != entryKey 0xC010 1) = true)
    ∧ (∃ s : State, s.inReset = false ∧ s.xefin.phase = 1 ∧ s.recovering = false)
    ∧ (∃ s : State, s.inReset = false ∧ s.xefin.phase = 2 ∧ s.power.hbmTrained = false ∧ s.recovering = false)
    ∧ (∃ s : State, s.inReset = false ∧ s.linkTraining = false ∧ s.boot = .running)
    ∧ (∃ s : State, s.inReset = false ∧ s.entry 0xD000 1 = 1 ∧ s.readyNow = true ∧ s.log.queues[0].waiting.length < 256)
    ∧ ∃ s : State, s.inReset = false ∧ s.power.perstLow = false ∧ s.power.mailboxOpen = false :=
  ⟨⟨booting .failed, by decide +kernel⟩, ⟨{ booting .running with xefin := { phase := 1 } }, by decide +kernel⟩,
    ⟨{ booting .running with xefin := { phase := 2 } }, by decide +kernel⟩, ⟨booting .running, by decide +kernel⟩, ⟨readyA, by decide +kernel⟩,
    State.reset, by decide +kernel⟩

/-- The machine with the levels of its reset pins. -/
def pinned (p : Power) : State := { State.reset with power := p }

theorem wit_ResetsAndPinsAct_resets :
    (∃ s : State, s.power.pwrOkLow = false) ∧ (∃ s : State, s.power.sysRstLow = false ∧ s.power.tripped = false ∧ s.power.pwrOkLow = false)
    ∧ (∃ s : State, s.power.resetAt.isSome = true ∧ s.inReset = false) ∧ ∃ (s : State) (mc : BitVec 32), 115000 ≤ mc.toInt ∧ s.inReset = false :=
  ⟨⟨State.reset, by decide +kernel⟩, ⟨State.reset, by decide +kernel⟩, ⟨pinned { resetAt := some 5 }, by decide +kernel⟩, State.reset, 115000, by decide +kernel⟩

theorem wit_ResetsAndPinsAct_pins :
    (∃ s : State, s.power.pwrOkLow = true ∧ s.power.sysRstLow = false)
    ∧ (∃ s : State, s.power.sysRstLow = true ∧ s.power.pwrOkLow = false ∧ s.power.tripped = false)
    ∧ (∃ s : State, s.inReset = false)
    ∧ (∃ (s : State) (i : JtagInstr), onlyInReset i = true ∧ s.power.pwrOkLow = false ∧ s.power.sysRstLow = true)
    ∧ ∃ (s : State) (i : JtagInstr), onlyInReset i = true ∧ s.power.sysRstLow = false :=
  ⟨⟨pinned { pwrOkLow := true }, by decide +kernel⟩, ⟨pinned { sysRstLow := true }, by decide +kernel⟩, ⟨State.reset, by decide +kernel⟩,
    ⟨pinned { sysRstLow := true }, .highz, by decide +kernel⟩, State.reset, .extest, by decide +kernel⟩

theorem add_one_ne (x : BitVec 64) : x + 1 ≠ x := by
  intro h
  have h := congrArg BitVec.toNat h
  have hx := x.isLt
  rw [BitVec.toNat_add, show (1 : BitVec 64).toNat = 1 from rfl] at h
  omega

/-- The machine with a unit under test. -/
def tested (u : Fin 36) (x : SeatUnit) : State := { State.reset with seat := State.reset.seat.set u x }

theorem wit_UnitsAreSeatTested_slices :
    (∃ (s : State) (u : Fin 36), (s.seat[u]).run = some true)
    ∧ (∃ (s : State) (u : Fin 36) (sig : BitVec 64), (s.seat[u]).run = some false ∧ sig = Config.expectedSignature s.pacer.cal u.val (s.seat[u]).next
      ∧ (s.seat[u]).next + 1 < campaign u)
    ∧ (∃ (s : State) (u : Fin 36) (sig : BitVec 64), (s.seat[u]).run = some false ∧ sig = Config.expectedSignature s.pacer.cal u.val (s.seat[u]).next
      ∧ campaign u ≤ (s.seat[u]).next + 1)
    ∧ ∃ (s : State) (u : Fin 36) (sig : BitVec 64) (c : Fin 4), (s.seat[u]).run = some false
      ∧ s.holder (seatKind u).1 (seatKind u).2 = some c ∧ s.crews[c].state = .normal
      ∧ sig ≠ Config.expectedSignature s.pacer.cal u.val (s.seat[u]).next :=
  ⟨⟨tested 35 { run := some true }, 35, by decide +kernel⟩,
    ⟨tested 35 { run := some false, next := 158 }, 35, _, by decide +kernel, rfl, by decide +kernel⟩,
    ⟨tested 15 { run := some false, next := 31 }, 15, _, by decide +kernel, rfl, by decide +kernel⟩,
    (tested 35 { run := some false }).setEntry 0x7003 1 8, 35, Config.expectedSignature [] 35 0 + 1, 3, by decide +kernel, by decide +kernel,
      by decide +kernel, fun h => add_one_ne (Config.expectedSignature [] 35 0) h⟩

theorem wit_UnitsAreSeatTested_rotation :
    (∃ (s : State) (n : Fin 4), bitOf s.bladeMap n.val = true ∧ s.bladeInUse n = false ∧ s.blades[n].seatTest = false ∧ s.entry 0xB000 3 = 1
      ∧ ∀ m : Fin 4, s.blades[m].seatTest = false)
    ∧ (∃ (s : State) (n : Fin 4), s.bladeInUse n = true)
    ∧ (∃ (s : State) (n : Fin 4), s.blades[n].seatTest = true ∧ s.slicing (bladeUnit n) = true)
    ∧ ∃ (s : State) (n : Fin 4), s.blades[n].seatTest = true ∧ s.slicing (bladeUnit n) = false :=
  ⟨⟨State.reset.setEntry 0xB000 3 1, 3, by decide +kernel⟩, ⟨base, 0, by decide +kernel⟩,
    ⟨(tested 35 { run := some false }).onBlade 3 fun b => { b with seatTest := true }, 3, by decide +kernel⟩,
    State.reset.onBlade 3 (fun b => { b with seatTest := true }), 3, by decide +kernel⟩

/-- The machine with an ACTIVE region 63 of Crew 3 and weight key slot 7 loaded. -/
def keyed : State :=
  { State.reset.setEntry 0x8403 4 128 with
    regions := State.reset.regions.set 63 { state := .active, base := 0, size := 2097152, list := [0], owner := 3, fillEpoch := 1 } }

/-- An UNSEAL request: from an address to address 0, key slot 7. -/
def requestA : Nat := 4096 + 7 * 2 ^ 104

theorem wit_EpochsAndWeightKeysAct :
    (∃ (s : State) (c : Fin 4), s.entry (0x8200 + c.val) 2 ≠ 0 ∧ s.rotateStatus c = 0 ∧ s.log.queues[0].waiting.length < 256)
    ∧ (∃ (s : State) (c : Fin 4), s.rotateStatus c ≠ 0)
    ∧ (∃ (s : State) (c : Fin 4) (e : Nat), e = s.entry (0x8200 + c.val) 3 ∧ e ≠ 0 ∧ s.log.queues[0].waiting.length < 256
      ∧ ∀ r : Fin 64, s.regions[r].state = .active → s.regions[r].owner = c.val → s.oldOnFailed s.regions[r] e = false)
    ∧ (∃ (s : State) (c : Fin 4) (req : BitVec 256), s.unsealStatus c req.toNat = 0)
    ∧ (∃ (s : State) (c : Fin 4) (req : BitVec 256), s.unsealStatus c req.toNat ≠ 0)
    ∧ (∃ (s : State) (c : Fin 4) (hdr : BitVec 512) (plain : List Byte) (req k total : Nat), (s.trust[c]).unsealing = some (req, k)
      ∧ total = bitsOf hdr.toNat 96 64 ∧ s.writable { crew := c.val, mask := none, launch := false } (bitsOf req 64 40 + 65536 * k)
        (plain.take (min 65536 (total - 65536 * k))).length = true
      ∧ s.delivers [{ at_ := bitsOf req 64 40 + 65536 * k, len := (plain.take (min 65536 (total - 65536 * k))).length, write := true }] = true
      ∧ bitsOf hdr.toNat 0 32 = 0x554C5745 ∧ total ≤ 65536 * (k + 1))
    ∧ (∃ (s : State) (c : Fin 4) (hdr : BitVec 512) (plain : List Byte) (req k total : Nat), (s.trust[c]).unsealing = some (req, k)
      ∧ total = bitsOf hdr.toNat 96 64 ∧ s.writable { crew := c.val, mask := none, launch := false } (bitsOf req 64 40 + 65536 * k)
        (plain.take (min 65536 (total - 65536 * k))).length = true
      ∧ s.delivers [{ at_ := bitsOf req 64 40 + 65536 * k, len := (plain.take (min 65536 (total - 65536 * k))).length, write := true }] = true
      ∧ bitsOf hdr.toNat 0 32 = 0x554C5745 ∧ 65536 * (k + 1) < total)
    ∧ (∃ (s : State) (c : Fin 4) (hdr : BitVec 512) (plain : List Byte) (req k total : Nat), (s.trust[c]).unsealing = some (req, k)
      ∧ total = bitsOf hdr.toNat 96 64 ∧ s.writable { crew := c.val, mask := none, launch := false } (bitsOf req 64 40 + 65536 * k)
        (plain.take (min 65536 (total - 65536 * k))).length = true
      ∧ s.delivers [{ at_ := bitsOf req 64 40 + 65536 * k, len := (plain.take (min 65536 (total - 65536 * k))).length, write := true }] = false
      ∧ bitsOf hdr.toNat 0 32 = 0x554C5745)
    ∧ (∃ (s : State) (c : Fin 4) (plain : List Byte) (req k : Nat), (s.trust[c]).unsealing = some (req, k)
      ∧ s.writable { crew := c.val, mask := none, launch := false } (bitsOf req 64 40 + 65536 * k) plain.length = false
      ∧ s.log.queues[0].waiting.length < 256)
    ∧ (∃ (s : State) (d : Fin 2), s.inReset = false ∧ s.log.queues[d].waiting.length < 256)
    ∧ ∃ (s : State) (d : Fin 2), s.boot = .running ∧ (∀ e : Fin 2, e ≠ d → s.dies[e].trngBad = false) ∧ s.keys.moduleRoot = none :=
  ⟨⟨State.reset.setEntry 0x8203 2 255, 3, by decide +kernel⟩, ⟨State.reset.setEntry 0x8203 3 1, 3, by decide +kernel⟩,
    ⟨keyed.setEntry 0x8203 3 1, 3, 1, by decide +kernel⟩, ⟨keyed, 3, BitVec.ofNat 256 requestA, by decide +kernel⟩,
    ⟨keyed, 2, BitVec.ofNat 256 requestA, by decide +kernel⟩,
    ⟨{ keyed with trust := .replicate 4 { unsealing := some (requestA, 0) } }, 3, BitVec.ofNat 512 (0x554C5745 + 65536 * 2 ^ 96), [7], requestA, 0, 65536,
      by decide +kernel⟩,
    ⟨{ keyed with trust := .replicate 4 { unsealing := some (requestA, 0) } }, 3, BitVec.ofNat 512 (0x554C5745 + 65537 * 2 ^ 96), [7], requestA, 0, 65537,
      by decide +kernel⟩,
    ⟨{ keyed with trust := .replicate 4 { unsealing := some (requestA, 0) }, channels := keyed.channels.map fun x => { x with failed := true } }, 3,
      BitVec.ofNat 512 (0x554C5745 + 65536 * 2 ^ 96), [7], requestA, 0, 65536, by decide +kernel⟩,
    ⟨{ State.reset with trust := .replicate 4 { unsealing := some (requestA, 0) } }, 3, [7], requestA, 0, by decide +kernel⟩,
    ⟨State.reset, 1, by decide +kernel⟩, booting .running, 1, by decide +kernel⟩

theorem wit_ScrubsClearACrew : (∃ (s : State) (c : Fin 4), s.scrubStatus c = 0) ∧ (∃ (s : State) (c : Fin 4), s.scrubStatus c ≠ 0)
    ∧ (∃ (s : State) (c : Fin 4), s.crews[c].state = .scrub ∧ s.trngOk = true)
    ∧ (∃ s : State, s.inReset = false ∧ s.signer.tree = none) ∧ ∃ s : State, s.inReset = false ∧ s.signer.tree ≠ none :=
  ⟨⟨State.reset, 3, by decide +kernel⟩, ⟨base, 0, by decide +kernel⟩,
    ⟨State.reset.onCrew 3 fun c => { c with state := .scrub }, 3, by decide +kernel⟩, ⟨State.reset, by decide +kernel⟩,
    { State.reset with signer := { tree := some 0 } }, by decide +kernel⟩

/-- The machine with the mailbox open and a connection over DOE. -/
def doeA (c : SpdmState) : State :=
  { State.reset with xefin := { phase := 2, spdmDoe := c }, power := { mailboxOpen := true }, signer := { blocks := 1, used := 0, tree := some 0 } }

/-- An SPDM request: version, code, parameters, body. -/
def askA (v code p1 p2 : Nat) (body : List Byte := []) : List Byte := (beBytes 1 v ++ beBytes 1 code ++ beBytes 1 p1 ++ beBytes 1 p2) ++ body

theorem wit_SpdmAnswers_doe : ∀ c b, Asked (doeA c) (doeA c) (.doe b) c b := fun _ _ => ⟨rfl, rfl, rfl, rfl⟩

theorem wit_SpdmAnswers_requests :
    (∃ b, spdmCode b = 0x84 ∧ spdmVersion b = 0x10)
    ∧ (∃ b, spdmCode b = 0xE1 ∧ (spdmVersion b = 0x12 ∨ spdmVersion b = 0x13) ∧ 20 ≤ b.length)
    ∧ (∃ (u : State) (b : List Byte), spdmCode b = 0xE3 ∧ SpdmState.capabilities 0x13 = .capabilities (spdmVersion b) ∧ 32 ≤ b.length
      ∧ bitOf (spdmField b 12 4) 0 = true
      ∧ ∃ i, i < (b.getD 28 0).toNat ∧ (b.drop (32 + 4 * i)).take 4 = leBytes 4 (u.viewNat 0x8100 1))
    ∧ (∃ b, SpdmState.negotiated 0x13 = .negotiated (spdmVersion b) ∧ spdmCode b = 0x81 ∧ 4 ≤ b.length)
    ∧ (∃ b, SpdmState.negotiated 0x13 = .negotiated (spdmVersion b) ∧ spdmCode b = 0x82 ∧ 8 ≤ b.length ∧ spdmParam b 1 % 16 = 0)
    ∧ (∃ b, SpdmState.negotiated 0x13 = .negotiated (spdmVersion b) ∧ spdmCode b = 0x83 ∧ 44 ≤ b.length ∧ spdmParam b 1 = 0 ∧ spdmParam b 2 = 0xFF)
    ∧ (∃ b, SpdmState.negotiated 0x13 = .negotiated (spdmVersion b) ∧ spdmCode b = 0xE0 ∧ 12 ≤ b.length ∧ bitOf (spdmParam b 1) 0 = false
      ∧ spdmParam b 2 ≤ 15 ∧ 1 ≤ spdmParam b 2)
    ∧ (∃ b, spdmSupported.contains (spdmCode b) = false)
    ∧ (doeA (.negotiated 0x13)).signer.ready = true ∧ State.reset.signer.ready = false := by
  refine ⟨⟨askA 0x10 0x84 0 0, by decide +kernel⟩, ⟨askA 0x13 0xE1 0 0 (List.replicate 16 0), by decide +kernel⟩,
    ⟨State.reset, askA 0x13 0xE3 0 0 (List.replicate 8 0 ++ [1] ++ List.replicate 15 0 ++ [1, 0, 0, 0] ++ leBytes 4 (State.reset.viewNat 0x8100 1)), ?_⟩,
    ⟨askA 0x13 0x81 0 0, by decide +kernel⟩, ⟨askA 0x13 0x82 0 0 [0, 0, 255, 255], by decide +kernel⟩,
    ⟨askA 0x13 0x83 0 0xFF (List.replicate 40 0), by decide +kernel⟩, ⟨askA 0x13 0xE0 0 15 (List.replicate 8 0), by decide +kernel⟩,
    ⟨askA 0x13 0xE4 0 0, by decide +kernel⟩, by decide +kernel, by decide +kernel⟩
  refine ⟨rfl, rfl, by decide, ?_, 0, by decide +kernel, rfl⟩
  decide +kernel

/-! ### Xefin -/

/-- The machine in operation with session 7 open on the management port. -/
def xef : State :=
  { State.reset.setEntry 0xD000 1 2 with
    xefin := { phase := 2, sessions := [{ id := 7, port := .mgmt 1 2 }] }, clock := { now := 5000000000 }, boot := .running
    signer := { blocks := 1, used := 0, tree := some 0 } }

/-- A request of one frame of session 7, or of session 0. -/
def req (op : Nat) (payload : List Byte) (session : Nat := 7) : XefinFrame :=
  { port := .mgmt 1 2
    hdr := BitVec.ofNat 256 (0x5846 * 2 ^ 240 + 2 ^ 232 + 2 ^ 228 + (if session = 0 then 0 else 2 ^ 227) + op * 2 ^ 216 + session * 2 ^ 160
      + 9 * 2 ^ 96 + payload.length * 2 ^ 80)
    payload := payload, tagOk := true }

/-- The message of a request of one frame. -/
def messageOf (q : XefinFrame) : Message :=
  { port := q.port, session := hdrField q 160 32, seq := hdrField q 96 64, opcode := hdrField q 216 8, payload := q.payload }

/-- The state in which it acts: its session has noted the time, then the seq. -/
def noted (s : State) (q : XefinFrame) : State :=
  s.onSession q.port (hdrField q 160 32) fun x => { x with lastAt := s.clock.now, port := q.port }
@[inherit_doc noted] def acts (s : State) (q : XefinFrame) : State :=
  (noted s q).onSession q.port (hdrField q 160 32) fun x => { x with high := hdrField q 96 64 }

/-- The checks that `Served` names, for a request of one frame on the management port. -/
def passes (s : State) (q : XefinFrame) (op : Nat) : Bool :=
  s.portClosed q.port == false && hdrField q 240 16 == 0x5846 && frameStatus q == 0 && hdrField q 216 8 == op && s.sessionStatus q == 0
    && hdrField q 192 8 == 0 && (noted s q).gate op q.payload == 0
    && ((noted s q).session q.port (hdrField q 160 32)).all (fun x => decide (x.high < hdrField q 96 64)) && q.port != .mailbox

theorem served_of_passes {s : State} {q : XefinFrame} {op : Nat} (h : passes s q op = true) : Served s (acts s q) q (messageOf q) op := by
  simp only [passes, Bool.and_eq_true, beq_iff_eq, bne_iff_ne] at h
  obtain ⟨⟨⟨⟨⟨⟨⟨⟨h1, h2⟩, h3⟩, h4⟩, h5⟩, h6⟩, h7⟩, h8⟩, h9⟩ := h
  refine ⟨h1, h2, h3, h4, h5, noted s q, ?_, h7, fun x hx => ?_, fun hm => absurd hm h9, rfl⟩
  · unfold State.assemble; simp only [h6, if_true]; rfl
  · have e : (noted s q).session q.port (hdrField q 160 32) = some x := hx
    rw [e] at h8; exact of_decide_eq_true h8

theorem wit_Served_fragment : ∃ (s u : State) (q : XefinFrame) (m : Message), Served s u q m 1 :=
  ⟨xef, _, req 1 [], _, served_of_passes (by decide +kernel)⟩

/-- A READ item, a READ_BLOB or WRITE_BLOB operand. -/
def readB (idx sub : Nat) : List Byte := beBytes 2 idx ++ beBytes 1 sub ++ [0]
@[inherit_doc readB] def blobB (idx sub off n : Nat) : List Byte := beBytes 2 idx ++ beBytes 1 sub ++ [0] ++ beBytes 8 off ++ beBytes 4 n

theorem wit_ReadsAnswerTheDictionary_read :
    (∃ (s u : State) (q : XefinFrame) (m : Message) (idx sub flags : Nat), Served s u q m 1 ∧ m.payload.length % 4 = 0
      ∧ (∀ i ∈ readItems m.payload, i.2.2 < 2) ∧ readItems m.payload = [(idx, sub, flags)] ∧ dictRow idx sub = none)
    ∧ (∃ (s u : State) (q : XefinFrame) (m : Message) (idx sub flags : Nat) (r : DictRow), Served s u q m 1 ∧ m.payload.length % 4 = 0
      ∧ (∀ i ∈ readItems m.payload, i.2.2 < 2) ∧ readItems m.payload = [(idx, sub, flags)] ∧ dictRow idx sub = some r ∧ r.access = .wo)
    ∧ ∀ ro : Bool, ∃ (s u : State) (q : XefinFrame) (m : Message) (idx sub flags : Nat) (r : DictRow), Served s u q m 1 ∧ m.payload.length % 4 = 0
      ∧ (∀ i ∈ readItems m.payload, i.2.2 < 2) ∧ readItems m.payload = [(idx, sub, flags)] ∧ dictRow idx sub = some r
      ∧ ¬ (idx = 0xA010 ∧ sub = 1) ∧ ((u.settleTimer idx sub).valueBytes r idx sub).length < 65536 ∧ ¬ (0x3100 ≤ idx ∧ idx < 0x3104 ∧ sub = 0xE)
      ∧ if ro then r.access = .ro else r.access = .rc ∧ m.session ≠ 0 :=
  ⟨⟨xef, _, req 1 (readB 0 0), _, 0, 0, 0, served_of_passes (by decide +kernel), by decide +kernel⟩,
    ⟨xef, _, req 1 (readB 0x8400 3), _, 0x8400, 3, 0, (dictRow 0x8400 3).get (by decide +kernel), served_of_passes (by decide +kernel),
      by decide +kernel, by decide +kernel, by decide +kernel, (Option.some_get _).symm, by decide +kernel⟩,
    fun ro => match ro with
      | true => ⟨xef, _, req 1 (readB 0xD000 1), _, 0xD000, 1, 0, (dictRow 0xD000 1).get (by decide +kernel), served_of_passes (by decide +kernel),
          by decide +kernel, by decide +kernel, by decide +kernel, (Option.some_get _).symm, by decide, by decide +kernel, by decide, by decide +kernel⟩
      | false => ⟨xef, _, req 1 (readB 0x3208 1), _, 0x3208, 1, 0, (dictRow 0x3208 1).get (by decide +kernel), served_of_passes (by decide +kernel),
          by decide +kernel, by decide +kernel, by decide +kernel, (Option.some_get _).symm, by decide, by decide +kernel, by decide, by decide +kernel⟩⟩

theorem wit_ReadsAnswerTheDictionary_blob :
    (∀ n ∈ [8, 9], ∃ (s u : State) (q : XefinFrame) (m : Message) (idx sub off : Nat) (r : DictRow),
      blobOperands m.payload = some (idx, sub, off, n) ∧ m.payload.length = 16 ∧ Served s u q m 2 ∧ namesBlob 2 2 m.payload 0xA010 1 = false
        ∧ dictRow idx sub = some r ∧ r.access ≠ .wo ∧ r.type = .blob
        ∧ (if n = 8 then off + n ≤ (u.viewBytes idx sub).length else (u.viewBytes idx sub).length < off + n))
    ∧ ∃ (s u : State) (q : XefinFrame) (m : Message) (idx sub off n : Nat), blobOperands m.payload = some (idx, sub, off, n)
      ∧ m.payload.length = 16 ∧ Served s u q m 2 ∧ namesBlob 2 2 m.payload 0xA010 1 = true ∧ 1 ≤ n ∧ n ≤ 1024 := by
  refine ⟨fun n hn => ⟨xef, _, req 2 (blobB 0xB000 0xA 0 n), _, 0xB000, 0xA, 0, (dictRow 0xB000 0xA).get (by decide +kernel), ?_, ?_,
      served_of_passes ?_, ?_, (Option.some_get _).symm, by decide +kernel, by decide +kernel, ?_⟩,
    xef, _, req 2 (blobB 0xA010 1 0 1024), _, 0xA010, 1, 0, 1024, ?_, ?_, served_of_passes ?_, ?_, by decide, by decide⟩
  any_goals
    simp only [List.mem_cons, List.not_mem_nil, or_false] at hn
    rcases hn with h | h <;> subst h <;> decide +kernel
  all_goals decide +kernel

/-- A WRITE or STAGE item. -/
def itemB (idx sub type : Nat) (v : List Byte) : List Byte := beBytes 2 idx ++ beBytes 1 sub ++ beBytes 1 type ++ beBytes 2 v.length ++ [0, 0] ++ v

/-- The items of a payload. -/
def itemsA (p : List Byte) : List WriteItem := (writeItems p.length p).getD []

theorem wit_WritesActAtOnce_write :
    (∃ (s u : State) (q : XefinFrame) (m : Message) (is : List WriteItem), Served s u q m 3 ∧ writeItems m.payload.length m.payload = some is
      ∧ (∀ i ∈ is, i.type ≠ 10) ∧ firstFailure writeOk 1 is = none ∧ is ≠ [])
    ∧ ∃ (s u : State) (q : XefinFrame) (m : Message) (is : List WriteItem) (n st : Nat), Served s u q m 3
      ∧ writeItems m.payload.length m.payload = some is ∧ (∀ i ∈ is, i.type ≠ 10) ∧ firstFailure writeOk 1 is = some (n, st) :=
  ⟨⟨xef, _, req 3 (itemB 0xA000 0xB 6 [1]), _, itemsA (itemB 0xA000 0xB 6 [1]), served_of_passes (by decide +kernel), by decide +kernel,
      by decide +kernel, by decide +kernel, by decide +kernel⟩,
    xef, _, req 3 (itemB 0xD000 1 7 [0, 1]), _, itemsA (itemB 0xD000 1 7 [0, 1]), 1, 5, served_of_passes (by decide +kernel), by decide +kernel,
      by decide +kernel, by decide +kernel⟩

/-- All but the last byte of an image of component 2 with an empty body, and a machine that holds them. -/
def imageB : List Byte := factoryImage 2 ++ List.replicate 2671 0

/-- `xef` with session 7 one byte before the end of `imageB`. -/
def stagingB : State := { xef with parts := .replicate 9 { state := .staging, owner := 7, slots := .replicate 2 { image := imageB } } }

/-- `xef` with session 7 in the middle of every part. -/
def stagingA : State := { xef with parts := .replicate 9 { state := .staging, owner := 7, slots := .replicate 2 { image := [5] } } }

theorem wit_WritesActAtOnce_blob_refused : ∃ (s u : State) (q : XefinFrame) (m : Message) (idx sub off n : Nat), blobOperands m.payload = some (idx, sub, off, n)
    ∧ (m.payload.drop 16).length = n ∧ Served s u q m 4 ∧ blobWindow 4 m.payload 0x8400 4 = false ∧ blobWindow 4 m.payload 0xC301 7 = false := by
  refine ⟨xef, _, req 4 (blobB 0xA000 2 0 1 ++ [7]), _, 0xA000, 2, 0, 1, ?_, ?_, served_of_passes ?_, ?_, ?_⟩ <;> decide +kernel

theorem wit_WritesActAtOnce_blob_first : ∃ (s u : State) (q : XefinFrame) (m : Message) (idx sub off n : Nat) (c : Fin 9) (i : Fin 2) (f : FlashSlot),
    blobOperands m.payload = some (idx, sub, off, n) ∧ (m.payload.drop 16).length = n ∧ Served s u q m 4
      ∧ blobWindow 4 m.payload 0xC301 7 = true ∧ c.val = idx - 0xC300 ∧ i = (u.parts[c]).inactive ∧ f.image.length ≤ slotSize c.val
      ∧ (128 ≤ f.image.length → f.image.length ≤ f.total) ∧ f.state = .empty ∧ (u.parts[c]).state = .idle ∧ off = 0
      ∧ f.image = m.payload.drop 16 ∧ ¬ (128 ≤ f.image.length ∧ f.image.length = f.total) := by
  refine ⟨xef, acts xef (req 4 (blobB 0xC302 3 0 1 ++ [7])), req 4 (blobB 0xC302 3 0 1 ++ [7]), _, 0xC302, 3, 0, 1, 2,
    ((acts xef (req 4 (blobB 0xC302 3 0 1 ++ [7]))).parts[(2 : Fin 9)]).inactive, { image := [7] }, ?_, ?_, served_of_passes ?_, ?_⟩ <;>
    decide +kernel

theorem wit_WritesActAtOnce_blob_last : ∃ (s u : State) (q : XefinFrame) (m : Message) (idx sub off n : Nat) (c : Fin 9) (i : Fin 2) (f : FlashSlot),
    blobOperands m.payload = some (idx, sub, off, n) ∧ (m.payload.drop 16).length = n ∧ Served s u q m 4
      ∧ blobWindow 4 m.payload 0xC301 7 = true ∧ c.val = idx - 0xC300 ∧ i = (u.parts[c]).inactive ∧ f.image.length ≤ slotSize c.val
      ∧ (128 ≤ f.image.length → f.image.length ≤ f.total) ∧ f.state = .empty ∧ (u.parts[c]).state = .staging
      ∧ (u.parts[c]).owner = m.session ∧ off = (u.parts[c]).slots[i].image.length
      ∧ f.image = (u.parts[c]).slots[i].image ++ m.payload.drop 16 ∧ 128 ≤ f.image.length ∧ f.image.length = f.total ∧ u.imageCheck c.val f 0 false = 0   := by
  have hA : ((acts stagingB (req 4 (blobB 0xC302 3 4095 1 ++ [0]))).parts[(2 : Fin 9)]).slots[(1 : Fin 2)].image = imageB := rfl
  have hB : (messageOf (req 4 (blobB 0xC302 3 4095 1 ++ [0]))).payload.drop 16 = [0] := by decide +kernel
  refine ⟨stagingB, acts stagingB (req 4 (blobB 0xC302 3 4095 1 ++ [0])), req 4 (blobB 0xC302 3 4095 1 ++ [0]),
    messageOf (req 4 (blobB 0xC302 3 4095 1 ++ [0])), 0xC302, 3, 4095, 1, 2, 1,
    { image := imageB ++ [0] }, ?_, ?_, served_of_passes ?_, ?_, ?_, ?_, ?_, ?_, rfl, ?_, ?_, ?_, by rw [hA, hB], ?_, ?_, ?_⟩ <;>
    decide +kernel

theorem wit_WritesActAtOnce_blob_next : ∃ (s u : State) (q : XefinFrame) (m : Message) (idx sub off n : Nat) (c : Fin 9) (i : Fin 2) (f : FlashSlot),
    blobOperands m.payload = some (idx, sub, off, n) ∧ (m.payload.drop 16).length = n ∧ Served s u q m 4
      ∧ blobWindow 4 m.payload 0xC301 7 = true ∧ c.val = idx - 0xC300 ∧ i = (u.parts[c]).inactive ∧ f.image.length ≤ slotSize c.val
      ∧ (128 ≤ f.image.length → f.image.length ≤ f.total) ∧ f.state = .empty ∧ (u.parts[c]).state = .staging
      ∧ (u.parts[c]).owner = m.session ∧ off = (u.parts[c]).slots[i].image.length
      ∧ f.image = (u.parts[c]).slots[i].image ++ m.payload.drop 16 ∧ ¬ (128 ≤ f.image.length ∧ f.image.length = f.total) := by
  refine ⟨stagingA, acts stagingA (req 4 (blobB 0xC307 3 1 1 ++ [7])), req 4 (blobB 0xC307 3 1 1 ++ [7]), _,
    0xC307, 3, 1, 1, 7, ((acts stagingA (req 4 (blobB 0xC307 3 1 1 ++ [7]))).parts[(7 : Fin 9)]).inactive, { image := [5, 7] }, ?_, ?_,
    served_of_passes ?_, ?_⟩ <;> decide +kernel

theorem wit_WritesActAtOnce_key : ∃ (s u : State) (q : XefinFrame) (m : Message) (idx sub off n slot : Nat) (c : Fin 4),
    blobOperands m.payload = some (idx, sub, off, n) ∧ (m.payload.drop 16).length = n ∧ Served s u q m 4
      ∧ blobWindow 4 m.payload 0x8400 4 = true ∧ c.val = idx - 0x8400 ∧ off = 0 ∧ n = 1129 ∧ slot = ((m.payload.drop 16).getD 0 0).toNat
      ∧ slot < 8 ∧ (u.trust[c]).receipt.isSome = true := by
  refine ⟨{ xef with trust := .replicate 4 { receipt := some [] } }, _, req 4 (blobB 0x8403 3 0 1129 ++ 7 :: List.replicate 1128 0), _, 0x8403, 3, 0,
    1129, 7, 3, ?_, ?_, served_of_passes ?_, ?_⟩ <;> decide +kernel

theorem wit_WritesActAtOnce_register :
    (∃ s : State, s.inReset = false ∧ s.entry 0xA000 0xA = 1 ∧ s.power.resetAt = none)
    ∧ ∃ (s : State) (idx : BitVec 16) (sub : BitVec 8) (r : DictRow), s.inReset = false ∧ dictRow idx.toNat sub.toNat = some r
      ∧ writeOk r.access = false :=
  ⟨⟨xef.setEntry 0xA000 0xA 1, by decide +kernel⟩,
    xef, 0xD000, 1, (dictRow 0xD000 1).get (by decide +kernel), by decide +kernel, (Option.some_get _).symm, by decide +kernel⟩

/-- `xef` with staged items of session 7. -/
def stagedA (is : List Item) : State := { xef with xefin := { xef.xefin with staged := is, stager := 7 } }

theorem wit_CommitsAreStagedAndAccepted_stage :
    (∃ (s u : State) (q : XefinFrame) (m : Message) (is : List WriteItem) (l : List Item), u.xefin.stager = 0 ∧ Served s u q m 5
      ∧ writeItems m.payload.length m.payload = some is ∧ l = (itemsOf stageOk is).foldl stageItem u.xefin.staged
      ∧ firstFailure stageOk 1 is = none ∧ l.length ≤ 4096 ∧ (l.map Item.size).sum ≤ 65536 ∧ l ≠ [])
    ∧ (∃ (s u : State) (q : XefinFrame) (m : Message) (is : List WriteItem) (n st : Nat), u.xefin.stager = m.session ∧ Served s u q m 5
      ∧ writeItems m.payload.length m.payload = some is ∧ firstFailure stageOk 1 is = some (n, st))
    ∧ ∃ (s u : State) (q : XefinFrame) (m : Message), Served s u q m 6 ∧ m.payload = [] ∧ u.xefin.stager = m.session := by
  refine ⟨⟨xef, acts xef (req 5 (itemB 0x2000 2 1 [3])), req 5 (itemB 0x2000 2 1 [3]), _, itemsA (itemB 0x2000 2 1 [3]), _, ?_, served_of_passes ?_, ?_,
      rfl, ?_⟩,
    ⟨stagedA [], acts (stagedA []) (req 5 (itemB 0x2000 2 1 [11])), req 5 (itemB 0x2000 2 1 [11]), _, itemsA (itemB 0x2000 2 1 [11]), 1, 7, ?_,
      served_of_passes ?_, ?_, ?_⟩,
    stagedA [], acts (stagedA []) (req 6 []), req 6 [], _, served_of_passes ?_, rfl, ?_⟩ <;> decide +kernel

/-- A COMMIT for a stroke, with flags. -/
def commitB (stroke flags : Nat) : List Byte := beBytes 8 stroke ++ beBytes 1 flags ++ List.replicate 7 0

theorem wit_CommitsAreStagedAndAccepted_commit :
    (∀ flags ∈ [0, 1], ∃ (s u : State) (q : XefinFrame) (m : Message) (stroke : Nat), Served s u q m 7 ∧ u.xefin.stager = m.session
      ∧ m.payload.length = 16 ∧ flags = (m.payload.getD 8 0).toNat ∧ (∀ b ∈ m.payload.drop 9, b = 0)
      ∧ stroke = (if ofBeBytes (m.payload.take 8) % 2 ^ 40 = 0 then u.earliest else u.namedStroke (ofBeBytes (m.payload.take 8) % 2 ^ 40))
      ∧ u.receiptFailure stroke = none ∧ u.recovering = false)
    ∧ ∃ (s u : State) (q : XefinFrame) (m : Message) (stroke step : Nat) (f : Failure), Served s u q m 7 ∧ u.xefin.stager = 0
      ∧ m.payload.length = 16 ∧ 0 = (m.payload.getD 8 0).toNat ∧ (∀ b ∈ m.payload.drop 9, b = 0)
      ∧ stroke = (if ofBeBytes (m.payload.take 8) % 2 ^ 40 = 0 then u.earliest else u.namedStroke (ofBeBytes (m.payload.take 8) % 2 ^ 40))
      ∧ u.receiptFailure stroke = some (step, f) := by
  refine ⟨fun flags hf => ⟨stagedA [⟨0x2000, 2, .num 3⟩], acts (stagedA [⟨0x2000, 2, .num 3⟩]) (req 7 (commitB 0 flags)), req 7 (commitB 0 flags), _,
    (acts (stagedA [⟨0x2000, 2, .num 3⟩]) (req 7 (commitB 0 flags))).earliest, served_of_passes ?_, ?_, ?_, ?_, ?_, ?_, ?_, ?_⟩,
    xef, acts xef (req 7 (commitB 0 0)), req 7 (commitB 0 0), _, (acts xef (req 7 (commitB 0 0))).earliest, 1, ⟨0, 0, 0xC6, 0xFFFF, none, none⟩,
    served_of_passes ?_, ?_⟩
  any_goals
    simp only [List.mem_cons, List.not_mem_nil, or_false] at hf
    rcases hf with h | h <;> subst h <;> decide +kernel
  all_goals decide +kernel

/-- `xef` with a commit of session 7 pending far ahead. -/
def aheadA : State :=
  { xef with xefin := { xef.xefin with commits := [{ id := 5, stroke := 1000000, items := [], session := 7, port := .mgmt 1 2 }] } }

theorem wit_CommitsAreStagedAndAccepted_cancel : ∃ (s u : State) (q : XefinFrame) (m : Message) (k : Commit), Served s u q m 8
    ∧ m.payload.length = 8 ∧ u.xefin.commits.find? (fun k => k.id == ofBeBytes m.payload && k.session == m.session) = some k
    ∧ (u.clock.now + u.lead : Nat) ≤ u.edgeTime k.stroke := by
  refine ⟨aheadA, acts aheadA (req 8 (beBytes 8 5)), req 8 (beBytes 8 5), _,
    { id := 5, stroke := 1000000, items := [], session := 7, port := .mgmt 1 2 }, served_of_passes ?_, ?_⟩ <;> decide +kernel

/-- A SESS_OPEN. -/
def openB : XefinFrame := req 9 (List.replicate 1124 0) 0

theorem wit_SessionsPartsAndPort_sessions :
    (∃ (s u : State) (q : XefinFrame) (m : Message), Served s u q m 9 ∧ m.payload.length = 1124 ∧ m.payload.getD 0 0 = 0
      ∧ m.payload.getD 2 0 = 0 ∧ m.payload.getD 3 0 = 0 ∧ u.xefin.sessions.length < 4 ∧ u.ownerSet = none ∧ u.signer.remaining ≠ 0
      ∧ u.signer.ready = true)
    ∧ (∃ (s u : State) (q : XefinFrame) (m : Message), Served s u q m 9 ∧ m.payload.length = 1124 ∧ m.payload.getD 0 0 = 0
      ∧ m.payload.getD 2 0 = 0 ∧ m.payload.getD 3 0 = 0 ∧ u.xefin.sessions.length < 4 ∧ u.ownerSet = none ∧ u.signer.remaining ≠ 0
      ∧ u.signer.ready = false)
    ∧ (∃ (s u : State) (q : XefinFrame) (m : Message), Served s u q m 0xA ∧ m.payload = [])
    ∧ ∃ (s : State) (id : BitVec 32) (x : Session), s.xefin.sessions.find? (·.id == id.toNat) = some x
      ∧ x.lastAt + s.entry 0xC010 5 * 1000000000 ≤ s.clock.now ∧ s.xefin.stager = id.toNat ∧ s.xefin.staged ≠ []
      ∧ s.log.queues[0].waiting.length < 200 := by
  refine ⟨⟨xef, acts xef openB, openB, _, served_of_passes ?_, ?_⟩, ⟨{ xef with signer := {} }, acts { xef with signer := {} } openB, openB, _,
    served_of_passes ?_, ?_⟩, ⟨xef, _, req 0xA [], _, served_of_passes ?_, rfl⟩,
    { stagedA [⟨0x2000, 2, .num 3⟩] with clock := { now := 60000000000 } }, 7, { id := 7, port := .mgmt 1 2 }, ?_⟩ <;> decide +kernel

theorem wit_SessionsPartsAndPort_parts :
    (∃ (s : State) (part : Fin 7) (c : Fin 9), c.val = part.val + 1 ∧ s.partStatus c 1 [] = 0)
    ∧ (∃ (s : State) (part : Fin 7) (c : Fin 9), c.val = part.val + 1 ∧ s.partStatus c 1 [] ≠ 0)
    ∧ (∃ (s : State) (part : Fin 7) (c : Fin 9), c.val = part.val + 1 ∧ (s.parts[c]).state = .staging ∧ s.log.queues[0].waiting.length < 256)
    ∧ (∃ (s : State) (part : Fin 7) (c : Fin 9), c.val = part.val + 1 ∧ (s.parts[c]).state ≠ .staging ∧ (s.parts[c]).state ≠ .armed)
    ∧ ∃ (s : State) (part : Fin 7) (c : Fin 9), c.val = part.val + 1 ∧ (s.parts[c]).state = .active ∧ (c ≠ 5 ∨ s.unitsLeft c = 0) :=
  ⟨⟨{ xef with parts := .replicate 9 { state := .armed } }, 6, 7, by decide +kernel⟩, ⟨xef, 6, 7, by decide +kernel⟩,
    ⟨stagingA, 6, 7, by decide +kernel⟩, ⟨xef, 6, 7, by decide +kernel⟩,
    { xef with parts := .replicate 9 { state := .active } }, 4, 5, by decide +kernel⟩

/-- `xef` with the DHCP client in a state. -/
def dhcpA (x : DhcpState) : State := { xef with xefin := { xef.xefin with dhcp := x } }

theorem wit_SessionsPartsAndPort_port :
    (∃ (s : State) (target : BitVec 32), s.inReset = false ∧ s.xefin.phase ≠ 0 ∧ target ≠ 0 ∧ s.entry 0x1030 5 = target.toNat)
    ∧ (∃ (s : State) (target : BitVec 32), s.inReset = false ∧ s.xefin.phase ≠ 0 ∧ s.entry 0x1030 5 ≠ target.toNat)
    ∧ (∃ s : State, s.inReset = false ∧ s.xefin.phase ≠ 0 ∧ s.entry 0x1030 1 = 0 ∧ s.xefin.dhcp = .init)
    ∧ (∃ s : State, s.inReset = false ∧ s.xefin.phase ≠ 0 ∧ s.entry 0x1030 1 = 0 ∧ s.xefin.dhcp = .selecting)
    ∧ (∃ (s : State) (a : BitVec 32), s.inReset = false ∧ s.xefin.phase ≠ 0 ∧ s.entry 0x1030 1 = 0 ∧ s.xefin.dhcp = .requesting a.toNat)
    ∧ ∃ (s : State) (a : Nat), s.inReset = false ∧ s.xefin.phase ≠ 0 ∧ s.entry 0x1030 1 = 0 ∧ s.xefin.dhcp = .bound a :=
  ⟨⟨xef.setEntry 0x1030 5 0xC0A80002, 0xC0A80002, by decide +kernel⟩, ⟨xef.setEntry 0x1030 5 0xC0A80002, 0xC0A80003, by decide +kernel⟩,
    ⟨dhcpA .init, by decide +kernel⟩, ⟨dhcpA .selecting, by decide +kernel⟩, ⟨dhcpA (.requesting 9), 9, by decide +kernel⟩, dhcpA (.bound 9), 9,
    by decide +kernel⟩

end Sys2Proof.Tests
end

section
/-! PROOFS. The family of the scope: every command goes on and keeps the memory canonical (O4, O5); bad words fault their Heat (O19). -/
namespace Sys2Proof.Machine

/-! ## Answers that go on

The operations keep the frame (`Keeps`, Laws/Keeps and the files after it). A command is made of them: its proof below follows its body,
one operation after the other and one case for each branch. -/

/-- An answer that goes on from `s`: a next state with the queue of `s`, its memory in canonical form where that of `s` is. -/
def GoesOn (s : State) (o : Host.Outcome State Fault Refusal) : Prop := ∃ t, o = .next t ∧ Keeps s t

section
variable {s t u : State}

theorem Keeps.ite {c : Prop} [Decidable c] (h : Keeps s t) (k : Keeps s u) : Keeps s (if c then t else u) := by
  split
  · exact h
  · exact k

theorem GoesOn.next (h : Keeps s t) : GoesOn s (.next t) := ⟨t, rfl, h⟩

/-- An instruction that issues goes on where its effect keeps the frame. -/
theorem GoesOn.issueOn (h : Keeps s t) {n : Option (Fin 4)} {ht : Fin 64} {l : Fin 4} {faults : List (Plan × Bool)}
    {eff : State → State} (heff : ∀ u, Keeps s u → Keeps s (eff u)) : GoesOn s (t.issueOn n ht l faults eff) :=
  ⟨_, rfl, State.issueOn_keeps h n ht l faults eff heff _ rfl⟩

@[inherit_doc GoesOn.issueOn] theorem GoesOn.issue (h : Keeps s t) {ht : Fin 64} {l : Fin 4} {faults : List (Plan × Bool)}
    {eff : State → State} (heff : ∀ u, Keeps s u → Keeps s (eff u)) : GoesOn s (t.issue ht l faults eff) := .issueOn h heff

theorem GoesOn.issueService (h : Keeps s t) {ht : Fin 64} {l : Fin 4} {handle : BitVec 16} {csem : BitVec 9} {rsv : BitVec 15}
    {run : State → Nat → Nat → State} (hrun : ∀ u a n, Keeps s u → Keeps s (run u a n)) :
    GoesOn s (t.issueService ht l handle csem rsv run) :=
  ⟨_, rfl, State.issueService_keeps h ht l handle csem rsv run hrun _ rfl⟩

theorem GoesOn.issueScull (h : Keeps s t) (ht l op k handle xi csem rsv) :
    GoesOn s (t.issueScull ht l op k handle xi csem rsv) :=
  ⟨_, rfl, State.issueScull_keeps h ht l op k handle xi csem rsv _ rfl⟩

theorem GoesOn.issueLaunch (h : Keeps s t) (ht l op e handle xi csem rsv) :
    GoesOn s (t.issueLaunch ht l op e handle xi csem rsv) :=
  ⟨_, rfl, State.issueLaunch_keeps h ht l op e handle xi csem rsv _ rfl⟩

end

section
open State
variable {s t : State}

/-! ## Events, waits and frames -/

theorem execSigningTreeBuilt_goesOn (h : Keeps s t) : GoesOn s (execSigningTreeBuilt t) := .next <| by
  refine .ite h ?_
  split
  · exact h.upd ..
  · exact h.upd ..

theorem execErgWindowClose_goesOn (h : Keeps s t) (m) : GoesOn s (execErgWindowClose m t) := .next <| .ite (h.upd ..) h

theorem execSyPost_goesOn (h : Keeps s t) (ht l sem n rsv) : GoesOn s (execSyPost ht l sem n rsv t) :=
  .issue h fun _ hu => .ite (nextPc_keeps (post_keeps hu ..) ..) (faultHeat_keeps hu ..)

theorem execSyWait_goesOn (h : Keeps s t) (ht l sem n consume xwin rsv) :
    GoesOn s (execSyWait ht l sem n consume xwin rsv t) := .issue h fun _ hu => beginWait_keeps hu ..

theorem execWaitSatisfied_goesOn (h : Keeps s t) (ht l) : GoesOn s (execWaitSatisfied ht l t) := .next <| by
  split
  · exact .ite (grant_keeps h ..) h
  · exact h

theorem execSySet_goesOn (h : Keeps s t) (ht l sem value rsv) : GoesOn s (execSySet ht l sem value rsv t) :=
  .issue h fun _ hu => nextPc_keeps (setSem_keeps hu ..) ..

theorem execSyAcq_goesOn (h : Keeps s t) (ht l sem rsv) : GoesOn s (execSyAcq ht l sem rsv t) :=
  .issue h fun _ hu => beginWait_keeps hu ..

theorem execSyRel_goesOn (h : Keeps s t) (ht l sem rsv) : GoesOn s (execSyRel ht l sem rsv t) := .issue h fun _ hu => by
  extract_lets
  split
  · exact faultHeat_keeps hu ..
  · exact nextPc_keeps (onCrew_keeps (setSem_keeps hu ..) ..) ..

theorem execWaitWatchdog_goesOn (h : Keeps s t) (ht l) : GoesOn s (execWaitWatchdog ht l t) := .next <| by
  split
  · exact .ite h (raiseHeat_keeps (onLane_keeps (advanceTo_keeps h _) ..) ..)
  · exact h

theorem execSyFence_goesOn (h : Keeps s t) (ht l mask rsv) : GoesOn s (execSyFence ht l mask rsv t) :=
  .issue h fun _ hu => wakeFences_keeps (onLane_keeps hu ..) _

theorem execSyFrame_goesOn (h : Keeps s t) (ht l join rsv) : GoesOn s (execSyFrame ht l join rsv t) :=
  .issue h fun _ hu => stopLane_keeps hu ..

theorem execFrameWorkEnd_goesOn (h : Keeps s t) (ht l) : GoesOn s (execFrameWorkEnd ht l t) := .next <| by
  split
  · refine .ite (onLane_keeps ?_ ..) h
    exact .ite (onHeat_keeps (closeFrame_keeps h ..) ..) (closeFrame_keeps h ..)
  · exact h

/-! ## HBM -/

theorem execPinResident_goesOn (h : Keeps s t) (d line) : GoesOn s (execPinResident d line t) := .next <| onDie_keeps h ..

theorem execHbmWrite_goesOn (h : Keeps s t) (ht lane addr bytes waits) : GoesOn s (execHbmWrite ht lane addr bytes waits t) :=
  .next <| .ite (writeParts_keeps h ..) (faultHeat_keeps h ..)

theorem execHbmRead_goesOn (h : Keeps s t) (ht lane addr launch lookup mism ecc waits lat) :
    GoesOn s (execHbmRead ht lane addr launch lookup mism ecc waits lat t) := .next <| by
  split
  · refine .ite h ?_
    extract_lets hit u v units
    have hu : Keeps s u := .ite h (requestWaits_keeps h ..)
    have hv : Keeps s v := .ite (touchPack_keeps hu ..) hu
    split
    rename_i ok w e
    have hw : Keeps s w := by
      refine .of_snd e ?_
      split
      · exact hv
      · exact readUnits_keeps hv ..
    exact .ite (emit_keeps (feed_keeps (.ite (lookUp_keeps hw ..) hw) ..) _) hw
  · exact faultHeat_keeps h ..

theorem execPartialWriteMergeTimeout_goesOn (h : Keeps s t) (ch unit x) :
    GoesOn s (execPartialWriteMergeTimeout ch unit x t) := .next <| by
  split
  · exact h
  · refine .ite h ?_
    extract_lets u v
    have hv : Keeps s v := onChannel_keeps (bump_keeps (bump_keeps (advanceTo_keeps h _) ..) ..) ..
    refine .ite (emitUnit_keeps hv ..) ?_
    split
    rename_i n w e
    have hw : Keeps s w := .of_snd e (draw_keeps hv)
    extract_lets m
    split
    rename_i ok x e
    have hx : Keeps s x := .of_snd e (readUnitP_keeps (bump_keeps hw ..) ..)
    exact .ite (emitUnit_keeps hx ..) hx

theorem execRegionFillDone_goesOn (h : Keeps s t) (r) : GoesOn s (execRegionFillDone r t) :=
  .next <| .ite (raiseRegion_keeps (onRegion_keeps h ..) ..) h

theorem execRetrainDone_goesOn (h : Keeps s t) (ch pass) : GoesOn s (execRetrainDone ch pass t) := .next <| by
  split
  · exact h
  · extract_lets u k v w x y
    have hv : Keeps s v := onChannel_keeps (bump_keeps (advanceTo_keeps h _) ..) ..
    have hw : Keeps s w := raiseUnit_keeps (bump_keeps hv ..) ..
    have hx : Keeps s x := hw.upd ..
    exact startRetrain_keeps (.ite hv (.ite (failChannel_keeps hx _) hx))

theorem execForcedRetrain_goesOn (h : Keeps s t) (ch) : GoesOn s (execForcedRetrain ch t) :=
  .next <| .ite (raiseUnit_keeps (onChannel_keeps h ..) ..) h

theorem execStackTemperature_goesOn (h : Keeps s t) (k mc) : GoesOn s (execStackTemperature k mc t) := by
  unfold execStackTemperature
  extract_lets _ _ _ _ u _ v
  refine .next ?_
  have hu : Keeps s u := setEntry_keeps (h.upd ..) ..
  have hv : Keeps s v := .ite hu (raiseUnit_keeps hu ..)
  refine .ite (.foldl (raiseUnit_keeps hv ..) _ fun w _ hw => ?_) hv
  exact .ite (failChannel_keeps hw _) hw

theorem execBankRefresh_goesOn (h : Keeps s t) (ch pc bank asked) : GoesOn s (execBankRefresh ch pc bank asked t) := by
  unfold execBankRefresh
  extract_lets
  exact .next (.ite (emit_keeps (h.upd ..) _) h)

/-! ## Blades -/

theorem execBlRun_goesOn (h : Keeps s t) (ht l blade pd xi chx chn ch ramp acc csem) :
    GoesOn s (execBlRun ht l blade pd xi chx chn ch ramp acc csem t) := by
  unfold execBlRun
  exact .issueOn h fun _ hu => bladeHead_keeps (enqueue_keeps hu ..) _

theorem execChOpen_goesOn (h : Keeps s t) (ht l blade ledger xi csem rsv) :
    GoesOn s (execChOpen ht l blade ledger xi csem rsv t) :=
  .issue h fun _ hu => bladeHead_keeps (enqueue_keeps hu ..) _

theorem execChDrop_goesOn (h : Keeps s t) (ht l blade slot rsv) : GoesOn s (execChDrop ht l blade slot rsv t) :=
  .issue h fun _ hu => bladeHead_keeps (enqueue_keeps hu ..) _

theorem execChBind_goesOn (h : Keeps s t) (ht l blade rslot tag rsv) : GoesOn s (execChBind ht l blade rslot tag rsv t) :=
  .issue h fun _ hu => bladeHead_keeps (enqueue_keeps hu ..) _

theorem execChUnbind_goesOn (h : Keeps s t) (ht l blade rslot rsv) : GoesOn s (execChUnbind ht l blade rslot rsv t) :=
  .issue h fun _ hu => bladeHead_keeps (enqueue_keeps hu ..) _

theorem execChTopen_goesOn (h : Keeps s t) (ht l handle xi rsvHi rsvLo) :
    GoesOn s (execChTopen ht l handle xi rsvHi rsvLo t) := .issue h fun _ hu => sequencerStatus_keeps hu ..

theorem execChTclose_goesOn (h : Keeps s t) (ht l handle xi rsvHi rsvLo) :
    GoesOn s (execChTclose ht l handle xi rsvHi rsvLo t) := .issue h fun _ hu => sequencerStatus_keeps hu ..

theorem execBladeCheck_goesOn (h : Keeps s t) (n) : GoesOn s (execBladeCheck n t) := .next <| by
  split
  · refine .ite (awaitSlice_keeps h _) ?_
    split
    · exact bladeHead_keeps (checkBlade_keeps (onBlade_keeps h ..) ..) _
    · exact h
  · exact h

theorem execRampGateOpen_goesOn (h : Keeps s t) (n) : GoesOn s (execRampGateOpen n t) := .next <| by
  split
  · exact bladeHead_keeps (tryStream_keeps (onBlade_keeps (advanceTo_keeps h _) ..) _) _
  · exact h

theorem execReceiveSlotArrival_goesOn (h : Keeps s t) (n) : GoesOn s (execReceiveSlotArrival n t) :=
  .next <| bladeHead_keeps (tryStream_keeps h _) _

theorem execReceiveSlotCreditReturn_goesOn (h : Keeps s t) (n rslot) : GoesOn s (execReceiveSlotCreditReturn n rslot t) :=
  .next <| by
    refine .ite (bladeHead_keeps (tryStream_keeps (onBlade_keeps ?_ ..) _) _) h
    split
    · exact freeSlotCredits_keeps h ..
    · exact h

theorem execGranuleWatchdog_goesOn (h : Keeps s t) (n g q drain cycles) :
    GoesOn s (execGranuleWatchdog n g q drain cycles t) := .next <| by
  extract_lets u
  have hu : Keeps s u := .ite (setEntry_keeps h ..) h
  exact .ite (raiseUnit_keeps hu ..) hu

theorem execTileDecision_goesOn (h : Keeps s t) (n band group) : GoesOn s (execTileDecision n band group t) := .next <| by
  split
  · exact h
  · exact bladeHead_keeps (tryStream_keeps (decideTile_keeps h ..) _) _

theorem execTileRedo_goesOn (h : Keeps s t) (n band) : GoesOn s (execTileRedo n band t) := .next <| by
  split
  · exact h
  · exact .ite h (onRun_keeps (bump_keeps (bump_keeps (bump_keeps (bump_keeps h ..) ..) ..) ..) ..)

theorem execBladeComplete_goesOn (h : Keeps s t) (n x) : GoesOn s (execBladeComplete n x t) := .next <| by
  split
  · exact h
  · refine .ite h ?_
    extract_lets
    split
    rename_i ok u e
    have hu : Keeps s u := .of_snd e (memReport_keeps h ..)
    refine .ite hu ?_
    extract_lets a v w x y
    have hv : Keeps s v := holdSpans_keeps (countCauses_keeps hu ..) ..
    have hw : Keeps s w := .ite (updateStatus_keeps hv ..) hv
    have hx : Keeps s x := onBlade_keeps hw ..
    exact bladeHead_keeps (tryStream_keeps (.ite (postItem_keeps hx _) hx) _) _

/-! ## Control flow, Logbook, Sculls, Launch engines -/

theorem execEventRecord_goesOn (h : Keeps s t) (d) : GoesOn s (execEventRecord d t) := .next <| by
  refine .ite h ?_
  extract_lets u put
  have hu : Keeps s u := by
    unfold u
    split
    · exact advanceTo_keeps h _
    · exact h
  refine .ite (insertEvent_keeps (hu.upd ..) _) ?_
  split
  · exact hu
  · exact insertEvent_keeps (hu.upd ..) _

theorem execMirrorDatagram_goesOn (h : Keeps s t) : GoesOn s (execMirrorDatagram t) := .next <| by
  split
  · exact h
  · exact emit_keeps (.upd (.ite (advanceTo_keeps h _) h) ..) _

theorem execCtNop_goesOn (h : Keeps s t) (ht l rsv) : GoesOn s (execCtNop ht l rsv t) :=
  .issue h fun _ hu => nextPc_keeps hu ..

theorem execCtSetc_goesOn (h : Keeps s t) (ht l i imm rsv) : GoesOn s (execCtSetc ht l i imm rsv t) :=
  .issue h fun _ hu => nextPc_keeps (onLane_keeps hu ..) ..

theorem execCtAddc_goesOn (h : Keeps s t) (ht l i simm rsv) : GoesOn s (execCtAddc ht l i simm rsv t) :=
  .issue h fun _ hu => nextPc_keeps (onLane_keeps hu ..) ..

theorem execCtBr_goesOn (h : Keeps s t) (ht l cond i imm off sem) : GoesOn s (execCtBr ht l cond i imm off sem t) :=
  .issue h fun _ hu => .ite (branch_keeps (bump_keeps hu ..) ..) (nextPc_keeps hu ..)

theorem execCtLoop_goesOn (h : Keeps s t) (ht l i off rsv) : GoesOn s (execCtLoop ht l i off rsv t) :=
  .issue h fun _ hu => .ite (nextPc_keeps hu ..) (.ite (branch_keeps (onLane_keeps hu ..) ..) (faultHeat_keeps hu ..))

theorem execCtPhase_goesOn (h : Keeps s t) (ht l phase rsv) : GoesOn s (execCtPhase ht l phase rsv t) :=
  .issue h fun _ hu => nextPc_keeps (hu.upd ..) ..

theorem execCtPmark_goesOn (h : Keeps s t) (ht l handle xi rsv) : GoesOn s (execCtPmark ht l handle xi rsv t) :=
  .issue h fun _ hu => by
    refine .ite (nextPc_keeps (onLane_keeps hu ..) ..) ?_
    split
    · exact faultHeat_keeps hu ..
    · exact stopLane_keeps hu ..

theorem execCtStep_goesOn (h : Keeps s t) (ht l rsv) : GoesOn s (execCtStep ht l rsv t) :=
  .issue h fun _ hu => stopLane_keeps hu ..

theorem execCtHalt_goesOn (h : Keeps s t) (ht l rsv) : GoesOn s (execCtHalt ht l rsv t) :=
  .issue h fun _ hu => stopLane_keeps hu ..

theorem execHeatDone_goesOn (h : Keeps s t) (ht) : GoesOn s (execHeatDone ht t) :=
  .next <| .ite (emit_keeps (endHeat_keeps (raiseHeat_keeps h ..) ..) _) h

theorem execScullComplete_goesOn (h : Keeps s t) (k x) : GoesOn s (execScullComplete k x t) := .next <| by
  split
  · exact h
  · extract_lets
    split
    rename_i ok u e
    have hu : Keeps s u := .of_snd e (memReport_keeps h ..)
    refine .ite hu ?_
    extract_lets v w
    have hv : Keeps s v := holdSpans_keeps hu ..
    have hw : Keeps s w := by
      unfold w
      split
      · exact mergeFlags_keeps hv ..
      · exact hv

    refine wakeFences_keeps (scullHead_keeps _ _ (postItem_keeps (setQueue_keeps (.upd ?_ ..) ..) _)) _
    exact bump_keeps (bump_keeps (bump_keeps (bump_keeps (bump_keeps hw ..) ..) ..) ..) ..

theorem execMoveComplete_goesOn (h : Keeps s t) (e x) : GoesOn s (execMoveComplete e x t) := .next <| by
  split
  · exact h
  · refine .ite h ?_
    split
    rename_i ok u eq
    have hu : Keeps s u := .of_snd eq (advanceMove_keeps h ..)
    exact .ite (launchHead_keeps _ _ (wakeFences_keeps (postItem_keeps (bump_keeps (dropMove_keeps hu _) ..) _) _)) hu

theorem execWindowLayerLanded_goesOn (h : Keeps s t) (x) : GoesOn s (execWindowLayerLanded x t) := .next <| by
  split
  · split
    · split
      rename_i ok u eq
      have hu : Keeps s u := .of_snd eq (advanceMove_keeps h ..)
      exact .ite (layerLanded_keeps hu ..) hu
    · exact h
  · exact h

theorem execWindowRelease_goesOn (h : Keeps s t) (e) : GoesOn s (execWindowRelease e t) := .next <| by
  split
  · exact .ite (fetchLayer_keeps (setSem_keeps h ..) ..) h
  · exact h

/-! ## Links -/

theorem execOarlockDownWait_goesOn (h : Keeps s t) (o) : GoesOn s (execOarlockDownWait o t) :=
  .next <| .ite (bump_keeps (enterOar_keeps (advanceTo_keeps h _) ..) ..) h

theorem execSignalDetect_goesOn (h : Keeps s t) (o) : GoesOn s (execSignalDetect o t) :=
  .next <| .ite (grantEqualisers_keeps (onOar_keeps h ..) _) h

theorem execLossOfSignal_goesOn (h : Keeps s t) (o) : GoesOn s (execLossOfSignal o t) :=
  .next <| .ite (grantEqualisers_keeps (enterOar_keeps (onOar_keeps h ..) ..) _) h

theorem execEqualiseDone_goesOn (h : Keeps s t) (o) : GoesOn s (execEqualiseDone o t) :=
  .next <| .ite (grantEqualisers_keeps (enterOar_keeps h ..) _) h

theorem execAlignDone_goesOn (h : Keeps s t) (o polarity reversed) : GoesOn s (execAlignDone o polarity reversed t) :=
  .next <| .ite (enterOar_keeps (onOar_keeps (setEntry_keeps (setEntry_keeps h ..) ..) ..) ..) h

theorem execTrainingLimit_goesOn (h : Keeps s t) (o) : GoesOn s (execTrainingLimit o t) := .next <| by
  extract_lets
  split
  · exact failOar_keeps (raiseOar_keeps (advanceTo_keeps h _) ..) _
  · exact h

theorem execIdentityFrame_goesOn (h : Keeps s t) (o f) : GoesOn s (execIdentityFrame o f t) := .next <| by
  extract_lets st u
  have hu : Keeps s u := arrive_keeps h ..
  split
  · exact hu
  · refine .ite ?_ hu
    extract_lets _ v w x
    have hv : Keeps s v := setEntry_keeps (setEntry_keeps (setEntry_keeps (setEntry_keeps hu ..) ..) ..) ..
    have hw : Keeps s w := onOar_keeps hv ..
    have hx : Keeps s x := .ite hw (setEntry_keeps (draw_keeps hw) ..)
    exact .ite (checkIdentity_keeps hx _) hx

theorem execIdentityFrameSend_goesOn (h : Keeps s t) (o) : GoesOn s (execIdentityFrameSend o t) :=
  .next <| .ite (sendTrain_keeps (onOar_keeps (advanceTo_keeps h _) ..) ..) h

theorem execEncaps_goesOn (h : Keeps s t) (o f) : GoesOn s (execEncaps o f t) := .next <| by
  extract_lets u
  have hu : Keeps s u := arrive_keeps h ..
  split
  · refine .ite ?_ hu
    split
    rename_i ct v e
    have hv : Keeps s v := .of_snd e (drawBytes_keeps hu _)
    exact sendProof_keeps (sendTrain_keeps (onOar_keeps hv ..) ..) _
  · exact hu

theorem execCipher_goesOn (h : Keeps s t) (o f) : GoesOn s (execCipher o f t) := .next <| by
  extract_lets u
  have hu : Keeps s u := arrive_keeps h ..
  split
  · exact .ite (sendProof_keeps (onOar_keeps hu ..) _) hu
  · exact hu

theorem execProof_goesOn (h : Keeps s t) (o f sigOk digest) : GoesOn s (execProof o f sigOk digest t) := .next <| by
  extract_lets u
  have hu : Keeps s u := arrive_keeps h ..
  split
  · refine .ite ?_ hu
    extract_lets _ v _ w _
    have hv : Keeps s v := onOar_keeps hu ..
    have hw : Keeps s w := setBlob_keeps hv ..
    exact .ite hv (.ite (enterOar_keeps (onOar_keeps hw ..) ..) (failOar_keeps (raiseOar_keeps (raiseOar_keeps hw ..) ..) _))
  · exact hu

theorem execReadySend_goesOn (h : Keeps s t) (o) : GoesOn s (execReadySend o t) :=
  .next <| .ite (sendWord_keeps (onOar_keeps (advanceTo_keeps h _) ..) ..) h

theorem execReady_goesOn (h : Keeps s t) (o w) : GoesOn s (execReady o w t) := .next <| by
  split
  rename_i u ok e
  have hu : Keeps s u := .of_fst e (takeWord_keeps h ..)
  refine .ite ?_ hu
  extract_lets p v w
  have hw : Keeps s w := raiseOar_keeps (enterOar_keeps (onOar_keeps hu ..) ..) ..
  split
  · exact refreshSweep_keeps hw _
  · exact hw

theorem execOarlockLoss_goesOn (h : Keeps s t) (o c) : GoesOn s (execOarlockLoss o c t) := .next <| by
  split
  · exact loseOar_keeps h ..
  · exact loseOar_keeps h ..
  · exact loseOar_keeps h ..
  · exact .ite (loseOar_keeps h ..) h
  · exact .ite (loseOar_keeps h ..) h
  · exact h

theorem execElectricalIdleTimer_goesOn (h : Keeps s t) (o from_) : GoesOn s (execElectricalIdleTimer o from_ t) :=
  .next <| .ite (loseOar_keeps (advanceTo_keeps h _) ..) h

theorem execCodewordLockTimer_goesOn (h : Keeps s t) (o from_) : GoesOn s (execCodewordLockTimer o from_ t) :=
  .next <| .ite (loseOar_keeps (advanceTo_keeps h _) ..) h

theorem execNoValidWordTimer_goesOn (h : Keeps s t) (o) : GoesOn s (execNoValidWordTimer o t) :=
  .next <| .ite (loseOar_keeps (advanceTo_keeps h _) ..) h

theorem execNotReady_goesOn (h : Keeps s t) (o w) : GoesOn s (execNotReady o w t) := .next <| by
  split
  rename_i u ok e
  have hu : Keeps s u := .of_fst e (takeWord_keeps h ..)
  exact .ite (loseOar_keeps hu ..) hu

theorem execIdle_goesOn (h : Keeps s t) (o w) : GoesOn s (execIdle o w t) := .next <| by
  split
  rename_i u ok e
  have hu : Keeps s u := .of_fst e (takeWord_keeps h ..)
  exact .ite (onOar_keeps hu ..) hu

theorem execAlign_goesOn (h : Keeps s t) (o w) : GoesOn s (execAlign o w t) := .next <| takeWord_keeps h ..

theorem execAlignSend_goesOn (h : Keeps s t) (o) : GoesOn s (execAlignSend o t) := .next <| .ite (sendWord_keeps h ..) h

theorem execCredit_goesOn (h : Keeps s t) (o w) : GoesOn s (execCredit o w t) := .next <| by
  split
  rename_i u ok e
  have hu : Keeps s u := .of_fst e (takeWord_keeps h ..)
  split
  · refine openWindows_keeps (pump_keeps (.foldl hu _ fun v _ hv => ?_) _)
    exact .ite (onSweep_keeps hv ..) hv
  · exact hu

theorem execAck_goesOn (h : Keeps s t) (o w) : GoesOn s (execAck o w t) := .next <| by
  split
  rename_i u ok e
  have hu : Keeps s u := .of_fst e (takeWord_keeps h ..)
  refine .ite ?_ hu
  extract_lets seq v
  have hv : Keeps s v := .ite (resend_keeps (freeReplay_keeps hu ..) _) (freeReplay_keeps hu ..)
  split
  · exact openWindows_keeps (pump_keeps hv _)
  · exact hv

theorem execAckSend_goesOn (h : Keeps s t) (o) : GoesOn s (execAckSend o t) := .next <| by
  refine .ite h ?_
  split
  · exact sendAck_keeps (advanceTo_keeps h _) ..
  · exact .ite h (sendAck_keeps (advanceTo_keeps h _) ..)

theorem execReplayTimeout_goesOn (h : Keeps s t) (o) : GoesOn s (execReplayTimeout o t) := .next <| by
  split
  · exact h
  · exact resend_keeps (advanceTo_keeps h _) _

theorem execStopFrame_goesOn (h : Keeps s t) (o f) : GoesOn s (execStopFrame o f t) := .next <| by
  refine .ite (otherFrame_keeps h ..) ?_
  split <;> rename_i e
  · exact stopFrame_keeps (.of_fst e (receive_keeps h ..)) ..
  · exact .of_fst e (receive_keeps h ..)

theorem execTelemSend_goesOn (h : Keeps s t) : GoesOn s (execTelemSend t) := .next <| by
  refine .ite (.upd (.foldl h _ fun u _ hu => ?_) ..) h
  exact .ite (sendFrame_keeps hu ..) hu

theorem execTelem_goesOn (h : Keeps s t) (o f) : GoesOn s (execTelem o f t) := .next <| by
  refine .ite (otherFrame_keeps h ..) ?_
  split <;> rename_i e
  · exact telemFrame_keeps (.of_fst e (receive_keeps h ..)) ..
  · exact .of_fst e (receive_keeps h ..)

theorem execTelemetryMissing_goesOn (h : Keeps s t) (w) : GoesOn s (execTelemetryMissing w t) := .next <| by
  split
  · exact .ite (raiseSweep_keeps (onSweep_keeps (advanceTo_keeps h _) ..) ..) h
  · exact h

theorem execLinkRekeyStart_goesOn (h : Keeps s t) (o) : GoesOn s (execLinkRekeyStart o t) := .next <| by
  refine .ite h (.ite (loseOar_keeps (raiseOar_keeps h ..) ..) (.ite ?_ h))
  split
  rename_i ek u e
  have hu : Keeps s u := .of_snd e (drawBytes_keeps h _)
  exact sendTrain_keeps (onOar_keeps hu ..) ..

theorem execRekey_goesOn (h : Keeps s t) (o f macOk) : GoesOn s (execRekey o f macOk t) := .next <| by
  extract_lets u
  have hu : Keeps s u := arrive_keeps h ..
  refine .ite hu ?_
  split
  · exact hu
  · extract_lets inner rest
    split
    · split
      rename_i ek v e
      have hv : Keeps s v := .of_snd e (drawBytes_keeps hu _)
      split
      rename_i ct w e
      have hw : Keeps s w := .of_snd e (drawBytes_keeps hv _)
      exact sendTrain_keeps (sendTrain_keeps (onOar_keeps hw ..) ..) ..
    · split
      rename_i ct v e
      have hv : Keeps s v := .of_snd e (drawBytes_keeps hu _)
      extract_lets k w
      have hw : Keeps s w := sendTrain_keeps (onOar_keeps hv ..) ..
      exact .ite (sendSwitch_keeps hw ..) hw
    · extract_lets k v
      have hv : Keeps s v := onOar_keeps hu ..
      exact .ite (sendSwitch_keeps hv ..) hv
    · refine .ite ?_ hu
      extract_lets k v
      have hv : Keeps s v := onOar_keeps hu ..
      exact endRekey_keeps (.ite (sendSwitch_keeps hv ..) hv) _
    · exact hu

theorem execCrewUpdate_goesOn (h : Keeps s t) (o f macOk) : GoesOn s (execCrewUpdate o f macOk t) := .next <| by
  extract_lets u
  have hu : Keeps s u := arrive_keeps h ..
  refine .ite hu ?_
  split
  · exact hu
  · refine .ite hu ?_
    extract_lets
    split
    rename_i r v e
    have hv : Keeps s v := .of_snd e (drawBytes_keeps hu _)
    exact pumpOar_keeps (sendTrain_keeps (keyCrew_keeps hv ..) ..) _

theorem execCrewAck_goesOn (h : Keeps s t) (o f macOk) : GoesOn s (execCrewAck o f macOk t) := .next <| by
  extract_lets u
  have hu : Keeps s u := arrive_keeps h ..
  refine .ite hu ?_
  split
  · exact hu
  · extract_lets
    split
    · exact hu
    · exact pumpOar_keeps (keyCrew_keeps hu ..) _

theorem execCrewUpdateTimeout_goesOn (h : Keeps s t) (o c) : GoesOn s (execCrewUpdateTimeout o c t) := .next <| by
  split
  · extract_lets u v
    have hu : Keeps s u := advanceTo_keeps h _
    have hv : Keeps s v := .ite hu (raiseOar_keeps hu ..)
    exact sendCrewUpdate_keeps (onOar_keeps hv ..) ..
  · exact h

/-! ## Collectives -/

theorem execConsensusLapEnd_goesOn (h : Keeps s t) (c tag) : GoesOn s (execConsensusLapEnd c tag t) := .next <| by
  split
  · exact h
  · refine .ite h (.ite (settleReduction_keeps h _) (.ite (settleReduction_keeps (bump_keeps (raiseHeat_keeps h ..) ..) _) ?_))
    extract_lets e u
    have hu : Keeps s u := raiseHeat_keeps (bump_keeps h ..) ..
    split
    rename_i v k e
    have hv : Keeps s v := .of_fst e (beginReduce_keeps hu _)
    exact drain_keeps (putCollective_keeps hv _) _

theorem execCollectiveComplete_goesOn (h : Keeps s t) (c tag) : GoesOn s (execCollectiveComplete c tag t) := .next <| by
  split
  · exact h
  · refine .ite h ?_
    extract_lets _ u v w
    have hu : Keeps s u := by
      refine .ite ?_ h
      split
      rename_i a k e
      have ha : Keeps s a := .of_fst e (agree_keeps (relayStatus_keeps h _) _)
      exact .ite (bump_keeps (raiseHeat_keeps (onHeat_keeps ha ..) ..) ..) (onHeat_keeps ha ..)
    have hv : Keeps s v := closeTag_keeps (bump_keeps hu ..) _
    have hw : Keeps s w := settlePeerWait_keeps (hv.upd ..) _
    exact wakeFences_keeps (postItem_keeps hw _) _

theorem execLaRelay_goesOn (h : Keeps s t) (ht l engine handle xi csem rsv) :
    GoesOn s (execLaRelay ht l engine handle xi csem rsv t) := .issue h fun _ hu => enqueue_keeps hu ..

/-! ## Heats and services -/

theorem execQueueSpace_goesOn (h : Keeps s t) (ht l) : GoesOn s (execQueueSpace ht l t) := .next <| by
  split
  · refine .ite ?_ h
    extract_lets u
    have hu : Keeps s u := onLane_keeps (bump_keeps (setQueue_keeps h ..) ..) ..
    split
    · exact scullHead_keeps _ _ hu
    · exact launchHead_keeps _ _ hu
    · exact hu
  · exact h

theorem execStart_goesOn (h : Keeps s t) (ht) : GoesOn s (execStart ht t) := .next <| .ite (startHeat_keeps h _) h

theorem execPmarkSave_goesOn (h : Keeps s t) (ht) : GoesOn s (execPmarkSave ht t) := .next <| by
  refine .ite ?_ h
  split
  · exact faultHeat_keeps h ..
  · exact onHeat_keeps h ..

theorem execPmarkDeadline_goesOn (h : Keeps s t) (ht) : GoesOn s (execPmarkDeadline ht t) := .next <| by
  split
  · exact .ite (onHeat_keeps (raiseHeat_keeps (advanceTo_keeps h _) ..) ..) h
  · exact h

theorem execCollectiveWaitLimit_goesOn (h : Keeps s t) (ht) : GoesOn s (execCollectiveWaitLimit ht t) := .next <| by
  split
  · exact .ite (stopJob_keeps (advanceTo_keeps h _) ..) h
  · exact h

theorem execSaveComplete_goesOn (h : Keeps s t) (ht) : GoesOn s (execSaveComplete ht t) := .next <| by
  split
  · refine .ite h ?_
    extract_lets c u v w x k y z u' u'' w'
    have hw : Keeps s w := .foldl (settleEngines_keeps h _) _ fun _ _ hr => freeSlotCredits_keeps hr ..
    have hz : Keeps s z := setEntry_keeps (setEntry_keeps (bump_keeps (onCrew_keeps hw ..) ..) ..) ..
    exact schedule_keeps (raiseHeat_keeps (onHeat_keeps ((clearCrewUnits_keeps hz _).upd ..) ..) ..) _
  · exact h

theorem execRestoreComplete_goesOn (h : Keeps s t) (ht) : GoesOn s (execRestoreComplete ht t) := .next <| by
  split
  · refine .ite h (raiseHeat_keeps (onHeat_keeps (setEntry_keeps (onCrew_keeps ?_ ..) ..) ..) ..)
    exact putSave_keeps (clearCrewUnits_keeps h _) ..
  · exact h

theorem execStepLoop_goesOn (h : Keeps s t) (ht) : GoesOn s (execStepLoop ht t) := .next <| by
  extract_lets _ _ u
  refine .ite ?_ h
  have hu : Keeps s u := .foldl h _ fun _ _ hv => closeFrame_keeps hv ..
  exact .ite (faultHeat_keeps hu ..) (onHeat_keeps (setEntry_keeps (checkLoss_keeps (updateCeilings_keeps hu ..) _) ..) ..)

theorem execNote_goesOn (h : Keeps s t) (ht l handle csem rsv) : GoesOn s (execNote ht l handle csem rsv t) :=
  .issueService h fun u at_ len hu => by
    refine .ite (faultHeat_keeps hu ..) (.ite (faultHeat_keeps hu ..) (nextPc_keeps ?_ ..))
    exact .ite (raiseHeat_keeps hu ..) (post_keeps (raiseHeat_keeps hu ..) ..)

theorem execIngest_goesOn (h : Keeps s t) (ht l handle csem rsv) : GoesOn s (execIngest ht l handle csem rsv t) :=
  .issueService h fun u at_ len hu => by
    refine .ite (faultHeat_keeps hu ..) (.ite (faultHeat_keeps hu ..) ?_)
    split
    · exact addService_keeps hu ..
    · exact faultHeat_keeps hu ..

theorem execIngestCopy_goesOn (h : Keeps s t) (ht ring producer ok bytes) : GoesOn s (execIngestCopy ht ring producer ok bytes t) :=
  .next <| by
    split
    · exact h
    · refine .ite h (.ite (faultHeat_keeps (raiseHeat_keeps h ..) ..) ?_)
      extract_lets u data v w n x
      have hu : Keeps s u := feed_keeps (setEntry_keeps h ..) ..
      have hw : Keeps s w := setRingIndex_keeps (bump_keeps (holdSpans_keeps (store_keeps hu ..) ..) ..) ..
      have hx : Keeps s x := .ite hw (raiseHeat_keeps (onHeat_keeps hw ..) ..)
      exact .ite hu (.ite (faultHeat_keeps hu ..) (.ite hu (endService_keeps hx ..)))

theorem execAdmit_goesOn (h : Keeps s t) (ht l handle csem rsv) : GoesOn s (execAdmit ht l handle csem rsv t) :=
  .issueService h fun u at_ len hu => by
    refine .ite (faultHeat_keeps hu ..) (.ite (faultHeat_keeps hu ..) ?_)
    split
    · exact .ite (faultHeat_keeps hu ..) (onHeat_keeps (addService_keeps hu ..) ..)
    · exact faultHeat_keeps hu ..

theorem execAdmitRequestRead_goesOn (h : Keeps s t) (ht producer consumer entry) :
    GoesOn s (execAdmitRequestRead ht producer consumer entry t) := by
  unfold execAdmitRequestRead
  extract_lets c
  refine .next ?_
  split
  · exact h
  · extract_lets i u now first v w
    have hu : Keeps s u := setRingIndex_keeps h ..
    have hw : Keeps s w := feed_keeps (onCrew_keeps (bump_keeps (complete_keeps hu ..) ..) ..) ..
    refine .ite h (.ite (.ite (raiseHeat_keeps hw ..) hw) (.ite ?_ (onCrew_keeps hu ..)))
    exact feed_keeps (complete_keeps hu ..) ..

theorem execCheckpoint_goesOn (h : Keeps s t) (ht l handle csem rsv) : GoesOn s (execCheckpoint ht l handle csem rsv t) :=
  .issue h fun u hu => by
    extract_lets c v
    have hv : Keeps s v := .ite hu (raiseHeat_keeps (bump_keeps hu ..) ..)
    exact .ite (nextPc_keeps (.ite hu (post_keeps hu ..)) ..) (addService_keeps hv ..)

/-! ## Slipway and recovery -/

theorem execWardTransferEnd_goesOn (h : Keeps s t) (c) : GoesOn s (execWardTransferEnd c t) := .next <| by
  split
  · exact h
  · exact .ite h (sendPut_keeps (onSlip_keeps h ..) ..)

theorem execCheckpointSnapshot_goesOn (h : Keeps s t) (ht) : GoesOn s (execCheckpointSnapshot ht t) := by
  unfold execCheckpointSnapshot
  extract_lets c
  refine .next ?_
  split
  · exact h
  · split
    · refine .ite h (.ite (endService_keeps h ..) ?_)
      split
      rename_i u i e
      have hu : Keeps s u := .of_fst e (snapshotSlot_keeps h _)
      exact sendBlocks_keeps (onSlip_keeps (endService_keeps hu ..) ..) ..
    · exact h

theorem execPeerRecordIdle_goesOn (h : Keeps s t) (origin crew) : GoesOn s (execPeerRecordIdle origin crew t) := .next <| by
  split
  · exact h
  · exact .ite (retryHeld_keeps (h.upd ..)) h

theorem execRestoreDone_goesOn (h : Keeps s t) (c) : GoesOn s (execRestoreDone c t) := .next <| by
  split
  · refine raise_keeps (onSlip_keeps (restoreTags_keeps (restoreLoss_keeps (setEntry_keeps (setEntry_keeps ?_ ..) ..) ..) ..) ..) ..
    exact .foldl_fst h _ fun p _ hp => store_keeps hp ..
  · exact h

/-! ## Pacer and seat test -/

theorem execRailSettled_goesOn (h : Keeps s t) (n) : GoesOn s (execRailSettled n t) := .next <| by
  split
  · exact onClock_keeps (setEntry_keeps h ..) ..
  · exact h

theorem execPacerEval_goesOn (h : Keeps s t) (e0 e1 e2 e3 rest) : GoesOn s (execPacerEval e0 e1 e2 e3 rest t) := .next <| by
  refine .ite h ?_
  exact .ite (closeMs_keeps (onPacer_keeps h _)) (onPacer_keeps h _)

theorem execPowerCapStep_goesOn (h : Keeps s t) : GoesOn s (execPowerCapStep t) := .next <| by
  refine .ite h (showPacer_keeps (onPacer_keeps ?_ _))
  have hu := integrateEnergy_keeps h
  exact .ite (bump_keeps (onPacer_keeps (stepAll_keeps hu ..) _) ..) (.ite (stepAll_keeps hu ..) hu)

theorem execCapFloorTimeout_goesOn (h : Keeps s t) : GoesOn s (execCapFloorTimeout t) := .next <| by
  split
  · exact h
  · exact .foldl (raise_keeps (onPacer_keeps (advanceTo_keeps h _) _) ..) _ fun _ _ hu => stopJob_keeps hu ..

theorem execDisagreementTimeout_goesOn (h : Keeps s t) : GoesOn s (execDisagreementTimeout t) := .next <| by
  refine .ite h (showPacer_keeps (.foldl ?_ _ fun _ _ hu => setRail_keeps (setEntry_keeps hu ..) ..))
  exact bump_keeps (setEntry_keeps (onPacer_keeps (raise_keeps h ..) _) ..) ..

theorem execHoldEnd_goesOn (h : Keeps s t) : GoesOn s (execHoldEnd t) := .next <| by
  refine .ite (showPacer_keeps (.foldl ?_ _ fun _ _ hu => setRail_keeps hu ..)) h
  exact raise_keeps (setEntry_keeps (onPacer_keeps h _) ..) ..

theorem execJunctionTemperature_goesOn (h : Keeps s t) (d sensor mc) : GoesOn s (execJunctionTemperature d sensor mc t) :=
  .next <| by
    refine .ite h ?_
    extract_lets u v own w tc was now x top hot y _ z
    have hv : Keeps s v := setEntry_keeps (onPacer_keeps h _) ..
    have hw : Keeps s w := .foldl hv _ fun _ _ hs =>
      .ite (setEntry_keeps hs ..) (turnThermal_keeps (onClock_keeps (setEntry_keeps hs ..) ..) ..)
    have hx : Keeps s x := .ite hw (turnThermal_keeps (onPacer_keeps hw _) ..)
    have hy : Keeps s y := .ite (raise_keeps hx ..) hx
    exact showPacer_keeps (onPacer_keeps (hy.upd ..) _)

theorem execThermalStepDown_goesOn (h : Keeps s t) (n) : GoesOn s (execThermalStepDown n t) := .next <| by
  refine .ite ?_ h
  exact bump_keeps (onClock_keeps (lowerTo_keeps (dropRise_keeps (advanceTo_keeps h _) ..) ..) ..) ..

theorem execRailRead_goesOn (h : Keeps s t) (r ok mv ma mw) : GoesOn s (execRailRead r ok mv ma mw t) := .next <| by
  refine .ite h (.ite (railRead_keeps h ..) ?_)
  extract_lets u v
  have hu : Keeps s u := onRail_keeps h ..
  have hv : Keeps s v := onRail_keeps hu ..
  exact .ite (.ite (lowerTo_keeps (dropRise_keeps (raise_keeps hv ..) ..) ..) (raise_keeps hv ..)) hu

theorem execDroopTrip_goesOn (h : Keeps s t) (d rail) : GoesOn s (execDroopTrip d rail t) := .next <| by
  refine .ite h (.ite h (.upd (.ite ?_ ?_) ..))
  · exact bump_keeps (onDie_keeps h ..) ..
  · exact bump_keeps (onDie_keeps h ..) ..

theorem execStretchEnd_goesOn (h : Keeps s t) (d cycles) : GoesOn s (execStretchEnd d cycles t) :=
  .next <| .ite (bump_keeps (bump_keeps (onDie_keeps h ..) ..) ..) h

theorem execSeatSliceEnd_goesOn (h : Keeps s t) (u signature) : GoesOn s (execSeatSliceEnd u signature t) := .next <| by
  split
  · exact h
  · extract_lets k i v w x want done d bad suspect left y
    have hv : Keeps s v := onSeat_keeps h ..
    have hw : Keeps s w := bump_keeps hv ..
    have hx : Keeps s x := .ite (hw.upd ..) hw
    have hdone : Keeps s done := onSeat_keeps (bump_keeps hx ..) ..
    have hsuspect : Keeps s suspect := onSeat_keeps (raiseUnit_keeps (bump_keeps hx ..) ..) ..
    have hleft : Keeps s left := by
      unfold left
      split
      · exact .ite (endRotation_keeps hsuspect _) hsuspect
      · exact hsuspect
    refine afterSlice_keeps (.ite (nextRotated_keeps (bump_keeps hv ..) _) (.ite (.ite ?_ ?_) ?_)) _
    · exact nextRotated_keeps (onSeat_keeps hx ..) _
    · split
      · exact .ite (raiseUnit_keeps (endRotation_keeps hdone _) ..) hdone
      · exact hdone
    · split
      · exact stopJob_keeps hleft ..
      · exact hleft

theorem execAutomaticRotation_goesOn (h : Keeps s t) (n) : GoesOn s (execAutomaticRotation n t) :=
  .next <| .ite (rotateOut_keeps (advanceTo_keeps h _) _) h

/-! ## Trust, images and boot -/

theorem execTrngHealthFailure_goesOn (h : Keeps s t) (d) : GoesOn s (execTrngHealthFailure d t) :=
  .next <| .ite h (raiseOn_keeps (onDie_keeps h ..) ..)

theorem execTrngHealthRecovery_goesOn (h : Keeps s t) (d) : GoesOn s (execTrngHealthRecovery d t) :=
  .next <| drawPowerUpKeys_keeps (onDie_keeps h ..)

theorem execRekeyPassDone_goesOn (h : Keeps s t) (c) : GoesOn s (execRekeyPassDone c t) := .next <| by
  extract_lets
  exact .ite h (raise_keeps (setEntry_keeps (onTrust_keeps (h.upd ..) ..) ..) ..)

theorem execUnsealSegmentDone_goesOn (h : Keeps s t) (c header plain tagOk) :
    GoesOn s (execUnsealSegmentDone c header plain tagOk t) := .next <| by
  split
  · exact h
  · refine .ite (raise_keeps (onTrust_keeps (setEntry_keeps h ..) ..) ..) (.ite h ?_)
    extract_lets u
    have hu : Keeps s u := bump_keeps (holdSpans_keeps (store_keeps h ..) ..) ..
    exact .ite (onTrust_keeps (setEntry_keeps hu ..) ..) (onTrust_keeps hu ..)

theorem execScrub_goesOn (h : Keeps s t) (c) : GoesOn s (execScrub c t) := .next <| .ite h (startScrub_keeps h _)

theorem execScrubEnd_goesOn (h : Keeps s t) (c) : GoesOn s (execScrubEnd c t) := .next <| by
  refine .ite h ?_
  extract_lets due u us v held w x y unkeyed
  have hv : Keeps s v := .foldl (advanceTo_keeps h _) _ fun _ _ hs => repeatIdle_keeps hs ..
  have hx : Keeps s x := drawCrewKeys_keeps (onCrew_keeps (hv.upd ..) ..) _
  have hy : Keeps s y := .foldl hx _ fun _ _ hs => fillIdle_keeps hs _
  exact raise_keeps (setEntry_keeps hy ..) ..

theorem execStage1Start_goesOn (h : Keeps s t) (puf stage1 cal) : GoesOn s (execStage1Start puf stage1 cal t) := by
  unfold execStage1Start
  extract_lets codes u v off
  refine .next (.ite h (.ite (enterRecovery_keeps (h.upd ..) _) ?_))
  have hu : Keeps s u := eraseSecret_keeps (.ite (readPuf_keeps h) h)
  have hv : Keeps s v := bootPart_keeps (bootPart_keeps hu ..) ..
  refine .ite (enterRecovery_keeps hv _) ?_
  exact hv.upd ..

theorem execBootRunning_goesOn (h : Keeps s t) (codes) : GoesOn s (execBootRunning codes t) := .next <| by
  refine .ite h ?_
  extract_lets u missing _ v w
  have hu : Keeps s u := .foldl h _ fun _ _ hs => bootPart_keeps hs ..
  have hv : Keeps s v := drawPowerUpKeys_keeps (hu.upd ..)
  have hw : Keeps s w := .ite (.foldl hv _ fun _ _ hs => setRail_keeps (setEntry_keeps (setEntry_keeps hs ..) ..) ..) hv
  exact .ite (enterRecovery_keeps hu _) (.ite (raise_keeps (hw.upd ..) ..) hw)

theorem execBackgroundVerifyDone_goesOn (h : Keeps s t) (codes) : GoesOn s (execBackgroundVerifyDone codes t) := .next <| by
  refine .ite h (.upd (.foldl h _ fun _ _ hs => ?_) ..)
  exact .ite (verifySlot_keeps hs ..) hs

theorem execActivate_goesOn (h : Keeps s t) (part) : GoesOn s (execActivate part t) := .next <| .ite (activatePart_keeps h _) h

theorem execPartActiveEnd_goesOn (h : Keeps s t) (part) : GoesOn s (execPartActiveEnd part t) :=
  .next <| .ite (endActive_keeps h _) h

/-! ## Module time -/

theorem execPtpSync_goesOn (h : Keeps s t) (domain source t1 t2 t3 t4 c1 c2) :
    GoesOn s (execPtpSync domain source t1 t2 t3 t4 c1 c2 t) :=
  .next <| .ite h (.ite (servo_keeps (emit_keeps (h.upd ..) _) _) h)

theorem execPtpAnnounce_goesOn (h : Keeps s t) (domain p1 class_ acc var p2 gm steps source) :
    GoesOn s (execPtpAnnounce domain p1 class_ acc var p2 gm steps source t) := .next <| .ite h (.ite (h.upd ..) h)

theorem execPpsInEdge_goesOn (h : Keeps s t) : GoesOn s (execPpsInEdge t) := .next <| by
  refine .ite h (.ite ?_ h)
  split
  · exact servo_keeps (stepTo_keeps (h.upd ..) _) _
  · exact servo_keeps h _

theorem execTickInEdge_goesOn (h : Keeps s t) : GoesOn s (execTickInEdge t) := .next <| by
  refine .ite h ?_
  split
  · exact raise_keeps h ..
  · exact snapshot_keeps h
  · exact h

theorem execReferenceLossTimeout_goesOn (h : Keeps s t) : GoesOn s (execReferenceLossTimeout t) :=
  .next <| .ite (setEntry_keeps (.upd (enterTime_keeps (advanceTo_keeps h _) _) ..) ..) h

theorem execPpsOutSecond_goesOn (h : Keeps s t) : GoesOn s (execPpsOutSecond t) :=
  .next <| .ite h (emit_keeps (.upd (advanceTo_keeps h _) ..) _)

theorem execTick_goesOn (h : Keeps s t) (o w) : GoesOn s (execTick o w t) := .next <| by
  split
  · rename_i u k e _
    have hu : Keeps s u := .of_fst e (takeWord_keeps h ..)
    extract_lets first now named delay n
    refine .ite hu ?_
    clear_value n
    split
    · exact bump_keeps hu ..
    · extract_lets edge off v good far _ w x y
      have hv : Keeps s v := feed_keeps (setEntry_keeps hu ..) ..
      have hw : Keeps s w := hv.upd ..
      have hx : Keeps s x := bump_keeps hw ..
      have hy : Keeps s y := .ite (.ite (raiseSweep_keeps hx ..) hx) hw
      exact .ite (servo_keeps hy _) hy
  · rename_i e _
    exact .of_fst e (takeWord_keeps h ..)

theorem execStrokeEdge_goesOn (h : Keeps s t) : GoesOn s (execStrokeEdge t) :=
  .next <| .ite h (edgeWork_keeps (.upd (advanceTo_keeps h _) ..))

theorem execMaintenanceSlotOpen_goesOn (h : Keeps s t) : GoesOn s (execMaintenanceSlotOpen t) :=
  .next <| .ite h (startSlices_keeps (openRetrain_keeps (.upd (advanceTo_keeps h _) ..)))

/-! ## Xefin and commits -/

theorem execRead_goesOn (h : Keeps s t) (q) : GoesOn s (execRead q t) :=
  .next <| xefinFrame_keeps h _ _ _ fun _ _ hu => doRead_keeps hu _

theorem execReadBlob_goesOn (h : Keeps s t) (q) : GoesOn s (execReadBlob q t) :=
  .next <| xefinFrame_keeps h _ _ _ fun _ _ hu => doReadBlob_keeps hu _

theorem execLogbookRead_goesOn (h : Keeps s t) (q) : GoesOn s (execLogbookRead q t) :=
  .next <| xefinFrame_keeps h _ _ _ fun _ _ hu => doLogbookRead_keeps hu _

theorem execWrite_goesOn (h : Keeps s t) (q) : GoesOn s (execWrite q t) :=
  .next <| xefinFrame_keeps h _ _ _ fun _ _ hu => doWrite_keeps hu _

theorem execRegisterWrite_goesOn (h : Keeps s t) (index sub value) : GoesOn s (execRegisterWrite index sub value t) :=
  .next <| by
    refine .ite h ?_
    split
    · exact emit_keeps h _
    · refine .ite (emit_keeps h _) (.ite (emit_keeps h _) (.ite (emit_keeps h _) ?_))
      exact emit_keeps (writeEntry_keeps h _) _

theorem execWriteBlob_goesOn (h : Keeps s t) (q) : GoesOn s (execWriteBlob q t) :=
  .next <| xefinFrame_keeps h _ _ _ fun _ _ hu => doWriteBlob_keeps hu _ _ fun _ _ _ _ => by
    split
    · exact hu
    · exact hu

theorem execImageWrite_goesOn (h : Keeps s t) (q outside) : GoesOn s (execImageWrite q outside t) :=
  .next <| xefinFrame_keeps h _ _ _ fun _ _ hu => doWriteBlob_keeps hu _ _ fun _ _ _ _ => imageWrite_keeps hu ..

theorem execKeyDelivery_goesOn (h : Keeps s t) (q unwraps) : GoesOn s (execKeyDelivery q unwraps t) :=
  .next <| xefinFrame_keeps h _ _ _ fun _ _ hu => doWriteBlob_keeps hu _ _ fun _ _ _ _ => by
    split
    · exact hu
    · exact deliverKey_keeps hu ..

theorem execStage_goesOn (h : Keeps s t) (q) : GoesOn s (execStage q t) :=
  .next <| xefinFrame_keeps h _ _ _ fun _ _ hu => doStage_keeps hu _

theorem execDiscard_goesOn (h : Keeps s t) (q) : GoesOn s (execDiscard q t) :=
  .next <| xefinFrame_keeps h _ _ _ fun _ _ hu => doDiscard_keeps hu _

theorem execSessOpen_goesOn (h : Keeps s t) (q sigOk) : GoesOn s (execSessOpen q sigOk t) :=
  .next <| xefinFrame_keeps h _ _ _ fun _ _ hu => doOpen_keeps hu ..

theorem execSessClose_goesOn (h : Keeps s t) (q) : GoesOn s (execSessClose q t) :=
  .next <| xefinFrame_keeps h _ _ _ fun _ _ hu => by
    split
    · exact hu
    · exact endSession_keeps hu ..

theorem execSessionIdleTimeout_goesOn (h : Keeps s t) (id) : GoesOn s (execSessionIdleTimeout id t) := .next <| by
  split
  · exact .ite (endSession_keeps h ..) h
  · exact h

theorem execFragmentTimeout_goesOn (h : Keeps s t) : GoesOn s (execFragmentTimeout t) := .next <| h.upd ..

theorem execArpRequest_goesOn (h : Keeps s t) (target senderIp senderMac) :
    GoesOn s (execArpRequest target senderIp senderMac t) := .next <| .ite h (emit_keeps h _)

theorem execIcmpEcho_goesOn (h : Keeps s t) (target source data) : GoesOn s (execIcmpEcho target source data t) :=
  .next <| .ite h (emit_keeps h _)

theorem execDhcpClient_goesOn (h : Keeps s t) (e) : GoesOn s (execDhcpClient e t) := .next <| by
  refine .ite h ?_
  extract_lets
  split
  · exact emit_keeps (h.upd ..) _
  · exact emit_keeps (h.upd ..) _
  · exact .ite (setEntry_keeps (h.upd ..) ..) h
  · exact emit_keeps (h.upd ..) _
  · exact emit_keeps (.upd (setEntry_keeps h ..) ..) _
  · exact h

theorem execCommitApply_goesOn (h : Keeps s t) : GoesOn s (execCommitApply t) := .next <| by
  refine .ite h ?_
  split
  · exact h
  · extract_lets passed u _ v pending
    have hv : Keeps s v := .upd (advanceTo_keeps h _) ..
    refine .ite (refuseAtEdge_keeps hv ..) ?_
    split
    · exact refuseAtEdge_keeps hv ..
    · exact acceptAtEdge_keeps hv _

theorem execCommit_goesOn (h : Keeps s t) (q) : GoesOn s (execCommit q t) :=
  .next <| xefinFrame_keeps h _ _ _ fun _ _ hu => doCommit_keeps hu _

theorem execCancel_goesOn (h : Keeps s t) (q) : GoesOn s (execCancel q t) :=
  .next <| xefinFrame_keeps h _ _ _ fun _ _ hu => doCancel_keeps hu _

/-! ## Words that name no instruction, power, SPDM -/

theorem execIllegal_goesOn (h : Keeps s t) (ht l word) : GoesOn s (execIllegal ht l word t) :=
  .issue h fun _ hu => .ite (faultHeat_keeps hu ..) (.ite h hu)

theorem execPwrOk_goesOn (h : Keeps s t) (low ns) : GoesOn s (execPwrOk low ns t) :=
  .next <| .ite (.ite h (resetPins_keeps (wholeReset_keeps h _) ..)) (.ite (resetPins_keeps h ..) h)

theorem execSysRstN_goesOn (h : Keeps s t) (low ns) : GoesOn s (execSysRstN low ns t) := .next <| by
  refine .ite (.ite h (.ite (h.upd ..) (.ite (resetPins_keeps h ..) ?_))) (.ite (.ite (h.upd ..) (resetPins_keeps h ..)) h)
  exact resetPins_keeps (wholeReset_keeps h _) ..

theorem execReset_goesOn (h : Keeps s t) : GoesOn s (execReset t) := .next <| by
  split
  · exact .ite h (readPuf_keeps (wholeReset_keeps h _))
  · exact h

theorem execPerstN_goesOn (h : Keeps s t) (low) : GoesOn s (execPerstN low t) :=
  .next <| .ite (.ite (h.upd ..) (.upd (h.upd ..) ..)) (h.upd ..)

theorem execXefinPhase1_goesOn (h : Keeps s t) : GoesOn s (execXefinPhase1 t) :=
  .next <| .ite h (drawPowerUpKeys_keeps (.upd (advanceTo_keeps h _) ..))

theorem execXefinPhase2_goesOn (h : Keeps s t) (failed) : GoesOn s (execXefinPhase2 failed t) := .next <| by
  refine .ite h ?_
  extract_lets u _ v
  have hv : Keeps s v := .upd (advanceTo_keeps h _) ..
  refine .ite hv (moduleState_keeps (.foldl (hv.upd ..) _ fun _ _ hs => ?_) _)
  exact .ite (markSuspect_keeps hs _) hs

theorem execHbmTrainingEnd_goesOn (h : Keeps s t) (passed) : GoesOn s (execHbmTrainingEnd passed t) :=
  .next <| .ite h (h.upd ..)

theorem execLinkTrainingBegin_goesOn (h : Keeps s t) : GoesOn s (execLinkTrainingBegin t) :=
  .next <| .ite h (.upd (advanceTo_keeps h _) ..)

theorem execModuleReady_goesOn (h : Keeps s t) : GoesOn s (execModuleReady t) :=
  .next <| .ite h (moduleState_keeps (setEntry_keeps h ..) _)

theorem execMailboxOpen_goesOn (h : Keeps s t) : GoesOn s (execMailboxOpen t) :=
  .next <| .ite h (.upd (advanceTo_keeps h _) ..)

theorem execThermalTrip_goesOn (h : Keeps s t) (mc) : GoesOn s (execThermalTrip mc t) :=
  .next <| .ite h (emit_keeps (.upd (wholeReset_keeps h _) ..) _)

theorem execBoundaryScan_goesOn (h : Keeps s t) (i cells) : GoesOn s (execBoundaryScan i cells t) :=
  .next <| .ite (emit_keeps (h.upd ..) _) (h.upd ..)

/-! ## Every command -/

/-- Every command goes on, leaves the queue alone and keeps the memory canonical: one case per row of the command table. -/
theorem exec_goesOn (h : Keeps s t) (c : Instr) : GoesOn s (exec c t) := by
  cases c with
  | blRun => exact execBlRun_goesOn h ..
  | bladeCheck => exact execBladeCheck_goesOn h ..
  | rampGateOpen => exact execRampGateOpen_goesOn h ..
  | granuleWatchdog => exact execGranuleWatchdog_goesOn h ..
  | tileDecision => exact execTileDecision_goesOn h ..
  | tileRedo => exact execTileRedo_goesOn h ..
  | bladeComplete => exact execBladeComplete_goesOn h ..
  | receiveSlotArrival => exact execReceiveSlotArrival_goesOn h ..
  | receiveSlotCreditReturn => exact execReceiveSlotCreditReturn_goesOn h ..
  | chOpen => exact execChOpen_goesOn h ..
  | chDrop => exact execChDrop_goesOn h ..
  | chBind => exact execChBind_goesOn h ..
  | chUnbind => exact execChUnbind_goesOn h ..
  | chTopen => exact execChTopen_goesOn h ..
  | chTclose => exact execChTclose_goesOn h ..
  | scExpand => exact .issueScull h ..
  | scQuant => exact .issueScull h ..
  | scBias => exact .issueScull h ..
  | scAct => exact .issueScull h ..
  | scGate => exact .issueScull h ..
  | scResid => exact .issueScull h ..
  | scSmax => exact .issueScull h ..
  | scStats => exact .issueScull h ..
  | scMark => exact .issueScull h ..
  | scLedger => exact .issueScull h ..
  | scAdd => exact .issueScull h ..
  | scRsum => exact .issueScull h ..
  | scCarry => exact .issueScull h ..
  | scCadd => exact .issueScull h ..
  | scUncarry => exact .issueScull h ..
  | scOpt => exact .issueScull h ..
  | scLoss => exact .issueScull h ..
  | scullComplete => exact execScullComplete_goesOn h ..
  | laMove => exact .issueLaunch h ..
  | moveComplete => exact execMoveComplete_goesOn h ..
  | laWindow => exact .issueLaunch h ..
  | windowLayerLanded => exact execWindowLayerLanded_goesOn h ..
  | windowRelease => exact execWindowRelease_goesOn h ..
  | laHintPrefetch => exact .issueLaunch h ..
  | laHintPin => exact .issueLaunch h ..
  | laHintUnpin => exact .issueLaunch h ..
  | pinResident => exact execPinResident_goesOn h ..
  | laRelay => exact execLaRelay_goesOn h ..
  | reduceScatter => exact .next (relayHead_keeps h ..)
  | allGather => exact .next (relayHead_keeps h ..)
  | allReduce => exact .next (relayHead_keeps h ..)
  | permute => exact .next (relayHead_keeps h ..)
  | reduceSegment => exact .next (receiveData_keeps h ..)
  | gatherSegment => exact .next (receiveData_keeps h ..)
  | permuteSegment => exact .next (receiveData_keeps h ..)
  | consensusWord => exact .next (receiveData_keeps h ..)
  | consensusLapEnd => exact execConsensusLapEnd_goesOn h ..
  | collectiveComplete => exact execCollectiveComplete_goesOn h ..
  | syPost => exact execSyPost_goesOn h ..
  | syWait => exact execSyWait_goesOn h ..
  | waitSatisfied => exact execWaitSatisfied_goesOn h ..
  | sySet => exact execSySet_goesOn h ..
  | syAcq => exact execSyAcq_goesOn h ..
  | syRel => exact execSyRel_goesOn h ..
  | syFence => exact execSyFence_goesOn h ..
  | syFrame => exact execSyFrame_goesOn h ..
  | frameWorkEnd => exact execFrameWorkEnd_goesOn h ..
  | waitWatchdog => exact execWaitWatchdog_goesOn h ..
  | queueSpace => exact execQueueSpace_goesOn h ..
  | ctNop => exact execCtNop_goesOn h ..
  | ctSetc => exact execCtSetc_goesOn h ..
  | ctAddc => exact execCtAddc_goesOn h ..
  | ctBr => exact execCtBr_goesOn h ..
  | ctLoop => exact execCtLoop_goesOn h ..
  | ctPhase => exact execCtPhase_goesOn h ..
  | ctPmark => exact execCtPmark_goesOn h ..
  | ctStep => exact execCtStep_goesOn h ..
  | stepLoop => exact execStepLoop_goesOn h ..
  | ctHalt => exact execCtHalt_goesOn h ..
  | heatDone => exact execHeatDone_goesOn h ..
  | ingest => exact execIngest_goesOn h ..
  | ingestCopy => exact execIngestCopy_goesOn h ..
  | admitService => exact execAdmit_goesOn h ..
  | admitRequestRead => exact execAdmitRequestRead_goesOn h ..
  | checkpoint => exact execCheckpoint_goesOn h ..
  | checkpointSnapshot => exact execCheckpointSnapshot_goesOn h ..
  | note => exact execNote_goesOn h ..
  | strokeEdge => exact execStrokeEdge_goesOn h ..
  | maintenanceSlotOpen => exact execMaintenanceSlotOpen_goesOn h ..
  | pmarkSave => exact execPmarkSave_goesOn h ..
  | pmarkDeadline => exact execPmarkDeadline_goesOn h ..
  | collectiveWaitLimit => exact execCollectiveWaitLimit_goesOn h ..
  | saveComplete => exact execSaveComplete_goesOn h ..
  | restoreComplete => exact execRestoreComplete_goesOn h ..
  | start => exact execStart_goesOn h ..
  | stop => exact .next (stopHeat_keeps h _)
  | suspend => exact .next (suspendHeat_keeps h _)
  | resume => exact .next (resumeHeat_keeps h _)
  | hbmRead => exact execHbmRead_goesOn h ..
  | hbmWrite => exact execHbmWrite_goesOn h ..
  | partialWriteMergeTimeout => exact execPartialWriteMergeTimeout_goesOn h ..
  | regionFillDone => exact execRegionFillDone_goesOn h ..
  | retrainDone => exact execRetrainDone_goesOn h ..
  | forcedRetrain => exact execForcedRetrain_goesOn h ..
  | stackTemperature => exact execStackTemperature_goesOn h ..
  | oarlockDownWait => exact execOarlockDownWait_goesOn h ..
  | signalDetect => exact execSignalDetect_goesOn h ..
  | equaliseDone => exact execEqualiseDone_goesOn h ..
  | alignDone => exact execAlignDone_goesOn h ..
  | trainingLimit => exact execTrainingLimit_goesOn h ..
  | identityFrame => exact execIdentityFrame_goesOn h ..
  | identityFrameSend => exact execIdentityFrameSend_goesOn h ..
  | encaps => exact execEncaps_goesOn h ..
  | cipher => exact execCipher_goesOn h ..
  | proof => exact execProof_goesOn h ..
  | ready => exact execReady_goesOn h ..
  | readySend => exact execReadySend_goesOn h ..
  | rekey => exact execRekey_goesOn h ..
  | linkRekeyStart => exact execLinkRekeyStart_goesOn h ..
  | crewUpdate => exact execCrewUpdate_goesOn h ..
  | crewAck => exact execCrewAck_goesOn h ..
  | crewUpdateTimeout => exact execCrewUpdateTimeout_goesOn h ..
  | telem => exact execTelem_goesOn h ..
  | telemSend => exact execTelemSend_goesOn h ..
  | telemetryMissing => exact execTelemetryMissing_goesOn h ..
  | stopFrame => exact execStopFrame_goesOn h ..
  | oarlockLoss => exact execOarlockLoss_goesOn h ..
  | electricalIdleTimer => exact execElectricalIdleTimer_goesOn h ..
  | codewordLockTimer => exact execCodewordLockTimer_goesOn h ..
  | noValidWordTimer => exact execNoValidWordTimer_goesOn h ..
  | idle => exact execIdle_goesOn h ..
  | credit => exact execCredit_goesOn h ..
  | ack => exact execAck_goesOn h ..
  | ackSend => exact execAckSend_goesOn h ..
  | replayTimeout => exact execReplayTimeout_goesOn h ..
  | tick => exact execTick_goesOn h ..
  | notReady => exact execNotReady_goesOn h ..
  | align => exact execAlign_goesOn h ..
  | alignSend => exact execAlignSend_goesOn h ..
  | peerRecordIdle => exact execPeerRecordIdle_goesOn h ..
  | wardData => exact .next (receivePut_keeps h ..)
  | sealReq => exact .next (receivePut_keeps h ..)
  | sealRep => exact .next (receivePut_keeps h ..)
  | restoreData => exact .next (receivePut_keeps h ..)
  | ptpSync => exact execPtpSync_goesOn h ..
  | ptpAnnounce => exact execPtpAnnounce_goesOn h ..
  | ppsInEdge => exact execPpsInEdge_goesOn h ..
  | tickInEdge => exact execTickInEdge_goesOn h ..
  | referenceLossTimeout => exact execReferenceLossTimeout_goesOn h ..
  | eventRecord => exact execEventRecord_goesOn h ..
  | mirrorDatagram => exact execMirrorDatagram_goesOn h ..
  | ergWindowClose => exact execErgWindowClose_goesOn h ..
  | ergSnapshot => exact .next (snapshot_keeps h)
  | pacerEval => exact execPacerEval_goesOn h ..
  | powerCapStep => exact execPowerCapStep_goesOn h ..
  | capFloorTimeout => exact execCapFloorTimeout_goesOn h ..
  | disagreementTimeout => exact execDisagreementTimeout_goesOn h ..
  | holdEnd => exact execHoldEnd_goesOn h ..
  | junctionTemperature => exact execJunctionTemperature_goesOn h ..
  | thermalTrip => exact execThermalTrip_goesOn h ..
  | railRead => exact execRailRead_goesOn h ..
  | droopTrip => exact execDroopTrip_goesOn h ..
  | stretchEnd => exact execStretchEnd_goesOn h ..
  | seatSliceEnd => exact execSeatSliceEnd_goesOn h ..
  | rotateOut => exact .next (rotateOut_keeps h _)
  | seatReturn => exact .next (returnBlade_keeps h _)
  | automaticRotation => exact execAutomaticRotation_goesOn h ..
  | scrub => exact execScrub_goesOn h ..
  | scrubEnd => exact execScrubEnd_goesOn h ..
  | rotate => exact .next (rotate_keeps h _)
  | rekeyPassDone => exact execRekeyPassDone_goesOn h ..
  | keyDelivery => exact execKeyDelivery_goesOn h ..
  | trngHealthFailure => exact execTrngHealthFailure_goesOn h ..
  | getVersion => exact .next (spdm_keeps h _ _ _ fun _ _ _ hu => spdmGetVersion_keeps _ _ hu)
  | getCapabilities => exact .next (spdm_keeps h _ _ _ fun _ _ _ hu => spdmGetCapabilities_keeps _ _ hu)
  | negotiateAlgorithms => exact .next (spdm_keeps h _ _ _ fun _ _ _ hu => spdmNegotiate_keeps _ _ hu)
  | getDigests => exact .next (spdm_keeps h _ _ _ fun _ _ _ hu => spdmGetDigests_keeps _ _ hu)
  | getCertificate => exact .next (spdm_keeps h _ _ _ fun _ _ _ hu => spdmGetCertificate_keeps _ _ hu)
  | challenge => exact .next (spdm_keeps h _ _ _ fun _ _ _ hu => spdmChallenge_keeps _ _ hu)
  | getMeasurements => exact .next (spdm_keeps h _ _ _ fun _ _ _ hu => spdmGetMeasurements_keeps _ _ hu)
  | spdmUnsupportedRequest => exact .next (spdm_keeps h _ _ _ fun _ _ _ hu => spdmError_keeps hu ..)
  | read => exact execRead_goesOn h ..
  | readBlob => exact execReadBlob_goesOn h ..
  | logbookRead => exact execLogbookRead_goesOn h ..
  | write => exact execWrite_goesOn h ..
  | writeBlob => exact execWriteBlob_goesOn h ..
  | imageWrite => exact execImageWrite_goesOn h ..
  | registerWrite => exact execRegisterWrite_goesOn h ..
  | stage => exact execStage_goesOn h ..
  | discard => exact execDiscard_goesOn h ..
  | commit => exact execCommit_goesOn h ..
  | commitApply => exact execCommitApply_goesOn h ..
  | cancel => exact execCancel_goesOn h ..
  | sessOpen => exact execSessOpen_goesOn h ..
  | sessClose => exact execSessClose_goesOn h ..
  | sessionIdleTimeout => exact execSessionIdleTimeout_goesOn h ..
  | fragmentTimeout => exact execFragmentTimeout_goesOn h ..
  | activate => exact execActivate_goesOn h ..
  | abandon => exact .next (abandonPart_keeps h _)
  | partActiveEnd => exact execPartActiveEnd_goesOn h ..
  | arpRequest => exact execArpRequest_goesOn h ..
  | icmpEcho => exact execIcmpEcho_goesOn h ..
  | dhcpClient => exact execDhcpClient_goesOn h ..
  | recover => exact .next (recoveryCommand_keeps h ..)
  | restore => exact .next (recoveryCommand_keeps h ..)
  | sendWard => exact .next (recoveryCommand_keeps h ..)
  | receive => exact .next (recoveryCommand_keeps h ..)
  | clear => exact .next (recoveryCommand_keeps h ..)
  | restoreDone => exact execRestoreDone_goesOn h ..
  | pwrOk => exact execPwrOk_goesOn h ..
  | sysRstN => exact execSysRstN_goesOn h ..
  | perstN => exact execPerstN_goesOn h ..
  | reset => exact execReset_goesOn h ..
  | stage1Start => exact execStage1Start_goesOn h ..
  | bootRunning => exact execBootRunning_goesOn h ..
  | backgroundVerifyDone => exact execBackgroundVerifyDone_goesOn h ..
  | xefinPhase1 => exact execXefinPhase1_goesOn h ..
  | xefinPhase2 => exact execXefinPhase2_goesOn h ..
  | hbmTrainingEnd => exact execHbmTrainingEnd_goesOn h ..
  | linkTrainingBegin => exact execLinkTrainingBegin_goesOn h ..
  | moduleReady => exact execModuleReady_goesOn h ..
  | illegal => exact execIllegal_goesOn h ..
  | lossOfSignal => exact execLossOfSignal_goesOn h ..
  | railSettled => exact execRailSettled_goesOn h ..
  | thermalStepDown => exact execThermalStepDown_goesOn h ..
  | trngHealthRecovery => exact execTrngHealthRecovery_goesOn h ..
  | signingTreeBuilt => exact execSigningTreeBuilt_goesOn h ..
  | unsealSegmentDone => exact execUnsealSegmentDone_goesOn h ..
  | ppsOutSecond => exact execPpsOutSecond_goesOn h ..
  | mailboxOpen => exact execMailboxOpen_goesOn h ..
  | wardTransferEnd => exact execWardTransferEnd_goesOn h ..
  | bankRefresh => exact execBankRefresh_goesOn h ..
  | boundaryScan => exact execBoundaryScan_goesOn h ..
  -- UNSEAL: a constructor whose name is a keyword of Lean
  | _ => exact .next (startUnseal_keeps h ..)

end

/-! ## The invariant -/

/-- Settles O4: after reset the memory lists no byte. -/
theorem resetMeetsTheInvariant : Obligations.ResetMeetsTheInvariant := by
  have hm : State.reset.mem = [] := rfl
  unfold Obligations.ResetMeetsTheInvariant State.Inv State.memCanonical
  rw [hm]
  rfl

/-- The step lemma of the invariant: a tick of the oscillator touches no memory, and a command keeps the frame. -/
theorem step_memCanonical {s t : State} (h : s.memCanonical) (e : step s = .next t) : t.memCanonical := by
  unfold step at e
  split at e
  · cases e
    exact (State.idle_keeps (.refl s)).canon h
  · rename_i c rest _
    obtain ⟨u, hu, hk⟩ := exec_goesOn (.refl { s with pending := rest }) c
    cases hu.symm.trans e
    exact hk.canon h

/-- Settles O5: a step runs one command, and every command keeps the canonical form. -/
theorem everyStepKeepsTheInvariant : Obligations.EveryStepKeepsTheInvariant := fun _ _ h e => step_memCanonical h e

/-! ## What the end of a Heat leaves of the Heats

Before it stops the lanes the end of a Heat settles, discards, releases and completes (R251, R492, R501). None of this touches the Heats,
but for the admission of the Heat that ends; the scheduler then touches `restoring` alone. -/

section
variable {s t : State}

/-- A fold of operations that leave the Heats alone leaves them alone. -/
theorem foldl_heats {α : Type} {f : State → α → State} (hf : ∀ s x, (f s x).heats = s.heats) (xs : List α) (s : State) :
    (xs.foldl f s).heats = s.heats := by
  induction xs generalizing s with
  | nil => rfl
  | cons x xs ih => exact (ih _).trans (hf s x)

namespace State

@[simp] theorem setRingIndex_heats (s : State) (ring off v : Nat) : (s.setRingIndex ring off v).heats = s.heats := rfl

@[simp] theorem complete_heats (s : State) (a : AdmitArg) (rid : Nat) (k : AdmitKind) (status slot ageUs : Nat) :
    (s.complete a rid k status slot ageUs).heats = s.heats := rfl

@[simp] theorem convertPageNo_heats (s : State) (r : Fin 64) (p : Nat) : (s.convertPageNo r p).heats = s.heats := by
  unfold convertPageNo
  dsimp only
  split <;> simp

@[simp] theorem convertPage_heats (s : State) (r : Fin 64) (off : Nat) : (s.convertPage r off).heats = s.heats := by
  unfold convertPage
  extract_lets
  split
  · rfl
  · dsimp only
    split <;> simp

@[simp] theorem writePage_heats (s : State) (g : Region) (p : Nat) (page : List Byte) : (s.writePage g p page).heats = s.heats := by
  unfold writePage
  dsimp only
  split <;> rfl

@[simp] theorem store1_heats (s : State) (a : Acc) (addr : Nat) (b : Byte) : (s.store1 a addr b).heats = s.heats := by
  unfold store1
  split
  · dsimp only
    split
    · split <;> simp
    · rfl
  · simp
  · rfl

@[simp] theorem countStop_heats (s : State) (h : Fin 64) (l : Fin 4) (w : Nat) : (s.countStop h l w).heats = s.heats := by
  unfold countStop
  split
  · dsimp only
    split <;> simp
  all_goals simp

@[simp] theorem settleLanes_heats (s : State) (h : Fin 64) : (s.settleLanes h).heats = s.heats := foldl_heats (by simp) _ s

@[simp] theorem discardQueued_heats (s : State) (h : Fin 64) : (s.discardQueued h).heats = s.heats := rfl

@[simp] theorem releaseShared_heats (s : State) (h : Fin 64) : (s.releaseShared h).heats = s.heats := by
  refine foldl_heats (fun u k => ?_) _ s
  split <;> simp

end State

/-- What a fault shows of a Heat (R251): its status, the code, lane and address of its fault, and its lanes. -/
def Heat.standing (x : Heat) : HeatStatus × Nat × Nat × Nat × Vector Lane 4 := (x.status, x.faultCode, x.faultLane, x.faultPc, x.lanes)

namespace State

/-- A change of a Heat that leaves its standing alone leaves that of every Heat alone. -/
theorem onHeat_standing (s : State) (h g : Fin 64) {f : Heat → Heat} (hf : ∀ x, (f x).standing = x.standing) :
    (s.onHeat h f).heats[g].standing = s.heats[g].standing := by
  by_cases e : g = h
  · subst e; simp [hf]
  · simp [updAt_ne _ _ e]

theorem endSequences_standing (s : State) (h g : Fin 64) : (s.endSequences h).heats[g].standing = s.heats[g].standing := by
  unfold endSequences
  split
  · rfl
  · extract_lets acc u
    have hu : u.heats = s.heats := foldl_heats (fun v k => by extract_lets; split <;> (try split) <;> simp) _ s
    refine (onHeat_standing u h g fun _ => ?_).trans (by rw [hu])
    rfl

theorem schedule_standing (s : State) (c : Fin 4) (g : Fin 64) : (s.schedule c).heats[g].standing = s.heats[g].standing := by
  unfold schedule
  split
  · rfl
  · split
    · rfl
    · exact onHeat_standing _ _ _ fun _ => rfl

/-- The lanes of a Heat that ends: halted, with no wait to count. -/
def haltedLanes (ls : Vector Lane 4) : Vector Lane 4 := ls.map fun l => { l with stop := .halted, waited := 0 }

/-- The state of a Heat that ends, before its lanes stop: no standing has changed. -/
theorem standing_before_end (s : State) (h g : Fin 64) :
    ((((s.settleLanes h).discardQueued h).releaseShared h).endSequences h).heats[g].standing = s.heats[g].standing :=
  (endSequences_standing ..).trans (by simp)

/-- A Heat that ends has its new status and halted lanes; its fault fields stay. -/
theorem endHeat_standing (s : State) (h : Fin 64) (st : HeatStatus) :
    (s.endHeat h st).heats[h].standing =
      (st, s.heats[h].faultCode, s.heats[h].faultLane, s.heats[h].faultPc, haltedLanes s.heats[h].lanes) := by
  have e := standing_before_end s h h
  simp only [Heat.standing, Prod.mk.injEq, Fin.getElem_fin] at e
  obtain ⟨-, hcode, hlane, hpc, hlanes⟩ := e
  unfold endHeat
  rw [schedule_standing]
  simp [Heat.standing, hcode, hlane, hpc, hlanes, haltedLanes]

theorem endHeat_standing_ne (s : State) {h g : Fin 64} (st : HeatStatus) (e : g ≠ h) :
    (s.endHeat h st).heats[g].standing = s.heats[g].standing := by
  unfold endHeat
  rw [schedule_standing]
  simpa [updAt_ne _ _ e] using standing_before_end s h g

end State

/-! ## Plan faults (R250, R251, R666) -/

theorem faultedBy_of_standing {h : Fin 64} {l : Fin 4} {pc : Nat} {p : Plan} {ls : Vector Lane 4}
    (e : t.heats[h].standing = (.faulted, p.code, l.val, pc, State.haltedLanes ls)) : FaultedBy h l pc p t := by
  simp only [Heat.standing, Prod.mk.injEq] at e
  obtain ⟨hst, hcode, hlane, hpc, hlanes⟩ := e
  refine ⟨hst, hcode, hlane, hpc, fun m => ?_⟩
  unfold State.lane
  rw [hlanes]
  simp [State.haltedLanes]

/-- A fault of a RUNNING Heat: it is FAULTED with code, lane and address, and no other Heat's standing changes (R251). -/
theorem faultHeat_faults {h : Fin 64} (hr : s.heats[h].status = .running) (l : Fin 4) (pc : Nat) (p : Plan) :
    FaultedBy h l pc p (s.faultHeat h l pc p)
      ∧ ∀ g, g ≠ h → (s.faultHeat h l pc p).heats[g].status = s.heats[g].status := by
  unfold State.faultHeat State.faultFrom
  rw [if_pos (.inl hr)]
  dsimp only
  refine ⟨faultedBy_of_standing (ls := s.heats[h].lanes) ?_, fun g hg => ?_⟩
  · rw [State.endHeat_standing]
    simp
  · refine (congrArg Prod.fst (State.endHeat_standing_ne _ .faulted hg)).trans ?_
    simp [Heat.standing, updAt_ne _ _ hg]

theorem running_of_canIssue {h : Fin 64} {l : Fin 4} (hc : s.canIssue h l = true) : s.heats[h].status = .running := by
  simp only [State.canIssue, Heat.acting, Bool.and_eq_true, beq_iff_eq] at hc
  exact hc.1.1.1.1

/-- An answer that faults Heat `h`, by lane `l` at its program counter, and changes no other Heat's status. -/
def FaultsAlone (s : State) (h : Fin 64) (l : Fin 4) (p : Plan) (o : Host.Outcome State Fault Refusal) : Prop :=
  ∃ t, o = .next t ∧ FaultedBy h l (s.lane h l).pc p t ∧ ∀ g, g ≠ h → t.heats[g].status = s.heats[g].status

/-- An instruction that issues with a fault faults its Heat and no other. -/
theorem issue_faults {h : Fin 64} {l : Fin 4} {faults : List (Plan × Bool)} {eff : State → State} {p : Plan}
    (hc : s.canIssue h l = true) (hf : lowestFault faults = some p) : FaultsAlone s h l p (s.issue h l faults eff) :=
  ⟨_, State.issue_fault hc hf, faultHeat_faults (running_of_canIssue hc) ..⟩

/-- The first fault found is the lowest where no other has a lower code. -/
theorem lowestFault_cons {p : Plan} {cs : List (Plan × Bool)} (hcs : ∀ c ∈ cs, p.code ≤ c.1.code) :
    lowestFault ((p, true) :: cs) = some p := by
  unfold lowestFault
  rw [List.foldl_cons]
  induction cs with
  | nil => rfl
  | cons c cs ih =>
    have hc : ¬ c.1.code < p.code := Nat.not_lt.2 (hcs c List.mem_cons_self)
    simpa [hc] using ih fun d hd => hcs d (List.mem_cons_of_mem _ hd)

/-- A set reserved bit is found before every fault but ILLEGAL (R666). -/
theorem lowestFault_rsvBad {k : Nat} {r : BitVec k} (hr : r ≠ 0) {cs : List (Plan × Bool)}
    (hcs : cs.all (fun c => Plan.insnReserved.code ≤ c.1.code) = true) : lowestFault (rsvBad r :: cs) = some .insnReserved := by
  have e : rsvBad r = (.insnReserved, true) := by simpa [rsvBad] using hr
  rw [e]
  exact lowestFault_cons (by simpa using hcs)

/-- An instruction with a set reserved bit, whose other faults have no lower code, faults its Heat with INSN_RESERVED (R13, R250). -/
theorem issue_reserved {h : Fin 64} {l : Fin 4} {k : Nat} {r : BitVec k} {faults : List (Plan × Bool)} {eff : State → State}
    (hc : s.canIssue h l = true) (hr : r ≠ 0) (hf : faults.all (fun c => Plan.insnReserved.code ≤ c.1.code) = true) :
    FaultsAlone s h l .insnReserved (s.issue h l (rsvBad r :: faults) eff) := issue_faults hc (lowestFault_rsvBad hr hf)

/-- ILLEGAL: a word with no listed opcode is found at issue (R203). -/
theorem execIllegal_unlisted (s : State) (h : Fin 64) (l : Fin 4) {word : BitVec 64} (hw : listedWord word.toNat = false) :
    ∃ eff, execIllegal h l word s = s.issue h l [(.illegal, true)] eff := by
  unfold execIllegal
  simp only [hw]
  exact ⟨_, rfl⟩

/-- SVC: a CT_SVC that is well formed but names no service issues, and then faults (R249, R250). -/
theorem execIllegal_unknownService {s : State} {h : Fin 64} {l : Fin 4} {word : BitVec 64} (hc : s.canIssue h l = true)
    (hw : listedWord word.toNat = true) (hu : unknownService word.toNat = true) (hrsv : bitsOf word.toNat 0 15 = 0)
    (hsem : semBad true (bitsOf word.toNat 15 9) = false) :
    execIllegal h l word s = .next ((s.bump (0x7200 + h.val) 6 1).faultHeat h l (s.lane h l).pc .svc) := by
  unfold execIllegal
  extract_lets w
  rw [State.issue_ok hc (by simp [w, hw, hrsv, hsem])]
  simp [w, hu]

end

/-- Settles O19: a word that names nothing, an unlisted service and a set reserved bit fault the Heat at issue. -/
theorem badWordsFault : Obligations.BadWordsFault := by
  refine ⟨fun s h l word hc => ⟨fun hw => ?_, fun hw hu hrsv hsem => ?_⟩, fun s h l c hc hcase => ?_⟩
  · obtain ⟨eff, he⟩ := execIllegal_unlisted s h l hw
    obtain ⟨t, ht, hf, -⟩ := issue_faults (eff := eff) hc (lowestFault_cons (p := .illegal) (cs := []) (by simp))
    exact ⟨t, he.trans ht, hf⟩
  · have hr : (s.bump (0x7200 + h.val) 6 1).heats[h].status = .running := by
      rw [State.bump_heats]
      exact running_of_canIssue hc
    exact ⟨_, execIllegal_unknownService hc hw hu hrsv hsem, (faultHeat_faults hr ..).1⟩
  · change FaultsAlone s h l .insnReserved (exec c s)
    rcases hcase with ⟨sem, n, r, hr, rfl⟩ | ⟨sem, n, k, x, r, hr, rfl⟩ | ⟨sem, v, r, hr, rfl⟩
      | ⟨sem, r, hr, rfl⟩ | ⟨sem, r, hr, rfl⟩ | ⟨m, r, hr, rfl⟩ | ⟨r, hr, rfl⟩
      | ⟨i, v, r, hr, rfl⟩ | ⟨i, v, r, hr, rfl⟩ | ⟨i, o, r, hr, rfl⟩
      | ⟨p, r, hr, rfl⟩ | ⟨r, hr, rfl⟩ | ⟨r, hr, rfl⟩ | ⟨e, d, x, k, r, hr, rfl⟩ | ⟨u, d, x, k, r, hr, rfl⟩
    · exact (issue_reserved hc hr rfl : FaultsAlone s h l .insnReserved (execSyPost h l sem n r s))
    · exact (issue_reserved hc hr rfl : FaultsAlone s h l .insnReserved (execSyWait h l sem n k x r s))
    · exact (issue_reserved hc hr rfl : FaultsAlone s h l .insnReserved (execSySet h l sem v r s))
    · exact (issue_reserved hc hr rfl : FaultsAlone s h l .insnReserved (execSyAcq h l sem r s))
    · exact (issue_reserved hc hr rfl : FaultsAlone s h l .insnReserved (execSyRel h l sem r s))
    · exact (issue_reserved hc hr rfl : FaultsAlone s h l .insnReserved (execSyFence h l m r s))
    · exact (issue_reserved hc hr rfl : FaultsAlone s h l .insnReserved (execCtNop h l r s))
    · exact (issue_reserved hc hr rfl : FaultsAlone s h l .insnReserved (execCtSetc h l i v r s))
    · exact (issue_reserved hc hr rfl : FaultsAlone s h l .insnReserved (execCtAddc h l i v r s))
    · exact (issue_reserved hc hr rfl : FaultsAlone s h l .insnReserved (execCtLoop h l i o r s))
    · exact (issue_reserved hc hr rfl : FaultsAlone s h l .insnReserved (execCtPhase h l p r s))
    · exact (issue_reserved hc hr rfl : FaultsAlone s h l .insnReserved (execCtStep h l r s))
    · exact (issue_reserved hc hr rfl : FaultsAlone s h l .insnReserved (execCtHalt h l r s))
    · exact (issue_reserved hc hr rfl : FaultsAlone s h l .insnReserved (State.issueLaunch s h l 1 e d x k r))
    · exact (issue_reserved hc hr rfl : FaultsAlone s h l .insnReserved (State.issueScull s h l 0x0B u d x k r))

end Sys2Proof.Machine
end
